-- ==== Sys2Proof/Word.lean ====
section
/-!
DEFINITION. The words of the machine: bytes, 64-bit words, vector and predicate registers, lines.
-/
namespace Sys2Proof

/-- One byte of memory (00 R4). -/
abbrev Byte := BitVec 8

/-- A 64-bit scalar value: an x register, an address, a CSR (01 R21). -/
abbrev Word := BitVec 64

/-- One vector register, 1,024 bits (01 R21). -/
abbrev VReg := BitVec 1024

/-- One predicate register, one bit for each byte lane (01 R21). -/
abbrev PReg := BitVec 128

/-- One 64-byte line (11 R237). -/
abbrev Line := BitVec 512

/-- A 256-bit command word: a tile word or a copy descriptor (08 R177, 09 R201). -/
abbrev Cmd256 := BitVec 256

/-- A 5-bit register field of an instruction word (04 R81). -/
abbrev Reg := BitVec 5

/-- Bits `[lo + len - 1 : lo]` of `w` (00 R4). -/
abbrev bits {n : Nat} (w : BitVec n) (lo len : Nat) : BitVec len := w.extractLsb' lo len

/-- Bits `[lo + len - 1 : lo]` of `w` as a number. -/
abbrev field {n : Nat} (w : BitVec n) (lo len : Nat) : Nat := (w.extractLsb' lo len).toNat

/-- The 64-bit word holding `n` modulo 2^64. -/
abbrev word (n : Nat) : Word := BitVec.ofNat 64 n

end Sys2Proof
end

