-- ==== Sys2Proof/Machine/Flags.lean ====
section
/-!
DEFINITION. The five sticky floating flags of `kxfflags` (01 R26, 03 R59) and the results that carry them.
-/
namespace Sys2Proof.Machine

/-- `kxfflags`: [4] NV, [3] DZ, [2] OF, [1] UF, [0] NX. -/
abbrev Flags := BitVec 5

/-- No flag. -/
abbrev noFlags : Flags := 0
/-- Invalid operation. -/
abbrev flagNV : Flags := 16
/-- Division of a finite non-zero value by zero. -/
abbrev flagDZ : Flags := 8
/-- Overflow. -/
abbrev flagOF : Flags := 4
/-- A tiny and inexact result. -/
abbrev flagUF : Flags := 2
/-- Inexact, which every overflow includes. -/
abbrev flagNX : Flags := 1

/-- A flag raised when `c` holds. -/
def flagIf (c : Bool) (f : Flags) : Flags := if c then f else 0

/-- A result's encoding and the flags its operation raises. -/
structure FRes where
  bits : Nat
  flags : Flags
deriving DecidableEq, Repr

end Sys2Proof.Machine
end

