-- ==== Sys2Proof/Machine/Float.lean ====
section
/-!
DEFINITION. The floating formats of 03 R55, their exact values, rounding in the five modes of 03 R58 with tininess after rounding,
and every floating operation, conversion and comparison of the W9 (03 R54 to R60, R69, 07 R157 to R159).
-/
namespace Sys2Proof.Machine

/-- A floating format: exponent and fraction widths, and whether it has infinities (03 R55). -/
structure Fmt where
  eb : Nat
  fb : Nat
  hasInf : Bool
deriving DecidableEq, Repr

namespace Fmt
/-- binary64 -/
def fp64 : Fmt := { eb := 11, fb := 52, hasInf := true }
/-- binary32 -/
def fp32 : Fmt := { eb := 8, fb := 23, hasInf := true }
/-- binary16 -/
def fp16 : Fmt := { eb := 5, fb := 10, hasInf := true }
/-- BF16 -/
def bf16 : Fmt := { eb := 8, fb := 7, hasInf := true }
/-- OFP8 E5M2 -/
def e5m2 : Fmt := { eb := 5, fb := 2, hasInf := true }
/-- OFP8 E4M3 -/
def e4m3 : Fmt := { eb := 4, fb := 3, hasInf := false }

/-- The width of the format. -/
def width (f : Fmt) : Nat := 1 + f.eb + f.fb
/-- The exponent bias. -/
def bias (f : Fmt) : Nat := 2 ^ (f.eb - 1) - 1
/-- The exponent of the least subnormal. -/
def qmin (f : Fmt) : Int := 1 - (f.bias : Int) - f.fb
/-- The sign bit. -/
def signBit (f : Fmt) (neg : Bool) : Nat := if neg then 2 ^ (f.eb + f.fb) else 0
/-- The encoding of +infinity, in the formats that have one. -/
def infBits (f : Fmt) : Nat := (2 ^ f.eb - 1) * 2 ^ f.fb
/-- The canonical NaN (03 R55). -/
def nanBits (f : Fmt) : Nat := if f.hasInf then f.infBits + 2 ^ (f.fb - 1) else 0x7F
/-- The encoding of the largest finite value. -/
def maxBits (f : Fmt) : Nat := if f.hasInf then f.infBits - 1 else 0x7E
/-- The format of vector floating elements of width code `ew` (07 R154). -/
def ofEw (ew : Nat) : Fmt := if ew = 1 then fp16 else if ew = 2 then fp32 else fp64
end Fmt

/-- An exact value: a NaN, an infinity, or sign, integer and power of two. -/
inductive FVal where
  | nan (signalling : Bool)
  | inf (neg : Bool)
  | fin (neg : Bool) (mant : Nat) (exp : Int)
deriving DecidableEq, Repr

/-- The value of an encoding (03 R55). -/
def Fmt.decode (f : Fmt) (b : Nat) : FVal :=
  let neg := b / 2 ^ (f.eb + f.fb) % 2 == 1
  let e := b / 2 ^ f.fb % 2 ^ f.eb
  let m := b % 2 ^ f.fb
  if f.hasInf ∧ e = 2 ^ f.eb - 1 then
    if m = 0 then .inf neg else .nan (m / 2 ^ (f.fb - 1) == 0)
  else if !f.hasInf ∧ b % 2 ^ (f.eb + f.fb) = 0x7F then .nan false
  else if e = 0 then .fin neg m f.qmin
  else .fin neg (2 ^ f.fb + m) (f.qmin + (e : Int) - 1)

/-- Rounding modes by code: 0 RNE, 1 RTZ, 2 RDN, 3 RUP, 4 RMM (03 R58). -/
abbrev RMode := Nat

/-- The truncated magnitude `m` rounds away from zero: `half` is the first bit dropped, `rest` whether any later bit is set. -/
def roundsUp (rm : RMode) (neg : Bool) (m : Nat) (half rest : Bool) : Bool :=
  match rm with
  | 0 => half && (rest || m % 2 == 1)
  | 1 => false
  | 2 => neg && (half || rest)
  | 3 => !neg && (half || rest)
  | _ => half

/-- `mant × 2^exp`, plus something below one unit when `sticky`, rounded to a multiple of 2^q: the multiple and whether it is
inexact. -/
def roundAt (rm : RMode) (neg : Bool) (mant : Nat) (exp : Int) (sticky : Bool) (q : Int) : Nat × Bool :=
  if q ≤ exp then
    let m := mant * 2 ^ (exp - q).toNat
    (if roundsUp rm neg m false sticky then m + 1 else m, sticky)
  else
    let sh := (q - exp).toNat
    let m := mant / 2 ^ sh
    let half := mant / 2 ^ (sh - 1) % 2 == 1
    let rest := sticky || mant % 2 ^ (sh - 1) != 0
    (if roundsUp rm neg m half rest then m + 1 else m, half || rest)

/-- What an overflow delivers (03 R58); a format without infinity delivers its NaN where R58 gives an infinity (03 R60). -/
def overflowBits (f : Fmt) (rm : RMode) (neg : Bool) : Nat :=
  let toInf := match rm with | 0 => true | 1 => false | 2 => neg | 3 => !neg | _ => true
  if toInf then (if f.hasInf then f.signBit neg + f.infBits else f.nanBits) else f.signBit neg + f.maxBits

/-- Round an exact value to a format: the encoding, and OF, UF and NX (03 R58, R59; NV where E4M3 overflows to its NaN, R60). -/
def roundTo (f : Fmt) (rm : RMode) (neg : Bool) (mant : Nat) (exp : Int) (sticky : Bool) : FRes :=
  if mant = 0 ∧ !sticky then { bits := f.signBit neg, flags := 0 }
  else
    let l : Int := Nat.log2 mant + 1
    let q0 := exp + l - (f.fb + 1)
    let q := if q0 < f.qmin then f.qmin else q0
    let r := roundAt rm neg mant exp sticky q
    let code := (q - f.qmin).toNat * 2 ^ f.fb + r.1
    if f.maxBits < code then
      let b := overflowBits f rm neg
      { bits := b, flags := flagOF ||| flagNX ||| flagIf (!f.hasInf && b == f.nanBits) flagNV }
    else
      let u := roundAt rm neg mant exp sticky q0
      let tiny := u.1 = 0 ∨ (Nat.log2 u.1 : Int) + q0 < f.qmin + f.fb
      { bits := f.signBit neg + code, flags := flagIf r.2 flagNX ||| flagIf (r.2 && tiny) flagUF }

/-- The canonical NaN, with a flag. -/
def nanRes (f : Fmt) (fl : Flags) : FRes := { bits := f.nanBits, flags := fl }
/-- An infinity. -/
def infRes (f : Fmt) (neg : Bool) (fl : Flags) : FRes := { bits := f.signBit neg + f.infBits, flags := fl }

/-- The value is a signalling NaN. -/
def FVal.isSnan : FVal → Bool | .nan s => s | _ => false
/-- The value is a NaN. -/
def FVal.isNan : FVal → Bool | .nan _ => true | _ => false
/-- The value is a zero. -/
def FVal.isZero : FVal → Bool | .fin _ 0 _ => true | _ => false
/-- The sign. -/
def FVal.neg : FVal → Bool | .nan _ => false | .inf n => n | .fin n _ _ => n
/-- The value with its sign changed. -/
def FVal.negate : FVal → FVal | .nan s => .nan s | .inf n => .inf (!n) | .fin n m e => .fin (!n) m e

/-- The signed integer at scale 2^q of a finite value. -/
def scaled (neg : Bool) (m : Nat) (e q : Int) : Int :=
  let v : Int := (m * 2 ^ (e - q).toNat : Nat)
  if neg then -v else v

/-- The exact sum of two values; an exact zero of opposite signs is +0, or -0 under RDN (03 R58). -/
def FVal.add (rm : RMode) : FVal → FVal → FVal
  | .nan s, .nan t => .nan (s || t)
  | .nan s, _ => .nan s
  | _, .nan s => .nan s
  | .inf a, .inf b => if a = b then .inf a else .nan true
  | .inf a, _ => .inf a
  | _, .inf b => .inf b
  | .fin na ma ea, .fin nb mb eb =>
    let q := if ea ≤ eb then ea else eb
    let v := scaled na ma ea q + scaled nb mb eb q
    if v = 0 then .fin (if na = nb ∧ ma = 0 ∧ mb = 0 then na else rm == 2) 0 q
    else .fin (v < 0) v.natAbs q

/-- The exact product; 0 × ∞ is invalid. -/
def FVal.mul : FVal → FVal → FVal
  | .nan s, .nan t => .nan (s || t)
  | .nan s, _ => .nan s
  | _, .nan s => .nan s
  | .inf a, .inf b => .inf (a != b)
  | .inf a, .fin b m _ => if m = 0 then .nan true else .inf (a != b)
  | .fin a m _, .inf b => if m = 0 then .nan true else .inf (a != b)
  | .fin a m e, .fin b n g => .fin (a != b) (m * n) (e + g)

/-- Round a value to a format; a NaN is the canonical one. -/
def FVal.round (f : Fmt) (rm : RMode) : FVal → FRes
  | .nan _ => nanRes f 0
  | .inf n => infRes f n 0
  | .fin n m e => roundTo f rm n m e false

/-- An operation on values that yields NaN without a quiet NaN input is invalid, and so is any signalling input (03 R57). -/
def invalid (ins : List FVal) (out : FVal) : Flags :=
  flagIf (ins.any FVal.isSnan || (out.isNan && !ins.any FVal.isNan)) flagNV

/-- The result of rounding an exact value once, with NV where the operation is invalid. -/
def finish (f : Fmt) (rm : RMode) (ins : List FVal) (out : FVal) : FRes :=
  let r := out.round f rm
  { r with flags := r.flags ||| invalid ins out }

/-- a + b -/
def fAdd (f : Fmt) (rm : RMode) (a b : Nat) : FRes :=
  finish f rm [f.decode a, f.decode b] ((f.decode a).add rm (f.decode b))
/-- a - b -/
def fSub (f : Fmt) (rm : RMode) (a b : Nat) : FRes :=
  finish f rm [f.decode a, f.decode b] ((f.decode a).add rm (f.decode b).negate)
/-- a × b -/
def fMul (f : Fmt) (rm : RMode) (a b : Nat) : FRes :=
  finish f rm [f.decode a, f.decode b] ((f.decode a).mul (f.decode b))

/-- d + a × b with one rounding; `sub` takes the product negated; 0 × ∞ is invalid whatever d is (07 R157). -/
def fFma (f : Fmt) (rm : RMode) (sub : Bool) (d a b : Nat) : FRes :=
  let va := f.decode a
  let vb := f.decode b
  let vd := f.decode d
  let p := va.mul vb
  let p' := if sub then p.negate else p
  let r := finish f rm [va, vb, vd] (vd.add rm p')
  { r with flags := r.flags ||| flagIf (p.isNan && !va.isNan && !vb.isNan) flagNV }

/-- a / b (07 R157). -/
def fDiv (f : Fmt) (rm : RMode) (a b : Nat) : FRes :=
  match f.decode a, f.decode b with
  | .nan s, y => nanRes f (flagIf (s || y.isSnan) flagNV)
  | _, .nan s => nanRes f (flagIf s flagNV)
  | .inf x, .inf y => let _ := (x, y); nanRes f flagNV
  | .inf x, .fin y _ _ => infRes f (x != y) 0
  | .fin x _ _, .inf y => { bits := f.signBit (x != y), flags := 0 }
  | .fin x m e, .fin y n g =>
    if n = 0 then (if m = 0 then nanRes f flagNV else infRes f (x != y) flagDZ)
    else if m = 0 then { bits := f.signBit (x != y), flags := 0 }
    else
      let k := f.fb + 4 + Nat.log2 n
      roundTo f rm (x != y) (m * 2 ^ k / n) (e - g - k) (m * 2 ^ k % n != 0)

/-- The integer square root, bit by bit. -/
def isqrt (m : Nat) : Nat → Nat → Nat
  | 0, r => if (r + 1) * (r + 1) ≤ m then r + 1 else r
  | b + 1, r => isqrt m b (if (r + 2 ^ (b + 1)) * (r + 2 ^ (b + 1)) ≤ m then r + 2 ^ (b + 1) else r)

/-- The integer square root. -/
def natSqrt (m : Nat) : Nat := isqrt m (Nat.log2 m / 2 + 1) 0

/-- The square root (07 R157). -/
def fSqrt (f : Fmt) (rm : RMode) (a : Nat) : FRes :=
  match f.decode a with
  | .nan s => nanRes f (flagIf s flagNV)
  | .inf n => if n then nanRes f flagNV else infRes f false 0
  | .fin n m e =>
    if m = 0 then { bits := f.signBit n, flags := 0 }
    else if n then nanRes f flagNV
    else
      let odd := e % 2 ≠ 0
      let m1 := (if odd then 2 * m else m) * 4 ^ (f.fb + 4)
      let e1 := (if odd then e - 1 else e) / 2 - (f.fb + 4)
      let r := natSqrt m1
      roundTo f rm false r e1 (r * r != m1)

/-- 1 / a (07 R157). -/
def fRcp (f : Fmt) (rm : RMode) (a : Nat) : FRes := fDiv f rm (f.bias * 2 ^ f.fb) a

/-! ## 2^x and log2 x, correctly rounded: a lower bound of more than 200 correct bits, marked as inexact, is rounded. Neither is
ever a rational number where it is not a power of two or an integer, so no rounding boundary is hit exactly. -/

/-- Working precision of `fExp2`, in bits. -/
abbrev expPrec : Nat := 320

/-- The product of 2^(2^-i) over the set bits of the fraction `fr` of `n` bits, from the top; `c` is 2^(2^-i) scaled by 2^P. -/
def expLoop (fr : Nat) : Nat → Nat → Nat → Nat
  | 0, _, acc => acc
  | n + 1, c, acc =>
    let c' := natSqrt (c * 2 ^ expPrec)
    expLoop fr n c' (if fr / 2 ^ n % 2 = 1 then acc * c' / 2 ^ expPrec else acc)

/-- 2^a (07 R157). -/
def fExp2 (f : Fmt) (rm : RMode) (a : Nat) : FRes :=
  match f.decode a with
  | .nan s => nanRes f (flagIf s flagNV)
  | .inf n => if n then { bits := 0, flags := 0 } else infRes f false 0
  | .fin neg m e =>
    if m = 0 then { bits := f.bias * 2 ^ f.fb, flags := 0 }
    else
      let l : Int := Nat.log2 m + 1 + e
      if l > f.eb + 3 then
        if neg then roundTo f rm false 1 (f.qmin - 4) true else roundTo f rm false 1 (2 ^ (f.eb + 1)) true
      else if l < -(f.fb + 8 : Int) then
        if neg then roundTo f rm false (2 ^ (f.fb + 8) - 1) (-(f.fb + 8 : Int)) true
        else roundTo f rm false (2 ^ (f.fb + 8)) (-(f.fb + 8 : Int)) true
      else if 0 ≤ e then
        let k : Int := (m * 2 ^ e.toNat : Nat)
        roundTo f rm false 1 (if neg then -k else k) false
      else
        let n := (-e).toNat
        let v : Int := if neg then -(m : Int) else m
        let ip := v / 2 ^ n
        let fr := (v - ip * 2 ^ n).toNat
        if fr = 0 then roundTo f rm false 1 ip false
        else roundTo f rm false (expLoop fr n (2 ^ (expPrec + 1)) (2 ^ expPrec)) (ip - expPrec) true

/-- Fraction bits and working precision of `fLog2`. -/
abbrev logBits : Nat := 260
abbrev logPrec : Nat := 640

/-- The first `n` bits of log2 of `y` in [1, 2), scaled by 2^P. -/
def logLoop : Nat → Nat → Nat → Nat
  | 0, _, acc => acc
  | n + 1, y, acc =>
    let z := y * y / 2 ^ logPrec
    if 2 ^ (logPrec + 1) ≤ z then logLoop n (z / 2) (2 * acc + 1) else logLoop n z (2 * acc)

/-- log2 a (07 R157). -/
def fLog2 (f : Fmt) (rm : RMode) (a : Nat) : FRes :=
  match f.decode a with
  | .nan s => nanRes f (flagIf s flagNV)
  | .inf n => if n then nanRes f flagNV else infRes f false 0
  | .fin neg m e =>
    if m = 0 then infRes f true flagDZ
    else if neg then nanRes f flagNV
    else
      let l := Nat.log2 m
      let ip : Int := e + l
      if m = 2 ^ l then roundTo f rm (decide (ip < 0)) ip.natAbs 0 false
      else
        let fr := logLoop logBits (m * 2 ^ logPrec / 2 ^ l) 0
        if 0 ≤ ip then roundTo f rm false (ip.natAbs * 2 ^ logBits + fr) (-(logBits : Int)) true
        else roundTo f rm true (ip.natAbs * 2 ^ logBits - fr - 1) (-(logBits : Int)) true

/-! ## Orders -/

/-- a < b for values that are no NaN; -0 equals +0. -/
def FVal.lt : FVal → FVal → Bool
  | .inf a, .inf b => a && !b
  | .inf a, .fin _ _ _ => a
  | .fin _ _ _, .inf b => !b
  | .fin a m e, .fin b n g =>
    let q := if e ≤ g then e else g
    scaled a m e q < scaled b n g q
  | _, _ => false

/-- a = b for values that are no NaN. -/
def FVal.eq (a b : FVal) : Bool := !a.isNan && !b.isNan && !a.lt b && !b.lt a

/-- minimumNumber (`max` false) and maximumNumber: NaN loses to a number, -0 is below +0 (03 R69). -/
def fMinMax (f : Fmt) (max : Bool) (a b : Nat) : FRes :=
  let va := f.decode a
  let vb := f.decode b
  let fl := flagIf (va.isSnan || vb.isSnan) flagNV
  if va.isNan ∧ vb.isNan then nanRes f fl
  else if va.isNan then { bits := b, flags := fl }
  else if vb.isNan then { bits := a, flags := fl }
  else
    let less := va.lt vb || (va.eq vb && va.neg && !vb.neg)
    { bits := if max then (if less then b else a) else (if less then a else b), flags := fl }

/-- `vfeq`: false on a NaN, NV only for a signalling one (07 R158). -/
def fEq (f : Fmt) (a b : Nat) : Bool × Flags :=
  let va := f.decode a
  let vb := f.decode b
  (va.eq vb, flagIf (va.isSnan || vb.isSnan) flagNV)

/-- `vflt` and `vfle`: false and NV on any NaN (07 R158). -/
def fLt (f : Fmt) (orEq : Bool) (a b : Nat) : Bool × Flags :=
  let va := f.decode a
  let vb := f.decode b
  if va.isNan || vb.isNan then (false, flagNV) else (va.lt vb || (orEq && va.eq vb), 0)

/-! ## Conversions (03 R60, 07 R159) -/

/-- A value in another format; a signalling NaN raises NV. -/
def fCvt (src dst : Fmt) (rm : RMode) (a : Nat) : FRes :=
  let v := src.decode a
  let r := v.round dst rm
  { r with flags := r.flags ||| flagIf v.isSnan flagNV }

/-- Into OFP8, saturating or not (03 R60). -/
def fCvt8 (src dst : Fmt) (sat : Bool) (rm : RMode) (a : Nat) : FRes :=
  match src.decode a with
  | .nan s => nanRes dst (flagIf s flagNV)
  | .inf n =>
    if sat then { bits := dst.signBit n + dst.maxBits, flags := flagNX }
    else if dst.hasInf then infRes dst n 0
    else { bits := dst.nanBits, flags := flagNV }
  | .fin n m e =>
    let r := roundTo dst rm n m e false
    if sat ∧ (r.flags &&& flagOF) ≠ 0 then { bits := dst.signBit n + dst.maxBits, flags := flagOF ||| flagNX } else r

/-- A value rounded to an integer: the magnitude and whether it is inexact. -/
def roundInt (rm : RMode) (neg : Bool) (m : Nat) (e : Int) : Nat × Bool := roundAt rm neg m e false 0

/-- A float to an integer between `lo` and `hi`, `w` bits wide: saturating, a NaN gives the largest (03 R60). -/
def fToInt (f : Fmt) (rm : RMode) (lo hi : Int) (w : Nat) (a : Nat) : FRes :=
  let enc := fun (v : Int) => (v % 2 ^ w).toNat
  match f.decode a with
  | .nan _ => { bits := enc hi, flags := flagNV }
  | .inf n => { bits := enc (if n then lo else hi), flags := flagNV }
  | .fin n m e =>
    let r := roundInt rm n m e
    let v : Int := if n then -(r.1 : Int) else r.1
    if v < lo then { bits := enc lo, flags := flagNV }
    else if hi < v then { bits := enc hi, flags := flagNV }
    else { bits := enc v, flags := flagIf r.2 flagNX }

/-- An integer to a float. -/
def intToF (f : Fmt) (rm : RMode) (v : Int) : FRes := roundTo f rm (decide (v < 0)) v.natAbs 0 false

/-- A float rounded to an integral value of its format (07 R159, code 27). -/
def fRint (f : Fmt) (rm : RMode) (a : Nat) : FRes :=
  match f.decode a with
  | .nan s => nanRes f (flagIf s flagNV)
  | .inf n => infRes f n 0
  | .fin n m e =>
    let r := roundInt rm n m e
    if 0 ≤ e then { bits := a, flags := 0 } else { roundTo f rm n r.1 0 false with flags := flagIf r.2 flagNX }

/-- The integer of `w` bits as a two's complement value. -/
def signedOf (w n : Nat) : Int := if n < 2 ^ (w - 1) then n else (n : Int) - 2 ^ w

/-! ## Exact sums (03 R65, R66, R72) -/

/-- The exact sum of products: NaN if any is NaN or infinities differ; every one -0 gives -0; any other exact zero is +0. -/
def exactSum (ps : List FVal) : FVal :=
  if ps.any FVal.isNan ∨ (ps.contains (.inf true) ∧ ps.contains (.inf false)) then .nan false
  else if ps.contains (.inf true) then .inf true
  else if ps.contains (.inf false) then .inf false
  else if ps.all (fun p => p.isZero && p.neg) then .fin true 0 0
  else
    match ps.foldl (fun (a p : FVal) => a.add 0 p) (FVal.fin true 0 0) with
    | .fin _ 0 e => .fin false 0 e
    | v => v

/-- |t - r| > b, exactly, for FP64 encodings (03 R73); false where t or r or b is no number. -/
def beyond (t r b : Nat) : Bool :=
  let d := (Fmt.fp64.decode t).add 0 (Fmt.fp64.decode r).negate
  let mag := if d.neg then d.negate else d
  !mag.isNan && (Fmt.fp64.decode b).lt mag

end Sys2Proof.Machine
end

