-- ==== Sys2Proof/Syntax.lean ====
section
/-!
DEFINITION. The instructions and steps of the W9: one constructor of `Instr` for each row of spec/opcode_table.json. The rows
with a word are what a core issues; the rows without one are the steps of the other agents (95_what_each_step_holds.md), and
their operands name the record, line, object or unit the step acts on.
-/
namespace Sys2Proof

/-! ## Operand forms of the words a core issues -/

/-- The seven scalar loads of RV64I (04 R76). -/
inductive LoadOp where
  | lb | lh | lw | ld | lbu | lhu | lwu
deriving DecidableEq, Repr

/-- The four scalar stores of RV64I (04 R76). -/
inductive StoreOp where
  | sb | sh | sw | sd
deriving DecidableEq, Repr

/-- The six conditional branches of RV64I (04 R76). -/
inductive BranchOp where
  | beq | bne | blt | bge | bltu | bgeu
deriving DecidableEq, Repr

/-- Register-register arithmetic of RV64I, M, Zba and the Zbb subset (04 R76). -/
inductive AluRR where
  | add | sub | sll | slt | sltu | xor | srl | sra | or | and
  | addw | subw | sllw | srlw | sraw
  | mul | mulh | mulhsu | mulhu | div | divu | rem | remu
  | mulw | divw | divuw | remw | remuw
  | adduw | sh1add | sh2add | sh3add | sh1adduw | sh2adduw | sh3adduw
  | andn | orn | xnor | max | maxu | min | minu | rol | ror
deriving DecidableEq, Repr

/-- Register-immediate arithmetic with a 12-bit immediate (04 R76). -/
inductive AluImm where
  | addi | slti | sltiu | xori | ori | andi | addiw
deriving DecidableEq, Repr

/-- Shifts by a 6-bit amount (04 R76). -/
inductive AluSh6 where
  | slli | srli | srai | rori | slliuw
deriving DecidableEq, Repr

/-- Word shifts by a 5-bit amount (04 R76). -/
inductive AluSh5 where
  | slliw | srliw | sraiw
deriving DecidableEq, Repr

/-- One-operand instructions of the Zbb subset (04 R76). -/
inductive AluUn where
  | clz | clzw | ctz | ctzw | cpop | cpopw | sextb | sexth | zexth | rev8 | orcb
deriving DecidableEq, Repr

/-- The operand forms of INTEGER_OP (04 R76). -/
inductive IntForm where
  | rr (op : AluRR) (rd rs1 rs2 : Reg)
  | imm (op : AluImm) (rd rs1 : Reg) (imm : BitVec 12)
  | sh6 (op : AluSh6) (rd rs1 : Reg) (sh : BitVec 6)
  | sh5 (op : AluSh5) (rd rs1 : Reg) (sh : BitVec 5)
  | un (op : AluUn) (rd rs1 : Reg)
deriving DecidableEq, Repr

/-- The fields of a scoped access (04 R85): width code, scope code and registers. -/
structure Scoped where
  /-- 0 `b`, 1 `h`, 2 `w`, 3 `d`. -/
  width : BitVec 2
  /-- 0 `core` to 4 `sys`. -/
  scope : BitVec 3
  rs2 : Reg
  rs1 : Reg
  rd : Reg
deriving DecidableEq, Repr

/-- The fields of an AMO (04 R86). -/
structure AmoF where
  /-- 0 to 4 acquire-release at that scope, 7 relaxed. -/
  scope : BitVec 3
  rs2 : Reg
  rs1 : Reg
  /-- True for `.d` (funct3 = 011), false for `.w`. -/
  dbl : Bool
  rd : Reg
deriving DecidableEq, Repr

/-- The fields of a KV word: vector arithmetic (04 R80). -/
structure KV where
  vs2 : Reg
  vs1 : Reg
  pg : BitVec 2
  ew : BitVec 2
  vd : Reg
deriving DecidableEq, Repr

/-- The fields of a KM word: vector memory (04 R80, R92). -/
structure KM where
  pg : BitVec 2
  /-- rs2 or vs2, 0 in unit and broadcast mode. -/
  f : Reg
  rs1 : Reg
  nt : Bool
  ew : BitVec 2
  vd : Reg
deriving DecidableEq, Repr

/-! ## Operands of the steps of the other agents -/

/-- A continuation record, named by its logical core and by the deposit that made it. -/
structure RecRef where
  lc : Nat
  id : Nat
deriving DecidableEq, Repr

/-- A command or descriptor in the queue of a logical quad. -/
structure CmdRef where
  lq : Nat
  id : Nat
deriving DecidableEq, Repr

/-- A barrier object: its level, the core, quad, node or partition it belongs to, and its index (06 R132). -/
structure BarRef where
  level : Nat
  owner : Nat
  index : Nat
deriving DecidableEq, Repr

/-- A barrier message: the object it goes to, and the core and task that sent it, if a core did (06 R135, R136). -/
structure BarMsg where
  bar : BarRef
  src : Option (Nat × Nat)
deriving DecidableEq, Repr

/-- Who made a write or an AMO: what its effects depend on after its task has retired (09 R214, 14 R288, R297, 15 R317). -/
structure Issuer where
  /-- The logical core. -/
  lc : Nat
  launch : Nat
  smode : Bool
  /-- The host queue of the task (14 R297). -/
  origin : Option Nat
deriving DecidableEq, Repr

/-- What arrives for a waiting record: a value with the bytes of it that count, or an error (05 R113, 15 R302). -/
structure Reply where
  /-- The value, an x register's in bits [63:0]. -/
  val : VReg
  /-- Bytes of a vector reply that the instruction writes (07 R168). -/
  mask : PReg
  /-- Cause and OBJ of the trap taken at the relaunch. -/
  err : Option (Nat × Word)
  /-- What the weighbridges of the issuing logical core see when it arrives (09 R215). -/
  see : Option (Nat × List (Nat × Byte)) := none
deriving DecidableEq, Repr

/-- A write on its way to its home, at most one aligned 64-byte piece (06 R128, 11 R253). -/
structure WriteReq where
  /-- The bytes written, by physical address. -/
  cells : List (Nat × Byte)
  /-- The quad and the write-path entry to acknowledge, when a core's posted store wrote it. -/
  ack : Option (Nat × Nat)
  /-- The node that sends it; 256 for the host. -/
  src : Nat
  /-- The virtual address it was named by, when known (15 R315). -/
  va : Word
  /-- The task that made it; 0 when none. -/
  task : Nat
  /-- The line that this write of a `res.rel` also releases (06 R140). -/
  rel : Option Nat
  /-- Who made it, when a core did. -/
  by_ : Option Issuer := none
  /-- The copy whose piece it is (09 R203). -/
  copy : Option CmdRef := none
deriving DecidableEq, Repr

/-- An AMO on its way to its home (06 R125). -/
structure AmoReq where
  /-- Operation code 0 to 12 of 04 R86. -/
  op : Nat
  dbl : Bool
  pa : Nat
  arg : Word
  /-- The compare value of `cas`. -/
  cmp : Word
  /-- The record that waits for the old value, if rd is not x0. -/
  reply : Option RecRef
  /-- The write-path entry of a posted AMO. -/
  ack : Option (Nat × Nat)
  src : Nat
  va : Word
  task : Nat
  /-- Who made it, when a core did. -/
  by_ : Option Issuer := none
  /-- The PCI Express function whose AtomicOp it is, which gets the old value (22 R378, R381). -/
  host : Option Nat := none
deriving DecidableEq, Repr

/-- A page of a scratchpad window: logical core, launch (0 for the standing window) and page number (11 R239). -/
structure PageRef where
  lc : Nat
  launch : Nat
  page : Nat
deriving DecidableEq, Repr

/-- A key message between a dispatcher and a key home (14 R283). -/
structure KeyMsg where
  part : Nat
  task : Nat
  /-- Key identity, 31 bits. -/
  key : Nat
  shared : Bool
  /-- The logical node whose dispatcher it comes from or goes to. -/
  disp : Nat := 0
deriving DecidableEq, Repr

/-- An input of a reduction round on its way to a tree node (19 R361). -/
structure RedInput where
  node : Nat
  tree : Nat
  tag : Nat
  dtype : Nat
  redop : Nat
  /-- The position that contributes (0 to 15), or 16 + the child index of a child's partial. -/
  from_ : Nat
  /-- The vector, one register for each folded width (19 R362). -/
  vals : List VReg
  /-- The missing-contributor mask it carries (19 R363). -/
  miss : Word
  /-- It carries a mismatch mark (19 R395). -/
  bad : Bool
  /-- It travels uncombined: the inputs to be gleaned, in fold order (19 R362). -/
  glean : Option (List (List VReg))
deriving DecidableEq, Repr

/-- A round's result on its way down the tree (19 R361). -/
structure RedResult where
  node : Nat
  tree : Nat
  tag : Nat
  dtype : Nat
  redop : Nat
  val : VReg
  miss : Word
  late : Bool
  bad : Bool
deriving DecidableEq, Repr

/-- An outgoing link of a node: direction 0 north, 1 east, 2 south, 3 west; mesh 0, 1 or 2 for the control mesh (17 R325). -/
structure LinkRef where
  node : Nat
  dir : Nat
  mesh : Nat
deriving DecidableEq, Repr

/-- A channel between two streams: partition, producing core, consuming core and tag (06 R146). -/
structure ChanRef where
  part : Nat
  src : Nat
  dst : Nat
  tag : Nat
deriving DecidableEq, Repr

/-- What a REGISTER_WRITE names: a register, or a place in a BAR (00 R7, 22 R378). -/
inductive DevReg where
  /-- A doubleword of a node's block in region 3. -/
  | node (node off : Nat)
  /-- A doubleword of BAR 0 of a function. -/
  | bar0 (fn off : Nat)
  /-- A doubleword of BAR 2 of a function that is no TAIL. -/
  | bar2 (fn off : Nat)
  /-- A doubleword of BAR 4, the HBM aperture, of a function. -/
  | bar4 (fn off : Nat)
  /-- An AtomicOp of a function on BAR 4: 0 FetchAdd, 1 Swap, 2 CAS, of 64 or 32 bits, with the compare value of CAS. -/
  | atomic (fn off op : Nat) (dbl : Bool) (cmp : Word)
deriving DecidableEq, Repr

/-- The W9's instructions and steps, one constructor for each row of the opcode table; those without operands stand last. A
firmware command acts for the function at the head of the command processor's list (22 R379). -/
inductive Instr where
  | load (op : LoadOp) (rd rs1 : Reg) (imm : BitVec 12)
  | store (op : StoreOp) (rs2 rs1 : Reg) (imm : BitVec 12)
  | integerOp (f : IntForm)
  | lui (rd : Reg) (imm : BitVec 20)
  | auipc (rd : Reg) (imm : BitVec 20)
  | jal (rd : Reg) (imm : BitVec 20)
  | jalr (rd rs1 : Reg) (imm : BitVec 12)
  | branch (op : BranchOp) (rs1 rs2 : Reg) (imm : BitVec 12)
  | csrrw (csr : BitVec 12) (rs1 rd : Reg)
  | csrrs (csr : BitVec 12) (rs1 rd : Reg)
  | csrrc (csr : BitVec 12) (rs1 rd : Reg)
  | csrrwi (csr : BitVec 12) (uimm rd : Reg)
  | csrrsi (csr : BitVec 12) (uimm rd : Reg)
  | csrrci (csr : BitVec 12) (uimm rd : Reg)
  | fence (fm pred succ : BitVec 4)
  | quit (rs1 scope : Reg)
  | spawn (rd rs1 rs2 : Reg)
  | fork (rs1 rs2 : Reg)
  | join (rs1 : Reg)
  | taskSub (rd rs1 : Reg)
  | launch (rd rs1 : Reg)
  | hl0 (rs1 : Reg) (len : BitVec 12)
  | hl1 (rs1 : Reg) (len : BitVec 12)
  | hl0i (uimm : Reg) (len : BitVec 12)
  | hl1i (uimm : Reg) (len : BitVec 12)
  | gSet (g rs1 : Reg)
  | gClr (g : Reg)
  | bEod (q : Reg) (dim : BitVec 2) (imm : BitVec 12)
  | bNeod (q : Reg) (dim : BitVec 2) (imm : BitVec 12)
  | lda (f : Scoped)
  | ldsc (f : Scoped)
  | stl (f : Scoped)
  | stsc (f : Scoped)
  | amoAdd (f : AmoF)
  | amoAnd (f : AmoF)
  | amoOr (f : AmoF)
  | amoXor (f : AmoF)
  | amoMin (f : AmoF)
  | amoMax (f : AmoF)
  | amoMinu (f : AmoF)
  | amoMaxu (f : AmoF)
  | amoSwap (f : AmoF)
  | amoCas (f : AmoF)
  | amoFadd (f : AmoF)
  | amoFmax (f : AmoF)
  | amoFmin (f : AmoF)
  | waitNe (rd rs2 rs1 : Reg)
  | waitEq (rd rs2 rs1 : Reg)
  | fenceAcq (scope : Reg)
  | fenceRel (scope : Reg)
  | fenceAr (scope : Reg)
  | fenceSc (scope : Reg)
  | barInit (rs1 rs2 : Reg)
  | barArrive (rd rs1 rs2 : Reg)
  | barWait (rs1 rs2 : Reg)
  | barAw (rd rs1 : Reg)
  | resAcq (vd rs1 : Reg)
  | resRel (vs rs1 rs2 : Reg)
  | qBind (q rs1 : Reg)
  | qPop (rd q : Reg)
  | qPush (q rs1 : Reg)
  | vqPop (vd q : Reg)
  | vqPush (q vs : Reg)
  | qStat (rd q : Reg)
  | qClose (q : Reg)
  | mxIssue (vs : Reg) (sel : BitVec 2)
  | cpIssue (vs : Reg) (sel : BitVec 2)
  | collPost (rd rs1 : Reg)
  | redSend (vs rs1 : Reg)
  | redRecv (vd rs1 : Reg)
  | wbCfg (rs1 rs2 : Reg)
  | wbRd (rd rs1 : Reg)
  | wbClr (rs1 : Reg)
  | wbAck (rs1 : Reg)
  | cenMode (rs1 : Reg)
  | cenBuf (rs1 : Reg)
  | cenRd (rd rs1 : Reg)
  | icInv (scope : Reg)
  | icPin (rs1 rs2 level : Reg)
  | icUnpin (rs1 rs2 : Reg)
  | icPf (rs1 rs2 level : Reg)
  | spPin (rs1 rs2 : Reg)
  | spUnpin (rs1 rs2 : Reg)
  | spFlush (rs1 rs2 : Reg)
  | tlbInv (rs1 scope : Reg)
  | contResume (rs1 : Reg)
  | contSkip (rs1 : Reg)
  | contKill (rs1 : Reg)
  | contMove (rs1 rs2 : Reg)
  | mbBind (rs1 rs2 : Reg)
  | mbUnbind (rs1 : Reg)
  | trcMark (imm : BitVec 12)
  | vadd (f : KV)
  | vsub (f : KV)
  | vmul (f : KV)
  | vmulh (f : KV)
  | vmulhu (f : KV)
  | vmin (f : KV)
  | vmax (f : KV)
  | vminu (f : KV)
  | vmaxu (f : KV)
  | vand (f : KV)
  | vor (f : KV)
  | vxor (f : KV)
  | vsll (f : KV)
  | vsrl (f : KV)
  | vsra (f : KV)
  | vsel (f : KV)
  | vaddVx (f : KV)
  | vsubVx (f : KV)
  | vmulVx (f : KV)
  | vandVx (f : KV)
  | vsllVx (f : KV)
  | vsrlVx (f : KV)
  | vsraVx (f : KV)
  | vmvVx (f : KV)
  | vseq (f : KV)
  | vsne (f : KV)
  | vslt (f : KV)
  | vsltu (f : KV)
  | vsle (f : KV)
  | vsleu (f : KV)
  | vseqVx (f : KV)
  | vsltVx (f : KV)
  | vfadd (f : KV)
  | vfsub (f : KV)
  | vfmul (f : KV)
  | vfma (f : KV)
  | vfnma (f : KV)
  | vfmin (f : KV)
  | vfmax (f : KV)
  | vfdiv (f : KV)
  | vfsqrt (f : KV)
  | vfrcp (f : KV)
  | vfexp2 (f : KV)
  | vflog2 (f : KV)
  | vfcvt (f : KV)
  | vfeq (f : KV)
  | vflt (f : KV)
  | vfle (f : KV)
  | vfaddVx (f : KV)
  | vfmulVx (f : KV)
  | vfmaVx (f : KV)
  | vfmaxVx (f : KV)
  | vredsum (f : KV)
  | vredmax (f : KV)
  | vredmin (f : KV)
  | vfredsum (f : KV)
  | vfredmax (f : KV)
  | vfredmin (f : KV)
  | vperm (f : KV)
  | vslide (f : KV)
  | viota (f : KV)
  | vmvXv (f : KV)
  | vpred (f : KV)
  | vpcnt (f : KV)
  | vld (f : KM)
  | vlds (f : KM)
  | vldx (f : KM)
  | vldb (f : KM)
  | vst (f : KM)
  | vsts (f : KM)
  | vstx (f : KM)
  | vstb (f : KM)
  | forcedYield (core slot : Nat)
  | slotFill (core : Nat)
  | recordReply (r : RecRef) (reply : Reply)
  | storeBufferLeave (core : Nat)
  | writeAck (quad id : Nat)
  | homeWrite (w : WriteReq)
  | homeRequest (r : RecRef)
  | homeAmo (a : AmoReq)
  | homeReservation (r : RecRef)
  | wcBufferTimeout (core slot : Nat)
  | pageInComplete (p : PageRef)
  | icacheFill (r : RecRef)
  | tlbWalkComplete (r : RecRef)
  | repairRetry (node line : Nat)
  | repairPoison (node line : Nat)
  | queueTailWrite (q tail : Nat)
  | arbiterGrant (die : Nat)
  | portRemap (die : Nat)
  | dispatcherTake (ln : Nat)
  | keyRequest (m : KeyMsg)
  | keyGrant (m : KeyMsg)
  | keyRelease (m : KeyMsg)
  | governorPeriod (node : Nat)
  | stealRequest (thief victim : Nat)
  | stealAnswer (thief : Nat) (task : Option Nat)
  | stealPauseEnd (thief : Nat)
  | watchdogT1 (q : Nat)
  | watchdogT2 (q : Nat)
  | watchdogT3 (q : Nat)
  | mnop (c : CmdRef)
  | mma (c : CmdRef)
  | mzero (c : CmdRef)
  | mload (c : CmdRef)
  | mdrain (c : CmdRef)
  | mdrq (c : CmdRef)
  | msums (c : CmdRef)
  | mgrp (c : CmdRef)
  | mbar (c : CmdRef)
  | tileCommandComplete (c : CmdRef)
  | poolForward (c : CmdRef)
  | groupForward (c : CmdRef)
  | copyStart (c : CmdRef)
  | copyComplete (c : CmdRef)
  | barrierInitApply (m : BarMsg) (exp : Nat) (cen : Bool)
  | barrierArrivalApply (m : BarMsg) (bytes err : Nat)
  | barrierByteCount (b : BarRef) (bytes err quad site : Nat) (copy : Bool)
  | collStart (pp : Nat)
  | collReleased (coll rank : Nat)
  | collReady (coll rank : Nat)
  | collDone (coll rank : Nat)
  | reductionInput (r : RedInput)
  | reductionResult (r : RedResult)
  | roundTimeout (node tree tag : Nat)
  | roundDiscardExpiry (node tree tag : Nat)
  | channelElementsArrive (c : ChanRef) (elems : List Word)
  | channelCreditReturn (c : ChanRef) (n : Nat)
  | linkReplayRequest (l : LinkRef)
  | linkRetrainTimeout (l : LinkRef)
  | relayPacket (relay dst : Nat) (w : WriteReq)
  | quiesceTimeout (node : Nat)
  | clockLock (node up : Nat)
  | clockLockTimeout (node : Nat)
  | linkTrained (node : Nat)
  | selfTestDone (node : Nat) (pass : Bool)
  | throttleUp (region : Nat)
  | throttleDown (region : Nat)
  | debugHaltRequest (core : Nat)
  | debugResumeRequest (core : Nat)
  | debugAbstractCommand (core slot reg : Nat) (write : Option Word)
  | engerrClear (node quad : Nat) (copy : Bool) (v : Word)
  | cendivClear (node quad : Nat) (v : Word)
  | registerWrite (r : DevReg) (v : Word)
  | illegalInstruction (w : BitVec 32)
  | retrainReachesActive (l : LinkRef)
  | channelCloseArrives (c : ChanRef)
  | ecall
  | ebreak
  | fenceI
  | yield
  | coldReset
  | configurationPhase
  | packagePowerOver
  | stallMapSample
  | identify
  | negotiateFeatures
  | attest
  | createPartition
  | destroyPartition
  | createQueue
  | destroyQueue
  | setQueuePriority
  | setAgeing
  | setWatchdog
  | preempt
  | killLaunch
  | resetCompute
  | readHarvestMap
  | writeNst
  | writeTree
  | loadPortFirmware
  | setStallMap
  | setPowerCap
  | readLog
  | unknownCommand
deriving DecidableEq, Repr

end Sys2Proof
end

