-- ==== Sys2Proof/WellFormed.lean ====
section
/-!
DEFINITION. Which instructions have a word: the field rules of 04 R81 to R92 as one decidable check. The steps of the other
agents have no word, and no field rule binds them.
-/
namespace Sys2Proof

/-- A scope field of five bits holds 0 to 4 (04 R81). -/
abbrev scopeOk (s : Reg) : Bool := s.toNat ≤ 4

/-- A stream register field holds 0 to 7 (04 R81). -/
abbrev streamOk (q : Reg) : Bool := q.toNat ≤ 7

/-- A guard field holds 1 to 15 (04 R81). -/
abbrev guardOk (g : Reg) : Bool := 1 ≤ g.toNat && g.toNat ≤ 15

/-- A cache level field holds 0 or 1 (04 R81). -/
abbrev levelOk (l : Reg) : Bool := l.toNat ≤ 1

/-- A predicate destination field holds 1 to 3 (04 R81). -/
abbrev predDstOk (p : Reg) : Bool := 1 ≤ p.toNat && p.toNat ≤ 3

/-- A loop body is 1 to 2,047 instructions long (04 R84). -/
abbrev loopLenOk (l : BitVec 12) : Bool := 1 ≤ l.toNat && l.toNat ≤ 2047

/-- A scoped load: scope 0 to 4, rs2 = 0 (04 R85). -/
abbrev scopedLoadOk (f : Scoped) : Bool := f.scope.toNat ≤ 4 && f.rs2 == 0

/-- A scoped store: scope 0 to 4, rd = 0 (04 R85). -/
abbrev scopedStoreOk (f : Scoped) : Bool := f.scope.toNat ≤ 4 && f.rd == 0

/-- An AMO: scope 0 to 4, or 7 for relaxed (04 R86). -/
abbrev amoOk (f : AmoF) : Bool := f.scope.toNat ≤ 4 || f.scope == 7

/-- A floating instruction takes no 8-bit elements (04 R91). -/
abbrev fpOk (f : KV) : Bool := f.ew ≠ 0

/-- A unary floating instruction or a floating reduction: vs1 field 0 (04 R91). -/
abbrev fpUnOk (f : KV) : Bool := f.ew ≠ 0 && f.vs1 == 0

/-- A compare writes p1 to p3 (04 R91). -/
abbrev cmpOk (f : KV) : Bool := predDstOk f.vd

/-- A floating compare (04 R91). -/
abbrev fpCmpOk (f : KV) : Bool := f.ew ≠ 0 && predDstOk f.vd

/-- The element width that conversion code `c` takes, if any (07 R159). -/
def cvtWidth (c : Nat) : Option (BitVec 2) :=
  if c = 4 || c = 5 || c = 17 || c = 18 then some 3
  else if c = 19 || c = 20 || c = 24 || c = 25 then some 1
  else if c ≤ 27 then some 2
  else none

/-- A conversion takes the width of its code (04 R91, 07 R159). -/
abbrev cvtOk (f : KV) : Bool := cvtWidth f.vs2.toNat == some f.ew

/-- The elements of one register at width code `ew` (07 R152). -/
abbrev elems (ew : BitVec 2) : Nat := 128 / 2 ^ ew.toNat

/-- A vector memory word with no rs2 or vs2: that field is 0 (04 R92). -/
abbrev kmZeroOk (f : KM) : Bool := f.f == 0

/-- An indexed vector access has 32- or 64-bit elements (07 R165). -/
abbrev kmIndexOk (f : KM) : Bool := 2 ≤ f.ew.toNat

/-- The field rules of every word (04 R81 to R92). -/
def Instr.wf : Instr → Bool
  | .fence fm _ _ => fm == 0 || fm == 8
  | .quit _ scope => scopeOk scope
  | .hl0 _ len => loopLenOk len
  | .hl1 _ len => loopLenOk len
  | .hl0i _ len => loopLenOk len
  | .hl1i _ len => loopLenOk len
  | .gSet g _ => guardOk g
  | .gClr g => guardOk g
  | .bEod q _ _ => streamOk q
  | .bNeod q _ _ => streamOk q
  | .lda f => scopedLoadOk f
  | .ldsc f => scopedLoadOk f
  | .stl f => scopedStoreOk f
  | .stsc f => scopedStoreOk f
  | .amoAdd f => amoOk f
  | .amoAnd f => amoOk f
  | .amoOr f => amoOk f
  | .amoXor f => amoOk f
  | .amoMin f => amoOk f
  | .amoMax f => amoOk f
  | .amoMinu f => amoOk f
  | .amoMaxu f => amoOk f
  | .amoSwap f => amoOk f
  | .amoCas f => amoOk f
  | .amoFadd f => amoOk f
  | .amoFmax f => amoOk f
  | .amoFmin f => amoOk f
  | .fenceAcq scope => scopeOk scope
  | .fenceRel scope => scopeOk scope
  | .fenceAr scope => scopeOk scope
  | .fenceSc scope => scopeOk scope
  | .qBind q _ => streamOk q
  | .qPop _ q => streamOk q
  | .qPush q _ => streamOk q
  | .vqPop _ q => streamOk q
  | .vqPush q _ => streamOk q
  | .qStat _ q => streamOk q
  | .qClose q => streamOk q
  | .icInv scope => scopeOk scope
  | .icPin _ _ level => levelOk level
  | .icPf _ _ level => levelOk level
  | .tlbInv _ scope => scopeOk scope
  | .vmvVx f => f.vs2 == 0
  | .vseq f => cmpOk f
  | .vsne f => cmpOk f
  | .vslt f => cmpOk f
  | .vsltu f => cmpOk f
  | .vsle f => cmpOk f
  | .vsleu f => cmpOk f
  | .vseqVx f => cmpOk f
  | .vsltVx f => cmpOk f
  | .vfadd f => fpOk f
  | .vfsub f => fpOk f
  | .vfmul f => fpOk f
  | .vfma f => fpOk f
  | .vfnma f => fpOk f
  | .vfmin f => fpOk f
  | .vfmax f => fpOk f
  | .vfdiv f => fpOk f
  | .vfsqrt f => fpUnOk f
  | .vfrcp f => fpUnOk f
  | .vfexp2 f => fpUnOk f
  | .vflog2 f => fpUnOk f
  | .vfcvt f => cvtOk f
  | .vfeq f => fpCmpOk f
  | .vflt f => fpCmpOk f
  | .vfle f => fpCmpOk f
  | .vfaddVx f => fpOk f
  | .vfmulVx f => fpOk f
  | .vfmaVx f => fpOk f
  | .vfmaxVx f => fpOk f
  | .vredsum f => f.vs1 == 0
  | .vredmax f => f.vs1 == 0
  | .vredmin f => f.vs1 == 0
  | .vfredsum f => fpUnOk f
  | .vfredmax f => fpUnOk f
  | .vfredmin f => fpUnOk f
  | .viota f => f.vs1 == 0 && f.vs2 == 0
  | .vmvXv f => f.vs2.toNat < elems f.ew
  | .vpred f => f.ew == 0 && f.vs1.toNat ≤ 3 && f.vs2.toNat ≤ 6 && predDstOk f.vd
  | .vpcnt f => f.vs1 == 0 && f.vs2 == 0
  | .vld f => kmZeroOk f
  | .vldx f => kmIndexOk f
  | .vldb f => kmZeroOk f
  | .vst f => kmZeroOk f
  | .vstx f => kmIndexOk f
  | .vstb f => kmZeroOk f
  | _ => true

end Sys2Proof
end

