-- ==== Sys2Proof/Decode.lean ====
section
/-!
DEFINITION. The decoder, total on every 32-bit word and on every list of bytes, and the encoder written from the same tables
(04 R74 to R93).
-/
namespace Sys2Proof

/-! ## The formats of 04 R80 -/

/-- R format: funct7, rs2, rs1, funct3, rd, opcode. -/
def mkR (f7 : BitVec 7) (rs2 rs1 : Reg) (f3 : BitVec 3) (rd : Reg) (op : BitVec 7) : BitVec 32 :=
  f7 ++ rs2 ++ rs1 ++ f3 ++ rd ++ op

/-- I format: imm12, rs1, funct3, rd, opcode. -/
def mkI (imm : BitVec 12) (rs1 : Reg) (f3 : BitVec 3) (rd : Reg) (op : BitVec 7) : BitVec 32 :=
  imm ++ rs1 ++ f3 ++ rd ++ op

/-- S format: the immediate is split over [31:25] and [11:7]. -/
def mkS (imm : BitVec 12) (rs2 rs1 : Reg) (f3 : BitVec 3) (op : BitVec 7) : BitVec 32 :=
  mkR (bits imm 5 7) rs2 rs1 f3 (bits imm 0 5) op

/-- B format: `imm` holds bits [12:1] of the offset, spread as imm[12], imm[10:5] and imm[4:1], imm[11]. -/
def mkB (imm : BitVec 12) (rs2 rs1 : Reg) (f3 : BitVec 3) (op : BitVec 7) : BitVec 32 :=
  mkR (bits imm 11 1 ++ bits imm 4 6) rs2 rs1 f3 (bits imm 0 4 ++ bits imm 10 1) op

/-- U format: imm20, rd, opcode. -/
def mkU (imm : BitVec 20) (rd : Reg) (op : BitVec 7) : BitVec 32 := imm ++ rd ++ op

/-- J format: `imm` holds bits [20:1] of the offset, spread as imm[20], imm[10:1], imm[11], imm[19:12]. -/
def mkJ (imm : BitVec 20) (rd : Reg) (op : BitVec 7) : BitVec 32 :=
  mkU (bits imm 19 1 ++ bits imm 0 10 ++ bits imm 10 1 ++ bits imm 11 8) rd op

/-- KV format (04 R80). -/
def mkKV (f6 : BitVec 6) (f : KV) : BitVec 32 :=
  f6 ++ f.vs2 ++ f.vs1 ++ f.pg ++ f.ew ++ f.vd ++ (0x57 : BitVec 7)

/-- KM format (04 R80). -/
def mkKM (mode : BitVec 3) (f : KM) (op : BitVec 7) : BitVec 32 :=
  (0 : BitVec 2) ++ mode ++ f.pg ++ f.f ++ f.rs1 ++ BitVec.ofBool f.nt ++ f.ew ++ f.vd ++ op

/-- The immediate of an S word. -/
def immS (w : BitVec 32) : BitVec 12 := bits w 25 7 ++ bits w 7 5

/-- Bits [12:1] of the offset of a B word. -/
def immB (w : BitVec 32) : BitVec 12 := bits w 31 1 ++ bits w 7 1 ++ bits w 25 6 ++ bits w 8 4

/-- Bits [20:1] of the offset of a J word. -/
def immJ (w : BitVec 32) : BitVec 20 := bits w 31 1 ++ bits w 12 8 ++ bits w 20 1 ++ bits w 21 10

/-- The fields of a KV word. -/
def kvOf (w : BitVec 32) : KV :=
  { vs2 := bits w 21 5, vs1 := bits w 16 5, pg := bits w 14 2, ew := bits w 12 2, vd := bits w 7 5 }

/-- The fields of a KM word. -/
def kmOf (w : BitVec 32) : KM :=
  { pg := bits w 25 2, f := bits w 20 5, rs1 := bits w 15 5, nt := bits w 14 1 == 1, ew := bits w 12 2, vd := bits w 7 5 }

/-- The fields of a scoped access (04 R85). -/
def scopedOf (w : BitVec 32) : Scoped :=
  { width := bits w 30 2, scope := bits w 27 3, rs2 := bits w 20 5, rs1 := bits w 15 5, rd := bits w 7 5 }

/-- The fields of an AMO (04 R86). -/
def amoOf (w : BitVec 32) : AmoF :=
  { scope := bits w 25 3, rs2 := bits w 20 5, rs1 := bits w 15 5, dbl := bits w 12 1 == 1, rd := bits w 7 5 }

/-- The word of a scoped access (06 R123). -/
def mkScoped (f : Scoped) (kind : BitVec 2) (f3 : BitVec 3) : BitVec 32 :=
  mkR (f.width ++ f.scope ++ kind) f.rs2 f.rs1 f3 f.rd 0x2B

/-- The word of an AMO of operation `op` (04 R86). -/
def mkAmo (op : BitVec 4) (f : AmoF) : BitVec 32 :=
  mkR (op ++ f.scope) f.rs2 f.rs1 ((1 : BitVec 2) ++ BitVec.ofBool f.dbl) f.rd 0x2B

/-! ## The decoder -/

/-- Why a word or a list of bytes is no instruction (04 R93). -/
inductive DecodeError where
  /-- Fewer than four bytes. -/
  | truncated
  /-- Bits [1:0] are not 0b11. -/
  | notPrefix
  /-- The major opcode is illegal (04 R75). -/
  | opcode
  /-- A funct3, funct7 or funct6 is unassigned, or the encoding is one that 04 R76 to R79 exclude. -/
  | funct
  /-- A field is outside its class, or a reserved field is not zero (04 R81, R82). -/
  | field
deriving DecidableEq, Repr

/-- What decoding answers: an instruction or a refusal by name. -/
abbrev Decoded := Except DecodeError Instr

/-- `i` if its fields obey the rules of 04 R81 and R82, else a refusal. -/
def checked (i : Instr) : Decoded := if i.wf then .ok i else .error .field

/-- `d` if `c` holds, else a refusal for a reserved field. -/
def need (c : Bool) (d : Decoded) : Decoded := if c then d else .error .field

/-- LOAD, opcode 0000011. -/
def decLoad (w : BitVec 32) : Decoded :=
  let k := fun op => checked (.load op (bits w 7 5) (bits w 15 5) (bits w 20 12))
  match field w 12 3 with
  | 0 => k .lb | 1 => k .lh | 2 => k .lw | 3 => k .ld | 4 => k .lbu | 5 => k .lhu | 6 => k .lwu
  | _ => .error .funct

/-- STORE, opcode 0100011. -/
def decStore (w : BitVec 32) : Decoded :=
  let k := fun op => checked (.store op (bits w 20 5) (bits w 15 5) (immS w))
  match field w 12 3 with
  | 0 => k .sb | 1 => k .sh | 2 => k .sw | 3 => k .sd
  | _ => .error .funct

/-- OP-IMM, opcode 0010011. -/
def decOpImm (w : BitVec 32) : Decoded :=
  let k := fun op => checked (.integerOp (.imm op (bits w 7 5) (bits w 15 5) (bits w 20 12)))
  let sh := fun op => checked (.integerOp (.sh6 op (bits w 7 5) (bits w 15 5) (bits w 20 6)))
  let un := fun op => checked (.integerOp (.un op (bits w 7 5) (bits w 15 5)))
  match field w 12 3 with
  | 0 => k .addi | 2 => k .slti | 3 => k .sltiu | 4 => k .xori | 6 => k .ori | 7 => k .andi
  | 1 =>
    if field w 26 6 = 0x00 then sh .slli
    else match field w 20 12 with
      | 0x600 => un .clz | 0x601 => un .ctz | 0x602 => un .cpop | 0x604 => un .sextb | 0x605 => un .sexth
      | _ => .error .funct
  | _ =>
    match field w 26 6 with
    | 0x00 => sh .srli
    | 0x10 => sh .srai
    | 0x18 => sh .rori
    | _ => match field w 20 12 with
      | 0x6B8 => un .rev8 | 0x287 => un .orcb
      | _ => .error .funct

/-- OP-IMM-32, opcode 0011011. -/
def decOpImm32 (w : BitVec 32) : Decoded :=
  let sh := fun op => checked (.integerOp (.sh5 op (bits w 7 5) (bits w 15 5) (bits w 20 5)))
  let un := fun op => checked (.integerOp (.un op (bits w 7 5) (bits w 15 5)))
  match field w 12 3 with
  | 0 => checked (.integerOp (.imm .addiw (bits w 7 5) (bits w 15 5) (bits w 20 12)))
  | 1 =>
    if field w 25 7 = 0x00 then sh .slliw
    else if field w 26 6 = 0x02 then checked (.integerOp (.sh6 .slliuw (bits w 7 5) (bits w 15 5) (bits w 20 6)))
    else match field w 20 12 with
      | 0x600 => un .clzw | 0x601 => un .ctzw | 0x602 => un .cpopw
      | _ => .error .funct
  | 5 =>
    match field w 25 7 with
    | 0x00 => sh .srliw
    | 0x20 => sh .sraiw
    | _ => .error .funct
  | _ => .error .funct

/-- OP, opcode 0110011: funct7 then funct3. -/
def decOp (w : BitVec 32) : Decoded :=
  let k := fun op => checked (.integerOp (.rr op (bits w 7 5) (bits w 15 5) (bits w 20 5)))
  match field w 25 7 with
  | 0x00 => match field w 12 3 with
    | 0 => k .add | 1 => k .sll | 2 => k .slt | 3 => k .sltu | 4 => k .xor | 5 => k .srl | 6 => k .or | _ => k .and
  | 0x01 => match field w 12 3 with
    | 0 => k .mul | 1 => k .mulh | 2 => k .mulhsu | 3 => k .mulhu | 4 => k .div | 5 => k .divu | 6 => k .rem | _ => k .remu
  | 0x20 => match field w 12 3 with
    | 0 => k .sub | 4 => k .xnor | 5 => k .sra | 6 => k .orn | 7 => k .andn | _ => .error .funct
  | 0x05 => match field w 12 3 with
    | 4 => k .min | 5 => k .minu | 6 => k .max | 7 => k .maxu | _ => .error .funct
  | 0x10 => match field w 12 3 with
    | 2 => k .sh1add | 4 => k .sh2add | 6 => k .sh3add | _ => .error .funct
  | 0x30 => match field w 12 3 with
    | 1 => k .rol | 5 => k .ror | _ => .error .funct
  | _ => .error .funct

/-- OP-32, opcode 0111011. -/
def decOp32 (w : BitVec 32) : Decoded :=
  let k := fun op => checked (.integerOp (.rr op (bits w 7 5) (bits w 15 5) (bits w 20 5)))
  match field w 25 7 with
  | 0x00 => match field w 12 3 with
    | 0 => k .addw | 1 => k .sllw | 5 => k .srlw | _ => .error .funct
  | 0x01 => match field w 12 3 with
    | 0 => k .mulw | 4 => k .divw | 5 => k .divuw | 6 => k .remw | 7 => k .remuw | _ => .error .funct
  | 0x20 => match field w 12 3 with
    | 0 => k .subw | 5 => k .sraw | _ => .error .funct
  | 0x04 => match field w 12 3 with
    | 0 => k .adduw
    | 4 => need (bits w 20 5 == 0) (checked (.integerOp (.un .zexth (bits w 7 5) (bits w 15 5))))
    | _ => .error .funct
  | 0x10 => match field w 12 3 with
    | 2 => k .sh1adduw | 4 => k .sh2adduw | 6 => k .sh3adduw | _ => .error .funct
  | _ => .error .funct

/-- BRANCH, opcode 1100011. -/
def decBranch (w : BitVec 32) : Decoded :=
  let k := fun op => checked (.branch op (bits w 15 5) (bits w 20 5) (immB w))
  match field w 12 3 with
  | 0 => k .beq | 1 => k .bne | 4 => k .blt | 5 => k .bge | 6 => k .bltu | 7 => k .bgeu
  | _ => .error .funct

/-- MISC-MEM, opcode 0001111 (04 R78). -/
def decMiscMem (w : BitVec 32) : Decoded :=
  match field w 12 3 with
  | 0 => need (bits w 15 5 == 0 && bits w 7 5 == 0) (checked (.fence (bits w 28 4) (bits w 24 4) (bits w 20 4)))
  | 1 => if w = 0x0000100F then checked .fenceI else .error .field
  | _ => .error .funct

/-- SYSTEM, opcode 1110011 (04 R79). -/
def decSystem (w : BitVec 32) : Decoded :=
  let c := bits w 20 12
  let a := bits w 15 5
  let d := bits w 7 5
  match field w 12 3 with
  | 0 => if w = 0x00000073 then checked .ecall else if w = 0x00100073 then checked .ebreak else .error .funct
  | 1 => checked (.csrrw c a d) | 2 => checked (.csrrs c a d) | 3 => checked (.csrrc c a d)
  | 5 => checked (.csrrwi c a d) | 6 => checked (.csrrsi c a d) | 7 => checked (.csrrci c a d)
  | _ => .error .funct

/-- custom-0, opcode 0001011 (04 R84). -/
def decCustom0 (w : BitVec 32) : Decoded :=
  let b := bits w 20 5
  let a := bits w 15 5
  let d := bits w 7 5
  let l := bits w 20 12
  match field w 12 3 with
  | 0 => match field w 25 7 with
    | 0 => need (d == 0) (checked (.quit a b))
    | 1 => need (d == 0 && a == 0 && b == 0) (checked .yield)
    | 2 => checked (.spawn d a b)
    | 3 => need (d == 0) (checked (.fork a b))
    | 4 => need (d == 0 && b == 0) (checked (.join a))
    | 5 => need (b == 0) (checked (.taskSub d a))
    | 6 => need (b == 0) (checked (.launch d a))
    | _ => .error .funct
  | 1 => need (d == 0) (checked (.hl0 a l))
  | 2 => need (d == 0) (checked (.hl1 a l))
  | 3 => need (d == 0) (checked (.hl0i a l))
  | 4 => need (d == 0) (checked (.hl1i a l))
  | 5 => match field w 25 7 with
    | 0 => need (b == 0) (checked (.gSet d a))
    | 1 => need (a == 0 && b == 0) (checked (.gClr d))
    | _ => .error .funct
  | 6 => need (bits w 23 2 == 0)
      (if bits w 22 1 == 0 then checked (.bEod a (bits w 20 2) (immB w)) else checked (.bNeod a (bits w 20 2) (immB w)))
  | _ => .error .funct

/-- The AMOs of custom-1 (04 R86). -/
def decAmo (w : BitVec 32) : Decoded :=
  let f := amoOf w
  match field w 28 4 with
  | 0 => checked (.amoAdd f)
  | 1 => checked (.amoAnd f)
  | 2 => checked (.amoOr f)
  | 3 => checked (.amoXor f)
  | 4 => checked (.amoMin f)
  | 5 => checked (.amoMax f)
  | 6 => checked (.amoMinu f)
  | 7 => checked (.amoMaxu f)
  | 8 => checked (.amoSwap f)
  | 9 => checked (.amoCas f)
  | 10 => checked (.amoFadd f)
  | 11 => checked (.amoFmax f)
  | 12 => checked (.amoFmin f)
  | _ => .error .funct

/-- custom-1, opcode 0101011 (04 R85 to R87). -/
def decCustom1 (w : BitVec 32) : Decoded :=
  let b := bits w 20 5
  let a := bits w 15 5
  let d := bits w 7 5
  match field w 12 3 with
  | 0 => match field w 25 2 with
    | 1 => checked (.lda (scopedOf w))
    | 3 => checked (.ldsc (scopedOf w))
    | _ => .error .funct
  | 1 => match field w 25 2 with
    | 2 => checked (.stl (scopedOf w))
    | 3 => checked (.stsc (scopedOf w))
    | _ => .error .funct
  | 2 => decAmo w
  | 3 => decAmo w
  | 4 => match field w 25 7 with
    | 0x00 => checked (.waitNe d b a)
    | 0x01 => checked (.waitEq d b a)
    | 0x02 => need (d == 0 && a == 0) (checked (.fenceAcq b))
    | 0x03 => need (d == 0 && a == 0) (checked (.fenceRel b))
    | 0x04 => need (d == 0 && a == 0) (checked (.fenceAr b))
    | 0x05 => need (d == 0 && a == 0) (checked (.fenceSc b))
    | 0x08 => need (d == 0) (checked (.barInit a b))
    | 0x09 => checked (.barArrive d a b)
    | 0x0A => need (d == 0) (checked (.barWait a b))
    | 0x0B => need (b == 0) (checked (.barAw d a))
    | _ => .error .funct
  | 5 => match field w 25 7 with
    | 0 => need (b == 0) (checked (.resAcq d a))
    | 1 => checked (.resRel d a b)
    | _ => .error .funct
  | 6 => match field w 25 7 with
    | 0 => need (b == 0) (checked (.qBind d a))
    | 1 => need (b == 0) (checked (.qPop d a))
    | 2 => need (b == 0) (checked (.qPush d a))
    | 3 => need (b == 0) (checked (.vqPop d a))
    | 4 => need (b == 0) (checked (.vqPush d a))
    | 5 => need (b == 0) (checked (.qStat d a))
    | 6 => need (a == 0 && b == 0) (checked (.qClose d))
    | _ => .error .funct
  | _ => .error .funct

/-- custom-2, opcode 1011011 (04 R88). -/
def decCustom2 (w : BitVec 32) : Decoded :=
  let b := bits w 20 5
  let a := bits w 15 5
  let d := bits w 7 5
  match field w 12 3, field w 25 7 with
  | 0, 0 => need (d == 0 && bits w 22 3 == 0) (checked (.mxIssue a (bits w 20 2)))
  | 1, 0 => need (d == 0 && bits w 22 3 == 0) (checked (.cpIssue a (bits w 20 2)))
  | 2, 0 => need (b == 0) (checked (.collPost d a))
  | 3, 0 => need (d == 0) (checked (.redSend b a))
  | 3, 1 => need (b == 0) (checked (.redRecv d a))
  | _, _ => .error .funct

/-- custom-3, opcode 1111011 (04 R89). -/
def decCustom3 (w : BitVec 32) : Decoded :=
  let b := bits w 20 5
  let a := bits w 15 5
  let d := bits w 7 5
  match field w 12 3 with
  | 0 => match field w 25 7 with
    | 0 => need (d == 0) (checked (.wbCfg a b))
    | 1 => need (b == 0) (checked (.wbRd d a))
    | 2 => need (d == 0 && b == 0) (checked (.wbClr a))
    | 3 => need (d == 0 && b == 0) (checked (.wbAck a))
    | _ => .error .funct
  | 1 => match field w 25 7 with
    | 0 => need (d == 0 && b == 0) (checked (.cenMode a))
    | 1 => need (d == 0 && b == 0) (checked (.cenBuf a))
    | 2 => need (b == 0) (checked (.cenRd d a))
    | _ => .error .funct
  | 2 => match field w 25 7 with
    | 0 => need (d == 0 && a == 0) (checked (.icInv b))
    | 1 => checked (.icPin a b d)
    | 2 => need (d == 0) (checked (.icUnpin a b))
    | 3 => checked (.icPf a b d)
    | 4 => need (d == 0) (checked (.spPin a b))
    | 5 => need (d == 0) (checked (.spUnpin a b))
    | 6 => need (d == 0) (checked (.spFlush a b))
    | 7 => need (d == 0) (checked (.tlbInv a b))
    | _ => .error .funct
  | 3 => match field w 25 7 with
    | 0 => need (d == 0 && b == 0) (checked (.contResume a))
    | 1 => need (d == 0 && b == 0) (checked (.contSkip a))
    | 2 => need (d == 0 && b == 0) (checked (.contKill a))
    | 3 => need (d == 0) (checked (.contMove a b))
    | 4 => need (d == 0) (checked (.mbBind a b))
    | 5 => need (d == 0 && b == 0) (checked (.mbUnbind a))
    | _ => .error .funct
  | 4 => need (d == 0 && a == 0) (checked (.trcMark (bits w 20 12)))
  | _ => .error .funct

/-- OP-V, opcode 1010111 (04 R90). -/
def decVector (w : BitVec 32) : Decoded :=
  let f := kvOf w
  match field w 26 6 with
  | 0x00 => checked (.vadd f)
  | 0x01 => checked (.vsub f)
  | 0x02 => checked (.vmul f)
  | 0x03 => checked (.vmulh f)
  | 0x04 => checked (.vmulhu f)
  | 0x05 => checked (.vmin f)
  | 0x06 => checked (.vmax f)
  | 0x07 => checked (.vminu f)
  | 0x08 => checked (.vmaxu f)
  | 0x09 => checked (.vand f)
  | 0x0A => checked (.vor f)
  | 0x0B => checked (.vxor f)
  | 0x0C => checked (.vsll f)
  | 0x0D => checked (.vsrl f)
  | 0x0E => checked (.vsra f)
  | 0x0F => checked (.vsel f)
  | 0x10 => checked (.vaddVx f)
  | 0x11 => checked (.vsubVx f)
  | 0x12 => checked (.vmulVx f)
  | 0x13 => checked (.vandVx f)
  | 0x14 => checked (.vsllVx f)
  | 0x15 => checked (.vsrlVx f)
  | 0x16 => checked (.vsraVx f)
  | 0x17 => checked (.vmvVx f)
  | 0x18 => checked (.vseq f)
  | 0x19 => checked (.vsne f)
  | 0x1A => checked (.vslt f)
  | 0x1B => checked (.vsltu f)
  | 0x1C => checked (.vsle f)
  | 0x1D => checked (.vsleu f)
  | 0x1E => checked (.vseqVx f)
  | 0x1F => checked (.vsltVx f)
  | 0x20 => checked (.vfadd f)
  | 0x21 => checked (.vfsub f)
  | 0x22 => checked (.vfmul f)
  | 0x23 => checked (.vfma f)
  | 0x24 => checked (.vfnma f)
  | 0x25 => checked (.vfmin f)
  | 0x26 => checked (.vfmax f)
  | 0x27 => checked (.vfdiv f)
  | 0x28 => checked (.vfsqrt f)
  | 0x29 => checked (.vfrcp f)
  | 0x2A => checked (.vfexp2 f)
  | 0x2B => checked (.vflog2 f)
  | 0x2C => checked (.vfcvt f)
  | 0x2D => checked (.vfeq f)
  | 0x2E => checked (.vflt f)
  | 0x2F => checked (.vfle f)
  | 0x30 => checked (.vfaddVx f)
  | 0x31 => checked (.vfmulVx f)
  | 0x32 => checked (.vfmaVx f)
  | 0x33 => checked (.vfmaxVx f)
  | 0x34 => checked (.vredsum f)
  | 0x35 => checked (.vredmax f)
  | 0x36 => checked (.vredmin f)
  | 0x37 => checked (.vfredsum f)
  | 0x38 => checked (.vfredmax f)
  | 0x39 => checked (.vfredmin f)
  | 0x3A => checked (.vperm f)
  | 0x3B => checked (.vslide f)
  | 0x3C => checked (.viota f)
  | 0x3D => checked (.vmvXv f)
  | 0x3E => checked (.vpred f)
  | _ => checked (.vpcnt f)

/-- LOAD-FP, opcode 0000111: the vector loads (04 R92). -/
def decVLoad (w : BitVec 32) : Decoded :=
  need (bits w 30 2 == 0) (match field w 27 3 with
  | 0 => checked (.vld (kmOf w)) | 1 => checked (.vlds (kmOf w)) | 2 => checked (.vldx (kmOf w)) | 3 => checked (.vldb (kmOf w))
  | _ => .error .funct)

/-- STORE-FP, opcode 0100111: the vector stores (04 R92). -/
def decVStore (w : BitVec 32) : Decoded :=
  need (bits w 30 2 == 0) (match field w 27 3 with
  | 0 => checked (.vst (kmOf w)) | 1 => checked (.vsts (kmOf w)) | 2 => checked (.vstx (kmOf w)) | 3 => checked (.vstb (kmOf w))
  | _ => .error .funct)

/-- The instruction of a word, or the reason it is illegal (04 R75, R93). -/
def decodeWord (w : BitVec 32) : Decoded :=
  match field w 0 7 with
  | 0x03 => decLoad w
  | 0x07 => decVLoad w
  | 0x0B => decCustom0 w
  | 0x0F => decMiscMem w
  | 0x13 => decOpImm w
  | 0x17 => checked (.auipc (bits w 7 5) (bits w 12 20))
  | 0x1B => decOpImm32 w
  | 0x23 => decStore w
  | 0x27 => decVStore w
  | 0x2B => decCustom1 w
  | 0x33 => decOp w
  | 0x37 => checked (.lui (bits w 7 5) (bits w 12 20))
  | 0x3B => decOp32 w
  | 0x57 => decVector w
  | 0x5B => decCustom2 w
  | 0x63 => decBranch w
  | 0x67 => if field w 12 3 = 0 then checked (.jalr (bits w 7 5) (bits w 15 5) (bits w 20 12)) else .error .funct
  | 0x6F => checked (.jal (bits w 7 5) (immJ w))
  | 0x73 => decSystem w
  | 0x7B => decCustom3 w
  | _ => if field w 0 2 = 3 then .error .opcode else .error .notPrefix

/-- The little-endian word of four bytes (04 R74). -/
def leWord (b0 b1 b2 b3 : Byte) : BitVec 32 := b3 ++ b2 ++ b1 ++ b0

/-- Decoding a list of bytes: an instruction and the bytes after it, or a refusal. -/
def decode : List Byte → Except DecodeError (Instr × List Byte)
  | b0 :: b1 :: b2 :: b3 :: rest =>
    match decodeWord (leWord b0 b1 b2 b3) with
    | .ok i => .ok (i, rest)
    | .error e => .error e
  | _ => .error .truncated

/-- The four bytes of a word as the hardware stores it (04 R74). -/
def leBytes (w : BitVec 32) : List Byte := [bits w 0 8, bits w 8 8, bits w 16 8, bits w 24 8]

/-- What the decoder reads from an instruction whose bits are `w`, numbered as the opcode table numbers them. -/
def decodeTableWord (nbits w : Nat) : Option Instr :=
  match decode (leBytes (BitVec.ofNat 32 (w % 2 ^ nbits))) with
  | .ok (i, _) => some i
  | .error _ => none

/-! ## The encoder -/

/-- funct7 and funct3 of a register-register form under OP. -/
def rrCode : AluRR → BitVec 7 × BitVec 3 × BitVec 7
  | .add => (0x00, 0, 0x33) | .sub => (0x20, 0, 0x33) | .sll => (0x00, 1, 0x33) | .slt => (0x00, 2, 0x33)
  | .sltu => (0x00, 3, 0x33) | .xor => (0x00, 4, 0x33) | .srl => (0x00, 5, 0x33) | .sra => (0x20, 5, 0x33)
  | .or => (0x00, 6, 0x33) | .and => (0x00, 7, 0x33)
  | .addw => (0x00, 0, 0x3B) | .subw => (0x20, 0, 0x3B) | .sllw => (0x00, 1, 0x3B) | .srlw => (0x00, 5, 0x3B)
  | .sraw => (0x20, 5, 0x3B)
  | .mul => (0x01, 0, 0x33) | .mulh => (0x01, 1, 0x33) | .mulhsu => (0x01, 2, 0x33) | .mulhu => (0x01, 3, 0x33)
  | .div => (0x01, 4, 0x33) | .divu => (0x01, 5, 0x33) | .rem => (0x01, 6, 0x33) | .remu => (0x01, 7, 0x33)
  | .mulw => (0x01, 0, 0x3B) | .divw => (0x01, 4, 0x3B) | .divuw => (0x01, 5, 0x3B) | .remw => (0x01, 6, 0x3B)
  | .remuw => (0x01, 7, 0x3B)
  | .adduw => (0x04, 0, 0x3B) | .sh1add => (0x10, 2, 0x33) | .sh2add => (0x10, 4, 0x33) | .sh3add => (0x10, 6, 0x33)
  | .sh1adduw => (0x10, 2, 0x3B) | .sh2adduw => (0x10, 4, 0x3B) | .sh3adduw => (0x10, 6, 0x3B)
  | .andn => (0x20, 7, 0x33) | .orn => (0x20, 6, 0x33) | .xnor => (0x20, 4, 0x33)
  | .max => (0x05, 6, 0x33) | .maxu => (0x05, 7, 0x33) | .min => (0x05, 4, 0x33) | .minu => (0x05, 5, 0x33)
  | .rol => (0x30, 1, 0x33) | .ror => (0x30, 5, 0x33)

/-- The word of an INTEGER_OP form. -/
def encInt : IntForm → BitVec 32
  | .rr op rd rs1 rs2 => mkR (rrCode op).1 rs2 rs1 (rrCode op).2.1 rd (rrCode op).2.2
  | .imm .addi rd rs1 imm => mkI imm rs1 0 rd 0x13
  | .imm .slti rd rs1 imm => mkI imm rs1 2 rd 0x13
  | .imm .sltiu rd rs1 imm => mkI imm rs1 3 rd 0x13
  | .imm .xori rd rs1 imm => mkI imm rs1 4 rd 0x13
  | .imm .ori rd rs1 imm => mkI imm rs1 6 rd 0x13
  | .imm .andi rd rs1 imm => mkI imm rs1 7 rd 0x13
  | .imm .addiw rd rs1 imm => mkI imm rs1 0 rd 0x1B
  | .sh6 .slli rd rs1 sh => mkI ((0x00 : BitVec 6) ++ sh) rs1 1 rd 0x13
  | .sh6 .srli rd rs1 sh => mkI ((0x00 : BitVec 6) ++ sh) rs1 5 rd 0x13
  | .sh6 .srai rd rs1 sh => mkI ((0x10 : BitVec 6) ++ sh) rs1 5 rd 0x13
  | .sh6 .rori rd rs1 sh => mkI ((0x18 : BitVec 6) ++ sh) rs1 5 rd 0x13
  | .sh6 .slliuw rd rs1 sh => mkI ((0x02 : BitVec 6) ++ sh) rs1 1 rd 0x1B
  | .sh5 .slliw rd rs1 sh => mkR 0x00 sh rs1 1 rd 0x1B
  | .sh5 .srliw rd rs1 sh => mkR 0x00 sh rs1 5 rd 0x1B
  | .sh5 .sraiw rd rs1 sh => mkR 0x20 sh rs1 5 rd 0x1B
  | .un .clz rd rs1 => mkI 0x600 rs1 1 rd 0x13
  | .un .clzw rd rs1 => mkI 0x600 rs1 1 rd 0x1B
  | .un .ctz rd rs1 => mkI 0x601 rs1 1 rd 0x13
  | .un .ctzw rd rs1 => mkI 0x601 rs1 1 rd 0x1B
  | .un .cpop rd rs1 => mkI 0x602 rs1 1 rd 0x13
  | .un .cpopw rd rs1 => mkI 0x602 rs1 1 rd 0x1B
  | .un .sextb rd rs1 => mkI 0x604 rs1 1 rd 0x13
  | .un .sexth rd rs1 => mkI 0x605 rs1 1 rd 0x13
  | .un .zexth rd rs1 => mkR 0x04 0 rs1 4 rd 0x3B
  | .un .rev8 rd rs1 => mkI 0x6B8 rs1 5 rd 0x13
  | .un .orcb rd rs1 => mkI 0x287 rs1 5 rd 0x13

/-- funct3 of a load. -/
def loadCode : LoadOp → BitVec 3
  | .lb => 0 | .lh => 1 | .lw => 2 | .ld => 3 | .lbu => 4 | .lhu => 5 | .lwu => 6

/-- funct3 of a store. -/
def storeCode : StoreOp → BitVec 3
  | .sb => 0 | .sh => 1 | .sw => 2 | .sd => 3

/-- funct3 of a branch. -/
def branchCode : BranchOp → BitVec 3
  | .beq => 0 | .bne => 1 | .blt => 4 | .bge => 5 | .bltu => 6 | .bgeu => 7

/-- The word of an instruction, none for the steps of the other agents, which have no word. -/
def encode : Instr → Option (BitVec 32)
  | .load op rd rs1 imm => some (mkI imm rs1 (loadCode op) rd 0x03)
  | .store op rs2 rs1 imm => some (mkS imm rs2 rs1 (storeCode op) 0x23)
  | .integerOp f => some (encInt f)
  | .lui rd imm => some (mkU imm rd 0x37)
  | .auipc rd imm => some (mkU imm rd 0x17)
  | .jal rd imm => some (mkJ imm rd 0x6F)
  | .jalr rd rs1 imm => some (mkI imm rs1 0 rd 0x67)
  | .branch op rs1 rs2 imm => some (mkB imm rs2 rs1 (branchCode op) 0x63)
  | .csrrw c a d => some (mkI c a 1 d 0x73)
  | .csrrs c a d => some (mkI c a 2 d 0x73)
  | .csrrc c a d => some (mkI c a 3 d 0x73)
  | .csrrwi c a d => some (mkI c a 5 d 0x73)
  | .csrrsi c a d => some (mkI c a 6 d 0x73)
  | .csrrci c a d => some (mkI c a 7 d 0x73)
  | .ecall => some 0x00000073
  | .ebreak => some 0x00100073
  | .fence fm p s => some (mkI (fm ++ p ++ s) 0 0 0 0x0F)
  | .fenceI => some 0x0000100F
  | .quit a s => some (mkR 0x00 s a 0 0 0x0B)
  | .yield => some (mkR 0x01 0 0 0 0 0x0B)
  | .spawn d a b => some (mkR 0x02 b a 0 d 0x0B)
  | .fork a b => some (mkR 0x03 b a 0 0 0x0B)
  | .join a => some (mkR 0x04 0 a 0 0 0x0B)
  | .taskSub d a => some (mkR 0x05 0 a 0 d 0x0B)
  | .launch d a => some (mkR 0x06 0 a 0 d 0x0B)
  | .hl0 a l => some (mkI l a 1 0 0x0B)
  | .hl1 a l => some (mkI l a 2 0 0x0B)
  | .hl0i a l => some (mkI l a 3 0 0x0B)
  | .hl1i a l => some (mkI l a 4 0 0x0B)
  | .gSet g a => some (mkR 0x00 0 a 5 g 0x0B)
  | .gClr g => some (mkR 0x01 0 0 5 g 0x0B)
  | .bEod q dim imm => some (mkB imm ((0 : BitVec 3) ++ dim) q 6 0x0B)
  | .bNeod q dim imm => some (mkB imm ((1 : BitVec 3) ++ dim) q 6 0x0B)
  | .lda f => some (mkScoped f 1 0)
  | .ldsc f => some (mkScoped f 3 0)
  | .stl f => some (mkScoped f 2 1)
  | .stsc f => some (mkScoped f 3 1)
  | .amoAdd f => some (mkAmo 0 f)
  | .amoAnd f => some (mkAmo 1 f)
  | .amoOr f => some (mkAmo 2 f)
  | .amoXor f => some (mkAmo 3 f)
  | .amoMin f => some (mkAmo 4 f)
  | .amoMax f => some (mkAmo 5 f)
  | .amoMinu f => some (mkAmo 6 f)
  | .amoMaxu f => some (mkAmo 7 f)
  | .amoSwap f => some (mkAmo 8 f)
  | .amoCas f => some (mkAmo 9 f)
  | .amoFadd f => some (mkAmo 10 f)
  | .amoFmax f => some (mkAmo 11 f)
  | .amoFmin f => some (mkAmo 12 f)
  | .waitNe d b a => some (mkR 0x00 b a 4 d 0x2B)
  | .waitEq d b a => some (mkR 0x01 b a 4 d 0x2B)
  | .fenceAcq s => some (mkR 0x02 s 0 4 0 0x2B)
  | .fenceRel s => some (mkR 0x03 s 0 4 0 0x2B)
  | .fenceAr s => some (mkR 0x04 s 0 4 0 0x2B)
  | .fenceSc s => some (mkR 0x05 s 0 4 0 0x2B)
  | .barInit a b => some (mkR 0x08 b a 4 0 0x2B)
  | .barArrive d a b => some (mkR 0x09 b a 4 d 0x2B)
  | .barWait a b => some (mkR 0x0A b a 4 0 0x2B)
  | .barAw d a => some (mkR 0x0B 0 a 4 d 0x2B)
  | .resAcq d a => some (mkR 0x00 0 a 5 d 0x2B)
  | .resRel v a b => some (mkR 0x01 b a 5 v 0x2B)
  | .qBind q a => some (mkR 0x00 0 a 6 q 0x2B)
  | .qPop d q => some (mkR 0x01 0 q 6 d 0x2B)
  | .qPush q a => some (mkR 0x02 0 a 6 q 0x2B)
  | .vqPop d q => some (mkR 0x03 0 q 6 d 0x2B)
  | .vqPush q v => some (mkR 0x04 0 v 6 q 0x2B)
  | .qStat d q => some (mkR 0x05 0 q 6 d 0x2B)
  | .qClose q => some (mkR 0x06 0 0 6 q 0x2B)
  | .mxIssue v sel => some (mkR 0x00 ((0 : BitVec 3) ++ sel) v 0 0 0x5B)
  | .cpIssue v sel => some (mkR 0x00 ((0 : BitVec 3) ++ sel) v 1 0 0x5B)
  | .collPost d a => some (mkR 0x00 0 a 2 d 0x5B)
  | .redSend v a => some (mkR 0x00 v a 3 0 0x5B)
  | .redRecv d a => some (mkR 0x01 0 a 3 d 0x5B)
  | .wbCfg a b => some (mkR 0x00 b a 0 0 0x7B)
  | .wbRd d a => some (mkR 0x01 0 a 0 d 0x7B)
  | .wbClr a => some (mkR 0x02 0 a 0 0 0x7B)
  | .wbAck a => some (mkR 0x03 0 a 0 0 0x7B)
  | .cenMode a => some (mkR 0x00 0 a 1 0 0x7B)
  | .cenBuf a => some (mkR 0x01 0 a 1 0 0x7B)
  | .cenRd d a => some (mkR 0x02 0 a 1 d 0x7B)
  | .icInv s => some (mkR 0x00 s 0 2 0 0x7B)
  | .icPin a b l => some (mkR 0x01 b a 2 l 0x7B)
  | .icUnpin a b => some (mkR 0x02 b a 2 0 0x7B)
  | .icPf a b l => some (mkR 0x03 b a 2 l 0x7B)
  | .spPin a b => some (mkR 0x04 b a 2 0 0x7B)
  | .spUnpin a b => some (mkR 0x05 b a 2 0 0x7B)
  | .spFlush a b => some (mkR 0x06 b a 2 0 0x7B)
  | .tlbInv a s => some (mkR 0x07 s a 2 0 0x7B)
  | .contResume a => some (mkR 0x00 0 a 3 0 0x7B)
  | .contSkip a => some (mkR 0x01 0 a 3 0 0x7B)
  | .contKill a => some (mkR 0x02 0 a 3 0 0x7B)
  | .contMove a b => some (mkR 0x03 b a 3 0 0x7B)
  | .mbBind a b => some (mkR 0x04 b a 3 0 0x7B)
  | .mbUnbind a => some (mkR 0x05 0 a 3 0 0x7B)
  | .trcMark imm => some (mkI imm 0 4 0 0x7B)
  | .vadd f => some (mkKV 0x00 f)
  | .vsub f => some (mkKV 0x01 f)
  | .vmul f => some (mkKV 0x02 f)
  | .vmulh f => some (mkKV 0x03 f)
  | .vmulhu f => some (mkKV 0x04 f)
  | .vmin f => some (mkKV 0x05 f)
  | .vmax f => some (mkKV 0x06 f)
  | .vminu f => some (mkKV 0x07 f)
  | .vmaxu f => some (mkKV 0x08 f)
  | .vand f => some (mkKV 0x09 f)
  | .vor f => some (mkKV 0x0A f)
  | .vxor f => some (mkKV 0x0B f)
  | .vsll f => some (mkKV 0x0C f)
  | .vsrl f => some (mkKV 0x0D f)
  | .vsra f => some (mkKV 0x0E f)
  | .vsel f => some (mkKV 0x0F f)
  | .vaddVx f => some (mkKV 0x10 f)
  | .vsubVx f => some (mkKV 0x11 f)
  | .vmulVx f => some (mkKV 0x12 f)
  | .vandVx f => some (mkKV 0x13 f)
  | .vsllVx f => some (mkKV 0x14 f)
  | .vsrlVx f => some (mkKV 0x15 f)
  | .vsraVx f => some (mkKV 0x16 f)
  | .vmvVx f => some (mkKV 0x17 f)
  | .vseq f => some (mkKV 0x18 f)
  | .vsne f => some (mkKV 0x19 f)
  | .vslt f => some (mkKV 0x1A f)
  | .vsltu f => some (mkKV 0x1B f)
  | .vsle f => some (mkKV 0x1C f)
  | .vsleu f => some (mkKV 0x1D f)
  | .vseqVx f => some (mkKV 0x1E f)
  | .vsltVx f => some (mkKV 0x1F f)
  | .vfadd f => some (mkKV 0x20 f)
  | .vfsub f => some (mkKV 0x21 f)
  | .vfmul f => some (mkKV 0x22 f)
  | .vfma f => some (mkKV 0x23 f)
  | .vfnma f => some (mkKV 0x24 f)
  | .vfmin f => some (mkKV 0x25 f)
  | .vfmax f => some (mkKV 0x26 f)
  | .vfdiv f => some (mkKV 0x27 f)
  | .vfsqrt f => some (mkKV 0x28 f)
  | .vfrcp f => some (mkKV 0x29 f)
  | .vfexp2 f => some (mkKV 0x2A f)
  | .vflog2 f => some (mkKV 0x2B f)
  | .vfcvt f => some (mkKV 0x2C f)
  | .vfeq f => some (mkKV 0x2D f)
  | .vflt f => some (mkKV 0x2E f)
  | .vfle f => some (mkKV 0x2F f)
  | .vfaddVx f => some (mkKV 0x30 f)
  | .vfmulVx f => some (mkKV 0x31 f)
  | .vfmaVx f => some (mkKV 0x32 f)
  | .vfmaxVx f => some (mkKV 0x33 f)
  | .vredsum f => some (mkKV 0x34 f)
  | .vredmax f => some (mkKV 0x35 f)
  | .vredmin f => some (mkKV 0x36 f)
  | .vfredsum f => some (mkKV 0x37 f)
  | .vfredmax f => some (mkKV 0x38 f)
  | .vfredmin f => some (mkKV 0x39 f)
  | .vperm f => some (mkKV 0x3A f)
  | .vslide f => some (mkKV 0x3B f)
  | .viota f => some (mkKV 0x3C f)
  | .vmvXv f => some (mkKV 0x3D f)
  | .vpred f => some (mkKV 0x3E f)
  | .vpcnt f => some (mkKV 0x3F f)
  | .vld f => some (mkKM 0 f 0x07)
  | .vlds f => some (mkKM 1 f 0x07)
  | .vldx f => some (mkKM 2 f 0x07)
  | .vldb f => some (mkKM 3 f 0x07)
  | .vst f => some (mkKM 0 f 0x27)
  | .vsts f => some (mkKM 1 f 0x27)
  | .vstx f => some (mkKM 2 f 0x27)
  | .vstb f => some (mkKM 3 f 0x27)
  | _ => none

/-- The word of an instruction as the hardware stores it, none for the steps of the other agents. -/
def encodeBytes (i : Instr) : Option (List Byte) := (encode i).map leBytes

end Sys2Proof
end

