-- ==== Sys2Proof/Config.lean ====
section
/-!
DEFINITION. What one W9 fixes for itself and the spec does not: the fused maps of the part, firmware's fixed choices, and the
free values. What is free is opaque, so that a theorem holds whatever it is.
-/
namespace Sys2Proof.Config

/-- A free value: the `n`-th choice that the spec leaves open (log 2). -/
opaque freeNat : Nat → Nat

/-- A free word: the `n`-th value that the spec leaves open (log 2). -/
opaque freeWord : Nat → Word

/-- A free 512-bit value: event bytes and other bytes that 22 R384 and R386 leave open (log 2). -/
opaque freeDigest : Nat → BitVec 512

/-- The fuses of node `n` as the part left test, laid out as HARVEST (17 R335). -/
opaque fusedMap : Nat → Word

/-- Which of the three grades the part is (00 R1). -/
opaque gradeChoice : Nat

/-- The nodes of the part's grade: 256, 240 or 224 (00 R1). -/
def gradeNodes : Nat := match gradeChoice % 3 with | 0 => 256 | 1 => 240 | _ => 224

/-- The harvested nodes of the part: exactly those that its grade lacks, the nodes whose fuse says so first. Every set of the right size
is the set of some fuses (00 R1, 17 R335). -/
def harvestedNodes : List Nat :=
  let off := fun n => (fusedMap n).getLsbD 0
  ((List.range 256).filter off ++ (List.range 256).filter (fun n => !off n)).take (256 - gradeNodes)

/-- The harvest map of the part: OFF marks the harvested nodes, and VARIANT is 00, 01 or 10, eight, seven or six slices (00 R1, R2, 11
R246, 17 R335). -/
def harvestMap (n : Nat) : Word :=
  let w := fusedMap n
  let v := if bits w 2 2 = 3 then w &&& ~~~0xC#64 else w
  (v &&& ~~~1#64) ||| (if n ∈ harvestedNodes then 1 else 0)

/-- The skew of node `n` against the package's 100 MHz count, at most 2 counts (01 R27). -/
opaque timeSkew : Nat → Nat

/-- The port processor that firmware writes into COLLPP of node `n` (19 R346). -/
opaque collPort : Nat → Nat

/-- The remote-sense strap of the module (22 R391, R392). -/
opaque remoteSense : Bool

/-- IDENTIFY B2: stepping and ROM version (22 R382). -/
opaque romVersion : Word

/-- Firmware's fixed choice of algorithm with CANON = 0, from OP, N, COUNT, DTYPE, modules and CHUNK (19 R359). -/
opaque collAlgo : Nat → Nat → Nat → Nat → Nat → Nat → Nat

/-- The number of this module in its pod (19 R350). -/
opaque podModule : Nat

/-- The node whose store holds a package object of a partition, modulo 256: firmware's choice (06 R132). -/
opaque packageObject : Nat → Nat → Nat

/-- The digest of the mask ROM's bytes, the event of MROM (22 R384). -/
opaque romDigest : BitVec 512

/-- The secret key that the fuses give at a cold reset (22 R385). -/
opaque fuseKey : Nat

/-- Falcon-1024, which the spec names and does not define: the bytes of the public key of a secret key (22 R385, log 19). -/
opaque falconPublic : Nat → Nat → Byte

/-- Falcon-1024: the signature of a message under a secret key, with the draw that makes it one of several (22 R385, log 19). -/
opaque falconSign : Nat → List Byte → Nat → List Byte

/-- The public key that the fuses give, by byte (22 R385). -/
def publicKey (i : Nat) : Byte := falconPublic fuseKey i

/-- The entries of a partition's error ring, less one (15 R315 gives no number). -/
opaque errRingEntries : Nat

end Sys2Proof.Config
end

