-- ==== Sys2Proof/Machine/Shake.lean ====
section
/-!
DEFINITION. SHAKE256 with an output of 512 bits, the measurement function of 22 R384, as FIPS 202 gives it (log 19).
-/
namespace Sys2Proof.Machine.Shake

/-- The 25 lanes of the Keccak state: lane (x, y) at place x + 5 y. -/
abbrev Lanes := List Word

/-- A lane. -/
def lane (a : Lanes) (i : Nat) : Word := a.getD i 0

/-- The state with lane i given by `f i`. -/
def each (f : Nat → Word) : Lanes := (List.range 25).map f

/-- The rotation of each lane. -/
def turns : List Nat := [0, 1, 62, 28, 27, 36, 44, 6, 55, 20, 3, 10, 43, 25, 39, 41, 45, 15, 21, 8, 18, 2, 61, 56, 14]

/-- The constants of the 24 rounds. -/
def roundConstants : List Word :=
  [0x0000000000000001, 0x0000000000008082, 0x800000000000808A, 0x8000000080008000, 0x000000000000808B, 0x0000000080000001,
   0x8000000080008081, 0x8000000000008009, 0x000000000000008A, 0x0000000000000088, 0x0000000080008009, 0x000000008000000A] ++
  [0x000000008000808B, 0x800000000000008B, 0x8000000000008089, 0x8000000000008003, 0x8000000000008002, 0x8000000000000080,
   0x000000000000800A, 0x800000008000000A, 0x8000000080008081, 0x8000000000008080, 0x0000000080000001, 0x8000000080008008]

/-- The step theta: each lane takes the parities of two columns. -/
def theta (a : Lanes) : Lanes :=
  let c := (List.range 5).map (fun x => lane a x ^^^ lane a (x + 5) ^^^ lane a (x + 10) ^^^ lane a (x + 15) ^^^ lane a (x + 20))
  let d := (List.range 5).map (fun x => c.getD ((x + 4) % 5) 0 ^^^ (c.getD ((x + 1) % 5) 0).rotateLeft 1)
  each (fun i => lane a i ^^^ d.getD (i % 5) 0)

/-- The steps rho and pi: lane (x, y), rotated, goes to (y, 2 x + 3 y). -/
def rhoPi (a : Lanes) : Lanes :=
  each (fun i =>
    let x := i % 5
    let y := i / 5
    let src := (x + 3 * y) % 5 + 5 * x
    (lane a src).rotateLeft (turns.getD src 0))

/-- The step chi. -/
def chi (b : Lanes) : Lanes :=
  each (fun i => lane b i ^^^ (~~~lane b ((i + 1) % 5 + i / 5 * 5) &&& lane b ((i + 2) % 5 + i / 5 * 5)))

/-- The permutation of 24 rounds. -/
def permute (a : Lanes) : Lanes :=
  roundConstants.foldl (fun st rc =>
    match chi (rhoPi (theta st)) with
    | [] => []
    | x :: t => (x ^^^ rc) :: t) a

/-- The bytes that one permutation absorbs. -/
abbrev rate : Nat := 136

/-- The message with its padding: the suffix 1111, the first and last bit of the padding. -/
def padded (m : List Byte) : List Byte :=
  let k := rate - m.length % rate
  if k = 1 then m ++ [0x9F] else m ++ [0x1F] ++ List.replicate (k - 2) 0 ++ [0x80]

/-- The 8 bytes of a lane, the first the lowest. -/
def laneOfBytes (b : List Byte) : Word := b.foldr (fun x w => (w <<< 8) ||| x.setWidth 64) 0

/-- Absorb `n` blocks. -/
def absorb : Nat → List Byte → Lanes → Lanes
  | 0, _, a => a
  | n + 1, m, a =>
    absorb n (m.drop rate)
      (permute (each (fun i => if i < 17 then lane a i ^^^ laneOfBytes ((m.drop (8 * i)).take 8) else lane a i)))

/-- SHAKE256 of a message, its first 64 bytes as a number whose lowest byte is the first. -/
def digest (m : List Byte) : BitVec 512 :=
  let p := padded m
  let a := absorb (p.length / rate) p (List.replicate 25 0)
  (List.range 8).foldr (fun i w => (w <<< 64) ||| (lane a i).setWidth 512) 0

/-- The 64 bytes of a measurement, the lowest first. -/
def bytesOf (m : BitVec 512) : List Byte := (List.range 64).map (fun i => BitVec.ofNat 8 (m.toNat / 256 ^ i))

end Sys2Proof.Machine.Shake

namespace Sys2Proof.Machine

/-- Extend a measurement by the digest of an event (22 R384). -/
def extend (m : BitVec 512) (event : BitVec 512) : BitVec 512 := Shake.digest (Shake.bytesOf m ++ Shake.bytesOf event)

end Sys2Proof.Machine
end

