-- ==== Sys2Proof/Machine/Table.lean ====
section
/-!
DEFINITION. Sparse tables: lists of key and value pairs with keys strictly rising. `put` keeps the canonical form of memory (no
entry equals the default); `set` keeps the keys rising and stores every value.
-/
namespace Sys2Proof

/-- A sparse table keyed by natural numbers. -/
abbrev Tbl (α : Type) := List (Nat × α)

namespace Tbl

/-- The value at `k`, `d` when `k` is not listed. -/
def get {α : Type} (d : α) : Tbl α → Nat → α
  | [], _ => d
  | (k, v) :: t, n => if k = n then v else get d t n

/-- The value at `k`, none when `k` is not listed. -/
def find {α : Type} : Tbl α → Nat → Option α
  | [], _ => none
  | (k, v) :: t, n => if k = n then some v else find t n

/-- Store `v` at `n`, keeping the keys rising. -/
def set {α : Type} : Tbl α → Nat → α → Tbl α
  | [], n, v => [(n, v)]
  | (k, w) :: t, n, v =>
    if n < k then (n, v) :: (k, w) :: t
    else if n = k then (n, v) :: t
    else (k, w) :: set t n v

/-- Remove the entry at `n`. -/
def erase {α : Type} : Tbl α → Nat → Tbl α
  | [], _ => []
  | (k, w) :: t, n => if k = n then erase t n else (k, w) :: erase t n

/-- Store `v` at `n` in canonical form: the default is not listed. -/
def put {α : Type} [DecidableEq α] (d : α) (t : Tbl α) (n : Nat) (v : α) : Tbl α := if v = d then t.erase n else t.set n v

/-- Change the value at `n` by `f`, starting from `d` when it is not listed. -/
def modify {α : Type} (d : α) (t : Tbl α) (n : Nat) (f : α → α) : Tbl α := t.set n (f (t.get d n))

/-- Every key is at least `lo` and the keys rise strictly. -/
def risingFrom {α : Type} (lo : Nat) : Tbl α → Bool
  | [] => true
  | (k, _) :: t => decide (lo ≤ k) && risingFrom (k + 1) t

/-- The canonical form: keys strictly rising, no entry equal to the default. -/
def canon {α : Type} [DecidableEq α] (d : α) (t : Tbl α) : Bool := risingFrom 0 t && t.all (fun e => decide (e.2 ≠ d))

end Tbl

end Sys2Proof
end

