-- ==== Sys2Proof/Machine/State.lean ====
section
/-!
DEFINITION. The state of the machine as plain data, the reasons a step can stop, and the machine right after a cold reset.
Physical state is keyed by physical core (node x 16 + core), quad (node x 4 + quad) and node. Logical state is keyed by
partition: logical core p x 4096 + L, logical quad p x 1024 + Q, logical node p x 256 + k (01 R10, 15 R319, log 6).
-/
namespace Sys2Proof.Machine

/-- Why the machine stops with a fault. -/
inductive Fault where
  /-- Raised by a thread's access to a register offset of region 3 for which the spec gives no register (11 R243); safe. -/
  | unlistedRegister (pa : Nat)
deriving DecidableEq, Repr

/-- Why an instruction has no meaning. -/
inductive Refusal where
  /-- Raised by an arm of exec that has no meaning yet; safe. -/
  | notModelled (mnemonic : String)
deriving DecidableEq, Repr

/-! ## A resident thread -/

/-- A hardware loop; it is active while `remaining` is not 0 (05 R107, R108). -/
structure HLoop where
  remaining : BitVec 32
  start : Word
  stop : Word
deriving DecidableEq, Repr

/-- An inactive loop: its three CSRs read 0 (01 R26). -/
def HLoop.off : HLoop := { remaining := 0, start := 0, stop := 0 }

/-- The reservation a thread holds (06 R139 to R141). -/
structure Section where
  va : Word
  /-- Physical address of the line. -/
  pa : Nat
  /-- Instructions issued since `res.acq`. -/
  count : Nat
deriving DecidableEq, Repr

/-- A write-combining buffer: the bytes stored to one 64-byte line (11 R255). -/
structure WcBuf where
  cells : Tbl Byte
  va : Word
deriving DecidableEq, Repr

/-- What a resident thread owes at its next instruction boundary (14 R298, 15 R321, 22 R382). -/
inductive Mark where
  /-- Nothing. -/
  | none
  /-- A forced yield. -/
  | yield
  /-- Its task is killed. -/
  | kill
deriving DecidableEq, Repr

/-- The registers and CSRs of a resident thread (01 R21, R24, R26). -/
structure Thread where
  /-- Key of its task. -/
  task : Nat
  pc : Word
  smode : Bool
  x : Tbl Word
  v : Tbl VReg
  /-- Bit n: vn has been written (01 R25). -/
  vw : BitVec 32
  p : Tbl PReg
  /-- kxlm0 to kxlm3; an unlisted mask is all ones. -/
  lm : Tbl Word
  frm : BitVec 3
  fflags : BitVec 5
  vl : BitVec 8
  vstart : BitVec 7
  lsel : BitVec 2
  sscratch : Word
  hl0 : HLoop
  hl1 : HLoop
  /-- Instructions issued since it last became resident (01 R20). -/
  issued : Nat
  resv : Option Section
  wc : Option WcBuf
  /-- The thread is held in its slot (05 R116). -/
  held : Bool
  mark : Mark
  /-- The `bar.wait` or `bar.aw` at this address, executed first, waits for the next flip, with this token (15 R304). -/
  again : Option (Word × Word)
deriving DecidableEq, Repr

/-- A thread of task `task` starting at `pc` (01 R24); a0 to a3 are put in `x` by the path that starts it. -/
def Thread.start (task : Nat) (pc : Word) (smode : Bool) (x : Tbl Word) : Thread :=
  { task := task, pc := pc, smode := smode, x := x, v := [], vw := 0, p := [], lm := [], frm := 0, fflags := 0, vl := 128,
    vstart := 0, lsel := 0, sscratch := 0, hl0 := HLoop.off, hl1 := HLoop.off, issued := 0, resv := none, wc := none,
    held := false, mark := .none, again := none }

/-- A barrel slot (01 R13): a thread or none, and whether a spawn credit reserves it (05 R99). -/
structure Slot where
  thread : Option Thread
  /-- Key of the `spawn` child that will take it. -/
  credit : Option Nat
deriving DecidableEq, Repr

/-- An empty slot. -/
def Slot.empty : Slot := { thread := none, credit := none }

/-! ## Continuation records -/

/-- STATE of a record (05 R110). -/
inductive RecState where
  | free | waiting | ready | faulted | held | killed
deriving DecidableEq, Repr

/-- What an access does at its home. -/
inductive AccOp where
  | load | store | amo (op : Nat) | waitNe | waitEq | join | resAcq | fetch
  | readTask | readLaunch | readColl | readWb | readMb | readStream
deriving DecidableEq, Repr

/-- A run of bytes of an access: its place in the reply or in the source, its address and its data. -/
structure Piece where
  /-- First byte in the register or in the record read. -/
  off : Nat
  va : Word
  size : Nat
  data : Nat
deriving DecidableEq, Repr

/-- An access that a yield point has accepted: what it still has to do (01 R18). -/
structure Acc where
  op : AccOp
  /-- Pieces not yet performed. -/
  pieces : List Piece
  arg : Word
  cmp : Word
  dbl : Bool
  signed : Bool
  /-- Scope code of its acquire (load) or release (store); none when it is relaxed. -/
  scope : Option Nat
  nt : Bool
  /-- The `vldb` reply goes to every one of these byte offsets. -/
  spread : List Nat
  /-- A second operand: a channel, a bound word, a stream number. -/
  aux : Word
  /-- Bytes of a vector reply that the instruction writes. -/
  mask : PReg
  /-- Bytes that the store buffer held at issue, by place in the reply (11 R248). -/
  fwd : Tbl Byte
  /-- Bytes gathered so far. -/
  got : Nat
  /-- It is a vector access: a fault shows the element it found in `kxvstart` (07 R169). -/
  vec : Bool := false
  /-- The element of its first piece. -/
  first : Nat := 0
  /-- The lowest fault found, taken once the pieces before it are done (07 R169). -/
  fault : Option (Piece × Nat) := none
deriving DecidableEq, Repr

/-- What a waiting record waits for (05 R111). -/
inductive Want where
  /-- Nothing: it is ready or faulted. -/
  | nothing
  /-- An access: a walk, a page or a reply. -/
  | access (a : Acc)
  /-- A phase other than `phase` of an object; with `aw`, the token is the reply (06 R136, R137). -/
  | barrier (b : BarRef) (phase : Bool) (aw : Bool) (tok : Word)
  /-- Stream N: `n` elements to take (`push` false) or to send, of the values given (06 R146). -/
  | stream (q : Nat) (push : Bool) (vector : Bool) (vals : List Word)
  /-- Room in a queue for a command that the core holds with the record (05 R111, 08 R176). -/
  | engineQueue (c : CmdRef)
  | copyQueue (c : CmdRef)
  | dispatcher (launch : Bool) (body : BitVec 1024)
  | collQueue (blk : BitVec 1024)
  /-- The logical core that sends it stands last. -/
  | redQueue (v : VReg) (operand : Word) (lc : Nat)
  /-- A round's result for logical core `lc`, or the next glean vector of its node (19 R361, R362). -/
  | reduction (tree tag dtype redop : Nat) (glean : Bool) (lc : Nat)
  /-- The walk of a `quit`'s counters (05 R97). -/
  | quit (counter join : Word) (scope : Nat)
deriving DecidableEq, Repr

/-- The core's own copy of a continuation record (05 R110, R228, 15 R302). -/
structure Rec where
  id : Nat
  /-- Address of the record in the silo or in a held area. -/
  addr : Word
  size : Nat
  st : RecState
  seq : BitVec 32
  mask : Word
  /-- 0 none, 1 to 31 xn, 32 to 63 v(n - 32). -/
  reply : Nat
  cause : Nat
  wait : Nat
  obj : Word
  task : Nat
  smode : Bool
  lm : Tbl Word
  sscratch : Word
  /-- Written marks at the deposit. -/
  vw : BitVec 32
  want : Want
  /-- Trap to take at the relaunch: cause and OBJ (15 R302). -/
  err : Option (Nat × Word)
  /-- Address and loops of the yield-point instruction (15 R302). -/
  ipc : Word
  ihl0 : HLoop
  ihl1 : HLoop
  /-- `kxvstart` that a trap of that instruction shows (07 R169). -/
  ivs : BitVec 7
  /-- The slot whose held area holds it (05 R116). -/
  heldSlot : Option Nat
  parked : Bool
  /-- The logical core that deposited it, when `cont.move` has brought it here (14 R295). -/
  movedFrom : Option Nat
  /-- The `bar.wait` or `bar.aw` whose phase brought the cause of this record, and its token: `cont.resume` waits for the next flip (15 R304). -/
  again : Option (Word × Word)
deriving DecidableEq, Repr

/-! ## Memory-side structures of a core and a quad -/

/-- Where a record in a dispatcher's inbound FIFO came from (14 R278). -/
inductive InbSrc where
  /-- `task.sub`: the submitter's logical core, the id allocated, S mode honoured, the origin. -/
  | core (lc tid : Nat) (smode : Bool) (origin : Option Nat)
  /-- `launch`: the launcher's logical core, mode, `satp` and origin, and the record that waits. -/
  | launch (lc : Nat) (smode : Bool) (satp : Word) (origin : Option Nat) (r : RecRef)
  /-- A host queue. -/
  | port (q : Nat) (smode : Bool)
  /-- A mailbox firing: the word's address and value, the origin it takes. -/
  | mailbox (a0 a1 : Word) (origin : Option Nat)
deriving DecidableEq, Repr

/-- An entry of a dispatcher's inbound FIFO (14 R278). -/
structure Inb where
  body : BitVec 1024
  src : InbSrc
deriving DecidableEq, Repr

/-- What waits, in arrival order, for room in a dispatcher's inbound FIFO (14 R278). -/
inductive InbWait where
  /-- A record at wait kind 9. -/
  | record (r : RecRef)
  /-- A firing, at its home. -/
  | firing (e : Inb)
deriving DecidableEq, Repr

/-- A posted block (09 R208, 19 R345). -/
structure CollPost where
  id : Nat
  blk : BitVec 1024
  satp : Word
  /-- The posting logical core and task. -/
  lc : Nat
  task : Nat
  launch : Nat
  smode : Bool
  /-- The origin of the posting task (14 R297, 19 R354). -/
  origin : Option Nat := none
deriving DecidableEq, Repr

/-- What a store-buffer entry is. -/
inductive SbOp where
  /-- Bytes of one aligned 64-byte piece. -/
  | data (w : WriteReq) (nt : Bool) (device : Bool)
  /-- A posted AMO. -/
  | amo (a : AmoReq)
  /-- A release at a scope: it leaves when what it waits for is done; `loads`, `stores`: which later accesses of the thread to
  its own resident pages follow it (06 R121, R122). -/
  | release (scope : Nat) (loads stores : Bool)
  /-- An acquire at a scope: the later accesses of the thread follow its posted AMOs before it (06 R126, R131). -/
  | acquire (scope : Nat)
  | barInit (b : BarRef) (exp : Nat) (cen : Bool)
  | barArrive (b : BarRef) (bytes : Nat)
  /-- An SC store's record, made ready once the store is acknowledged (06 R123). -/
  | notify (r : RecRef)
  /-- A step that follows a release: the release of a key or of a range entry (05 R97). -/
  | send (i : Instr)
  /-- A `spawn` child or a `fork` arm enters the deque of a logical core, at the top or at the bottom (05 R99, R100). -/
  | deliver (key lc : Nat) (bottom : Bool)
  /-- A `spawn` child starts in the slot its credit reserves (05 R99). -/
  | startIn (key core slot : Nat)
  /-- A record or descriptor enters the inbound FIFO of a logical node (05 R102, R104). -/
  | submit (e : Inb) (ln : Nat)
  /-- A block enters the FIFO of the port processor that its id names (09 R208). -/
  | collPost (p : CollPost)
  /-- An `ic.inv` of a thread of logical core `lc` reaches the I-caches of its scope (09 R224). -/
  | icInv (lc scope : Nat)
  /-- A `tlb.inv` with its operand, of a thread of logical core `lc` with ASID `asid`, reaches the TLBs of its scope (09 R227). -/
  | tlbInv (v : Word) (asid lc scope : Nat)
  /-- A channel joins WBLINK of an object, behind the `bar.init` that its thread issued (06 R134). -/
  | link (b : BarRef) (lc ch : Nat)
deriving DecidableEq, Repr

/-- An entry of the store buffer (11 R247, R248). -/
structure SbEnt where
  /-- Its number: later entries and records have larger ones. -/
  id : Nat
  slot : Nat
  task : Nat
  op : SbOp
deriving DecidableEq, Repr

/-- An entry of the quad write path (11 R247). -/
structure PathEnt where
  id : Nat
  core : Nat
  /-- Its home has performed it. -/
  done : Bool
  acked : Bool
  cells : List (Nat × Byte)
  /-- A release at `quad` that has left the store buffer: its task, and whether later loads and stores of the task follow it until the
  entries before it have committed (06 R122, 11 R250). -/
  mark : Option (Nat × Bool × Bool) := none
  /-- What the weighbridges of the issuing logical core see at the acknowledgement of an AMO (09 R215). -/
  see : Option (Nat × List (Nat × Byte)) := none
  /-- It goes one at a time after its task's earlier ones of the kind: a device store (true), or an element of a vector store to uncached memory
  (07 R167, 11 R256, log 62). -/
  ord : Option (Nat × Bool) := none
  /-- The task whose posted AMO it is (06 R131). -/
  amo : Option Nat := none
deriving DecidableEq, Repr

/-- A cached leaf (15 R313). -/
structure TlbEnt where
  asid : Nat
  pte : Word
  /-- First VA of the page, without bits [63:57]. -/
  base : Nat
  size : Nat
deriving DecidableEq, Repr

/-- A scratchpad frame that holds a page (11 R239). -/
structure Frame where
  page : PageRef
  pinned : Bool
  /-- Order of its last touch by the own core. -/
  touch : Nat
  /-- Dirty 64-byte lines of the 16 KiB. -/
  dirty : BitVec 256
deriving DecidableEq, Repr

/-- A trigger of the debug module (21 R367). -/
structure Trigger where
  execute : Bool
  load : Bool
  store : Bool
  user : Bool
  super : Bool
  addr : Word
deriving DecidableEq, Repr

/-- A Knarix trace message (21 R370): its kind and its payload in the order of the table. -/
structure TraceMsg where
  kind : Nat
  payload : List Nat
deriving DecidableEq, Repr

/-- The CSRs of a core that programs see beside its clock (01 R26, R28). -/
structure CoreCsrs where
  stvec : Word
  satp : Word
  kxrq : Word
  kxrsv : Bool
deriving DecidableEq, Repr

/-- Their values after a cold reset of the V die (01 R26). -/
def CoreCsrs.reset : CoreCsrs := { stvec := 0, satp := 0, kxrq := 4096, kxrsv := true }

/-- A physical core (01 R13, R26, R27, 11 R237, 21 R366). -/
structure PCore where
  /-- `stvec`, `satp`, `kxrq` and `kxrsv`. -/
  csrs : CoreCsrs
  slots : Tbl Slot
  sb : List SbEnt
  frames : Tbl Frame
  icache : Tbl Line
  ipins : List Nat
  /-- An `ic.inv` has reached the core: its fills no longer take an old copy of the quad level (09 R224). -/
  isync : Bool
  tlb : List TlbEnt
  /-- Package clock when the V die left reset. -/
  cycleBase : Nat
  /-- Which of two folded logical cores was served last (15 R320). -/
  served : Nat
  /-- Steal attempts made in the present round, or none (14 R292). -/
  stealTry : Option Nat
  stealPause : Bool
  stealNode : Nat
  fenced : Bool
  halted : Bool
  ebreaku : Bool
  ebreaks : Bool
  /-- Triggers 0 to 3 of the debug module. -/
  triggers : Tbl Trigger
  /-- The selected trigger, the selected hart and the data registers of the debug module (log 16). -/
  tselect : Nat
  dmSel : Nat
  dmData : Word
  /-- cmderr of the debug module and dcsr.cause. -/
  dmErr : Nat
  dcause : Nat
  traceOn : Bool
  trace : List TraceMsg
  /-- SEQ of the next deposit on the core (05 R114). -/
  seq : BitVec 32
  /-- The next sequence number of the ids that the core allocates (05 R103). -/
  tidSeq : Nat
  /-- The core fills no slot: a pre-emption or warm reset is in progress (15 R321). -/
  stopped : Bool
  /-- dcsr.step of the core's harts, and a resume under it (21 R366, log 16). -/
  dstep : Bool := false
  stepping : Bool := false
  /-- resumeack of the debug module. -/
  resumeAck : Bool := false
deriving DecidableEq, Repr

/-- A core after a cold reset of its V die (01 R26, R27). -/
def PCore.reset : PCore :=
  { slots := [], sb := [], frames := [], icache := [], ipins := [], isync := false, tlb := [], csrs := CoreCsrs.reset,
    cycleBase := 0, served := 0, stealTry := none, stealPause := false, stealNode := 0, fenced := false,
    halted := false, ebreaku := false, ebreaks := false, triggers := [], tselect := 0, dmSel := 0, dmData := 0,
    dmErr := 0, dcause := 0, traceOn := false, trace := [], seq := 0, tidSeq := 0, stopped := false }

/-! ## Barriers and weighbridges -/

/-- A barrier object (06 R133). -/
structure Barrier where
  exp : Nat
  arr : Nat
  bexp : Nat
  bcnt : Nat
  phase : Bool
  cen : Bool
  /-- Linked channels: logical core and channel. -/
  wblink : List (Nat × Nat)
  err : Nat
  lerr : Nat
  /-- The phase last completed counted bytes (06 R137). -/
  counted : Bool
  /-- A weighbridge holds the phase (09 R217). -/
  wbHeld : Bool
deriving DecidableEq, Repr

/-- A barrier object after reset: disabled, phase 0 (06 R133). -/
def Barrier.reset : Barrier :=
  { exp := 0, arr := 0, bexp := 0, bcnt := 0, phase := false, cen := false, wblink := [], err := 0, lerr := 0,
    counted := false, wbHeld := false }

/-- A core's copy of an object's PHASE and enabled state (06 R394). -/
structure BarCopy where
  phase : Bool
  enabled : Bool
deriving DecidableEq, Repr

/-- A weighbridge channel (03 R72, 09 R213, R218). -/
structure Weigh where
  /-- The object it is linked to. -/
  link : Option BarRef
  base : Nat
  len : Nat
  foff : Nat
  stride : Nat
  fmt : Nat
  mode : Bool
  ref : Word
  bound : Word
  /-- The integer N of N / 2^96. -/
  acc : Int
  flush : Nat
  ovf : Bool
  torn : Bool
  hold : Bool
  event : Bool
  lastt : Word
  compares : Nat
deriving DecidableEq, Repr

/-- A channel unlinked and cleared (17 R338). -/
def Weigh.reset : Weigh :=
  { link := none, base := 0, len := 0, foff := 0, stride := 0, fmt := 0, mode := false, ref := 0, bound := 0, acc := 0,
    flush := 0, ovf := false, torn := false, hold := false, event := false, lastt := 0, compares := 0 }

/-! ## Logical cores -/

/-- What waits in the pending S-mode queue: a task to start (14 R294). -/
abbrev Pending := Nat

/-- A logical core (05 R110 to R116, 14 R290, 06 R394). -/
structure LCore where
  /-- The physical core it runs on. -/
  phys : Nat
  silob : Word
  silol : Word
  recs : List Rec
  /-- Context blocks and stream contexts in the silo: address and size. -/
  blocks : List (Nat × Nat)
  /-- Ready records by id, head first. -/
  ready : List Nat
  pendS : List Pending
  /-- Task keys, topmost first. -/
  deque : List Nat
  copies : Tbl BarCopy
  bars : Tbl Barrier
  wb : Tbl Weigh
  /-- Results of rounds delivered and not yet taken (19 R361). -/
  results : List RedResult
  /-- The core CSRs that it brought with it when it folded onto another's core; none: those of its physical core (15 R322). -/
  own : Option CoreCsrs
deriving DecidableEq, Repr

/-- A logical core whose physical core has the reset values of `kxsilob` and `kxsilol` (01 R26). -/
def LCore.reset (phys : Nat) : LCore :=
  { phys := phys, silob := 0, silol := 0x100000, recs := [], blocks := [], ready := [], pendS := [], deque := [],
    copies := [], bars := [], wb := [], results := [], own := none }

/-! ## Quads -/

/-- The physical part of a quad: caches, write path, sticky registers (11 R247, 21 R372, R376). -/
structure PQuad where
  l1 : Tbl Line
  icache : Tbl Line
  ipins : List Nat
  tlb : List TlbEnt
  path : List PathEnt
  engerr : Word
  cpyerr : Word
  cendiv : Word
  censeq : Word
  /-- The logical quad whose command the engine started last (15 R320). -/
  engLast : Nat
deriving DecidableEq, Repr

/-- A quad after a cold reset. -/
def PQuad.reset : PQuad :=
  { l1 := [], icache := [], ipins := [], tlb := [], path := [], engerr := 0, cpyerr := 0, cendiv := 0, censeq := 0, engLast := 0 }

/-- A guard slot (01 R23). -/
inductive Guard where
  | unresolved
  | resolved (b : Bool)
deriving DecidableEq, Repr

/-- The four census counters of a site (03 R71). -/
structure Census where
  nan : Nat
  inf : Nat
  sat : Nat
  under : Nat
deriving DecidableEq, Repr

/-- No events. -/
def Census.zero : Census := { nan := 0, inf := 0, sat := 0, under := 0 }

/-- How far a tile command has come; a part of a group command that has read its operands waits as `voted`, and does not run yet: its parts run together (08
R172, R196). -/
inductive CmdState where
  | queued | resolved | forwarded | started | voted
deriving DecidableEq, Repr

/-- A tile command in an engine queue (08 R175, R182, R184). -/
structure Cmd where
  id : Nat
  w : Cmd256
  frm : BitVec 3
  scl : Word
  sscl : Word
  satp : Word
  task : Nat
  /-- The issuing logical core. -/
  lc : Nat
  launch : Nat
  smode : Bool
  st : CmdState
  /-- ERR of a tile fault, 0 for none. -/
  err : Nat
  /-- A guard discarded it (08 R193). -/
  dropped : Bool
  /-- The group member (gr, gc) that this part handles, and the command it is part of. -/
  part : Option (Nat × Nat × CmdRef)
  /-- Parts of a group command still running. -/
  parts : Nat
  /-- Its drain's writes by virtual address, for the weighbridges (09 R214). -/
  seen : List (List (Nat × Byte))
  /-- Its events, by the counters of the site (03 R71). -/
  cen : Census
  /-- Releases with smaller numbers precede it (08 R194). -/
  after : Nat
  /-- The operand lines that it has read, by core and offset; none where the read is a fault (08 R194, R196, 12 R265). -/
  cap : Tbl (Option Line) := []
  /-- Its events go into the counters: no `cen.mode` has been issued since it started (09 R220). -/
  counts : Bool := true
deriving DecidableEq, Repr

/-- A descriptor in a copy queue (09 R200, R203). -/
structure Copy where
  id : Nat
  d : Cmd256
  satp : Word
  task : Nat
  lc : Nat
  launch : Nat
  smode : Bool
  started : Bool
  /-- Row and byte within the row of the next piece. -/
  row : Nat
  pos : Nat
  err : Nat
  /-- What it has written: by virtual address, a row at a time, and by place (09 R214, R233). -/
  seen : List (List (Nat × Byte))
  cells : List (Nat × Byte)
  /-- Releases with smaller numbers precede it (09 R205). -/
  after : Nat
  /-- Pieces that are on their way to their homes, or not acknowledged (18 R343). -/
  flying : Nat := 0
deriving DecidableEq, Repr

/-- The logical part of a quad: guards, barrier objects, engine context and queues (08 R170, 15 R320). -/
structure LQuad where
  /-- The physical quad that hosts it. -/
  phys : Nat
  guards : Tbl Guard
  /-- The guard writes of the cycle `guardAt`, each with the logical core that made it; the queue sees them in the cycle after (05 R118). -/
  guardNew : Tbl (Guard × Nat)
  guardAt : Nat
  bars : Tbl Barrier
  queue : List Cmd
  /-- Commands held with records at wait kind 9, with the record, in the order accepted (08 R176). -/
  heldCmds : List (Cmd × RecRef)
  copies : List Copy
  heldCopies : List (Copy × RecRef)
  /-- ACS elements by 256 x row + column. -/
  acs : Tbl (BitVec 32)
  rowsum : Tbl (BitVec 32)
  colsum : Tbl (BitVec 32)
  /-- The group register: the four nodes of the block by position, and the own column and row (08 R183). -/
  group : Option (List Nat × Nat × Nat)
  census : Tbl Census
  cenMode : Nat
  cenTrap : Bool
  cenBuf : Word
  /-- What `cen.buf` captured: `satp`, the issuer's logical core, launch and mode (21 R374). -/
  cenSatp : Word
  cenLc : Nat
  cenLaunch : Nat
  cenSmode : Bool
  cenPos : Nat
  cenSeq : Nat
  /-- The first divergence has been found (21 R376, R377). -/
  diverged : Bool
deriving DecidableEq, Repr

/-- A logical quad as a partition receives it (08 R171, 01 R23). -/
def LQuad.reset (phys : Nat) : LQuad :=
  { phys := phys, guards := [], guardNew := [], guardAt := 0, bars := [], queue := [], heldCmds := [], copies := [], heldCopies := [], acs := [],
    rowsum := [], colsum := [], group := none, census := [], cenMode := 0, cenTrap := false, cenBuf := 0, cenSatp := 0,
    cenLc := 0, cenLaunch := 0, cenSmode := true, cenPos := 0, cenSeq := 0, diverged := false }

/-! ## Nodes -/

/-- NODESTATE.STATE (17 R341). -/
inductive NodeState where
  | dark | clocked | linked | configured | tested | ready | admitted | quiescing | resetting | fenced | harvested
deriving DecidableEq, Repr

/-- A round open at a tree node (19 R361). -/
structure Round where
  tree : Nat
  tag : Nat
  dtype : Nat
  redop : Nat
  /-- Inputs by position: 0 to 15 local, 16 + child index a child. -/
  got : Tbl (List VReg × Word)
  bad : Bool
  /-- It holds one of the 8 combining buffers (19 R364). -/
  buffered : Bool
  /-- Its partial has been sent, or its inputs handed to gleaners. -/
  sent : Bool
  /-- Its TIMEOUT has passed, so that it no longer counts against the rounds of the node (19 R361). -/
  timed : Bool := false
  /-- Its result has come down before its own partial was sent (20 R364). -/
  given : Bool := false
deriving DecidableEq, Repr

/-- A glean job: the vectors still to hand out and the vectors answered (19 R362). -/
structure Glean where
  tree : Nat
  tag : Nat
  dtype : Nat
  redop : Nat
  /-- The node whose inputs these are. -/
  node : Nat
  /-- The input that the answer stands for: 16 + child index; 32 the node's own partial at the root; 33 none any more. -/
  pos : Nat
  out : List VReg
  /-- The task that reads the job, once taken. -/
  reader : Option Nat
  back : List VReg
  /-- The mask and the mismatch mark that the inputs carry (19 R363, R395). -/
  miss : Word
  bad : Bool
deriving DecidableEq, Repr

/-- The state of a link: ACTIVE, PHYRETRAIN, TRAINERROR, and L1 for one that has been quiesced (17 R325, R327). -/
inductive LinkState where
  | active | retrain | failed | l1
deriving DecidableEq, Repr

/-- The physical part of a node (17 R329 to R341, 14 R287, R288, 19 R346, R360). -/
structure PNode where
  st : NodeState
  fcode : Nat
  up : Nat
  harvest : Word
  l2dir : Nat
  nst : Tbl (BitVec 32)
  egress : Tbl (BitVec 32)
  /-- Governor control register 0x0200. -/
  gov : Word
  /-- LOW and HIGH of each ring, as the register's bits [31:0]. -/
  govRing : Tbl (BitVec 32)
  /-- Stage mask of each physical core. -/
  masks : Tbl Byte
  /-- Stage rings: task keys in placement order. -/
  rings : Tbl (List Nat)
  collpp : Nat
  /-- TREE words by 2 t and 2 t + 1. -/
  trees : Tbl Word
  rounds : List Round
  gleans : List Glean
  /-- Rounds delivered whose window has not ended: tree and tag. -/
  discard : List (Nat × Nat)
  links : Tbl LinkState
  /-- Replays in a row without progress, by link. -/
  replays : Tbl Nat
  /-- The links of the S die to the node's V die and M die (17 R325, R336). -/
  vLink : LinkState
  mLink : LinkState
deriving DecidableEq, Repr

/-- The bits of HARVEST of node `n` that are not reserved; link bits only toward a node of the mesh (17 R335). -/
def harvestMask (n : Nat) : Word :=
  let d := (if 16 ≤ n then 1 else 0) + (if n % 16 ≠ 15 then 2 else 0) + (if n < 240 then 4 else 0) + (if n % 16 ≠ 0 then 8 else 0)
  word (0x770F + d * 0x11100000)

/-- Node `n` after a cold reset (17 R340, 14 R288, 19 R360). -/
def PNode.cold (n : Nat) : PNode :=
  { st := if field (Config.harvestMap n) 0 1 = 1 then .harvested else .dark, fcode := 0, up := 0xFF,
    harvest := Config.harvestMap n &&& harvestMask n, l2dir := 0, nst := [], egress := [], gov := 0x000A0000, govRing := [], masks := [],
    rings := [], collpp := Config.collPort n % 144, trees := [], rounds := [], gleans := [], discard := [], links := [],
    replays := [], vLink := .retrain, mLink := .retrain }

/-- The logical part of a node: barrier objects, dispatcher, range matcher (14 R278, R282). -/
structure LNode where
  phys : Nat
  bars : Tbl Barrier
  inbox : List Inb
  /-- Tasks that hold a range entry with their ranges, in submission order. -/
  ranged : List (Nat × List (Nat × Nat))
  /-- Those that wait for a conflicting predecessor (14 R282). -/
  blocked : List Nat
  /-- What waits for room in `inbox`, in order. -/
  waiters : List InbWait
  /-- Tasks that hold their keys and wait to be placed, the first behind a full stage ring (14 R287). -/
  placing : List Nat
deriving DecidableEq, Repr

/-! ## Partitions, launches, tasks -/

/-- One key of the key table (14 R284). -/
structure KeyEnt where
  /-- Holders: task and shared. -/
  holders : List (Nat × Bool)
  fifo : List (Nat × Bool)
deriving DecidableEq, Repr

/-- A partition (22 R382, 15 R315). -/
structure Part where
  /-- Physical node of each logical node, in ascending id. -/
  nodes : List Nat
  pkgCount : Nat
  podCount : Nat
  dir : Nat
  errRing : Word
  errCount : Nat
  errOvf : Bool
  chain : Word
  standing : Nat
  silo : Nat
  pkgBars : Tbl Barrier
  podBars : Tbl Barrier
  keys : Tbl KeyEnt
  nextLaunch : Nat
  /-- The `.scratch` image of the program that the loader placed: the bytes from offset 0, 0 where none is listed (02 R43, 11 R239). -/
  image : Tbl Byte
  /-- The `satp` value whose tables give the place of the error ring: a free value at creation (15 R315, log 11). -/
  errSatp : Word := 0
deriving DecidableEq, Repr

/-- A live launch (05 R106, 11 R239, 14 R296). -/
structure Launch where
  count : Nat
  first : Nat
  ncores : Nat
  ordered : Bool
  /-- Next index whose first instruction may issue. -/
  turn : Nat
  /-- The cycle in which the last first instruction issued. -/
  turnAt : Nat
  /-- Runs of 4 KiB window pages: first page of the window space, physical address, length. -/
  runs : List (Nat × Nat × Nat)
deriving DecidableEq, Repr

/-- A stream register's binding (06 R143, R145). -/
structure Stream where
  desc : Word
  kind : Nat
  esize : Nat
  ndim : Nat
  base : Word
  /-- Counts of the dimensions. -/
  cnt : List Nat
  /-- Strides of the dimensions, in elements. -/
  str : List Int
  peer : Nat
  tag : Nat
  pos : Nat
  /-- Direction a walk took: true for pop. -/
  dir : Option Bool
deriving DecidableEq, Repr

/-- A task (05 R105, R115, 01 R26, R29 to R31, 14 R297). -/
structure Task where
  tid : Nat
  part : Nat
  /-- kxlid. -/
  lcore : Nat
  launch : Nat
  idx : Word
  icnt : Word
  entry : Word
  smode : Bool
  args : List Word
  fmt : Word
  scl : Word
  sscl : Word
  eod : BitVec 32
  streams : Tbl Stream
  /-- Addresses of the context block and of the stream context in the silo. -/
  ctx : Option Nat
  sctx : Option Nat
  join : Word
  /-- Keys still to be requested, ascending identity, with their shared mark. -/
  want : List (Nat × Bool)
  held : List (Nat × Bool)
  /-- Read range, write range, read range: base and length. -/
  ranges : List (Nat × Nat)
  origin : Option Nat
  /-- Nesting of trap handlers (15 R305). -/
  depth : Nat
  pinned : Bool
  prio : Nat
  stage : Nat
  target : Nat
  /-- The submitter's logical core, for placement (14 R285). -/
  from_ : Option Nat
  /-- The logical core whose release its start acquires, when that is known to the core that starts it (14 R295). -/
  maker : Option Nat
  /-- The logical node whose dispatcher took it. -/
  disp : Nat
  /-- Its place in submission order (14 R285). -/
  sub : Nat := 0
deriving DecidableEq, Repr

/-! ## Homes -/

/-- An armed monitor (06 R129). -/
structure Monitor where
  pa : Nat
  value : Word
  ne : Bool
  r : RecRef
  /-- The value that satisfied it, while the quad's write path holds the reply (11 R247). -/
  fired : Option Word
deriving DecidableEq, Repr

/-- A reserved line, its holder and the requests behind it (06 R139, R142). -/
structure LineResv where
  pa : Nat
  /-- The holding task; 0 while the head of the queue is being served. -/
  holder : Nat
  queue : List Instr
deriving DecidableEq, Repr

/-- A mailbox binding (09 R232). -/
structure Binding where
  pa : Nat
  va : Word
  body : BitVec 1024
  /-- Partition of the binder. -/
  part : Nat
  smode : Bool
deriving DecidableEq, Repr

/-- An uncorrectable line (15 R316, R318). -/
inductive LineMark where
  | repair | poisoned
deriving DecidableEq, Repr

/-- A channel between two streams (06 R146, R149). -/
structure Chan where
  ref : ChanRef
  /-- The in stream is bound: its task, stream number and ring capacity. -/
  inEnd : Option (Nat × Nat × Nat)
  outBound : Bool
  /-- Element sizes of the two ends, 0 while unbound. -/
  inSize : Nat
  outSize : Nat
  /-- Credits the producer holds. -/
  credits : Nat
  /-- Elements in the ring, and the ring positions of the first one. -/
  inRing : Nat
  head : Nat
  closed : Bool
  /-- The consumer closed its end of a channel whose producer is still bound. -/
  inClosed : Bool
  /-- The origin of the producer's task (14 R297). -/
  origin : Option Nat := none
deriving DecidableEq, Repr

/-! ## Collectives -/

/-- A port processor (19 R345, R347). -/
structure PortProc where
  fifo : List CollPost
  /-- Sequence number of the next post; the first is 1 (log 17). -/
  seq : Nat
  /-- Firmware waits to load it (19 R347). -/
  loading : Bool
deriving DecidableEq, Repr

/-- A collective whose members are posting or running (19 R353). -/
structure Coll where
  id : Nat
  /-- Group entries in rank order. -/
  group : List Nat
  tag : Word
  /-- Posts by rank. -/
  posts : Tbl CollPost
  /-- Ranks whose released, ready and done event has fired. -/
  released : List Nat
  readied : List Nat
  done : List Nat
  err : Nat
  /-- What has been read of each member's input, and what is still to be written to its RECV. -/
  data : Tbl (List Byte)
  out : Tbl (List Byte)
deriving DecidableEq, Repr

/-! ## Host dies and firmware -/

/-- STATE of a submission queue (14 R274). -/
inductive QState where
  | active | stopped | killed | destroyed
deriving DecidableEq, Repr

/-- A submission queue (14 R274 to R281, R297). -/
structure HQueue where
  fn : Nat
  part : Nat
  home : Nat
  prio : Nat
  log2n : Nat
  ring : Nat
  sq : Bool
  tail : BitVec 32
  head : BitVec 32
  ovr : Bool
  st : QState
  lastService : Nat
  workSince : Nat
  port : Option Nat
  t1 : Nat
  t2 : Nat
  t3 : Nat
  /-- The clock stands above T1. -/
  aboveT1 : Bool
  /-- The slots that credits of killed children of the origin reserve: core, slot and child (14 R298). -/
  reserved : List (Nat × Nat × Nat) := []
deriving DecidableEq, Repr

/-- A host die: arbiter, mailbox, aperture (14 R279, 22 R379, R381). -/
structure Die where
  /-- Port last granted at each priority level. -/
  last : Tbl Nat
  /-- Ageing interval in us. -/
  ageing : Nat
  seq : BitVec 32
  opcode : BitVec 16
  req : Tbl Word
  rsp : Tbl Word
  stat : Word
  apbase : Word
  /-- The command that runs or waits: its opcode, its tag and its request as they stood at the doorbell (22 R379). -/
  cmd : Nat
  cmdSeq : Nat
  args : Tbl Word
  /-- The old values that the function's AtomicOps have brought back, oldest first (22 R378). -/
  atomics : List Word := []
deriving DecidableEq, Repr

/-- A host die after a cold reset. -/
def Die.reset : Die :=
  { last := [], ageing := 50, seq := 0, opcode := 0, req := [], rsp := [], stat := 0, apbase := 0, cmd := 0, cmdSeq := 0, args := [] }

/-- An entry of the firmware log (22 R386). -/
structure LogEnt where
  time : Nat
  kind : Nat
  node : Nat
  /-- Which free value its detail bytes are. -/
  detail : Nat
  /-- The silo address of a silo fault (05 R117). -/
  addr : Option Word := none
deriving DecidableEq, Repr

/-- The package's firmware and power state (22 R383 to R391, 21 R371). -/
structure Firmware where
  /-- Accepted features, bit f. -/
  features : BitVec 128
  negotiated : Bool
  mrom : BitVec 512
  mcfg : BitVec 512
  mharv : BitVec 512
  mpart : BitVec 512
  log : List LogEnt
  pkgCap : Nat
  regCap : Nat
  steps : Tbl Nat
  amps : Tbl Nat
  stallBase : Word
  stallRing : Nat
  stallEvery : Nat
  stallNum : Nat
  /-- Bring-up has failed (17 R342). -/
  failed : Bool
  /-- Nodes taken to READY by bring-up, ascending: the nodes in service (11 R246). -/
  service : List Nat
  /-- Functions whose PREEMPT or RESET_COMPUTE is under way (22 R380). -/
  ongoing : List Nat
  /-- Functions whose command the command processor has yet to carry out, oldest first (22 R379). -/
  pending : List Nat
  /-- The `satp` value whose tables give the place of the stall map: a free value at SET_STALL_MAP (21 R371, log 20). -/
  stallSatp : Word := 0
  /-- For each power region, the sixteenths of rotations lost to its throttle, up to the rotation in `since` (22 R389). -/
  lost : Tbl Nat := []
  since : Tbl Nat := []
  /-- Firmware has set up the trace rings (21 R370). -/
  tracing : Bool := false
deriving DecidableEq, Repr

/-- Firmware state after a cold reset (22 R384, R390, 21 R371). -/
def Firmware.reset : Firmware :=
  { features := 0, negotiated := false, mrom := extend 0 Config.romDigest, mcfg := 0, mharv := 0, mpart := 0, log := [],
    pkgCap := 25000, regCap := 1000, steps := [], amps := [], stallBase := 0, stallRing := 0, stallEvery := 10,
    stallNum := 0, failed := false, service := [], ongoing := [], pending := [] }

/-! ## The machine -/

/-- The state of the W9. -/
structure State where
  mem : Tbl Byte
  tasks : Tbl Task
  pcores : Tbl PCore
  lcores : Tbl LCore
  pquads : Tbl PQuad
  lquads : Tbl LQuad
  pnodes : Tbl PNode
  lnodes : Tbl LNode
  parts : Tbl Part
  launches : Tbl Launch
  monitors : List Monitor
  resvs : List LineResv
  binds : List Binding
  marks : Tbl LineMark
  /-- Requests parked in the homes' fault queues: line and request (06 R127, 15 R316). -/
  parked : List (Nat × Instr)
  chans : List Chan
  pps : Tbl PortProc
  colls : List Coll
  queues : Tbl HQueue
  /-- BAR 2 ring bytes by function x 2^30 + offset. -/
  bar2 : Tbl Byte
  dies : Tbl Die
  fw : Firmware
  clock : Nat
  /-- The core and slot whose turn it is. -/
  turn : Nat × Nat
  /-- Steps of the other agents that are due, oldest first. -/
  agenda : List Instr
  /-- Free values drawn so far. -/
  free : Nat
  /-- Next identity of a record, a command or a collective. -/
  nextId : Nat
deriving DecidableEq, Repr

/-- The machine right after a cold reset: no partition, no task, every node dark, and the clock of the two nodes that the host
dies feed about to lock (17 R340 to R342). -/
def State.reset : State :=
  { mem := [], tasks := [], pcores := [], lcores := [], pquads := [], lquads := [], pnodes := [], lnodes := [], parts := [],
    launches := [], monitors := [], resvs := [], binds := [], marks := [], parked := [], chans := [], pps := [], colls := [],
    queues := [], bar2 := [], dies := [], fw := Firmware.reset, clock := 0, turn := (0, 0),
    agenda := [.clockLock 64 0xFF, .clockLock 176 0xFF], free := 0, nextId := 1 }

/-- What a meaning and a step answer. -/
abbrev Outcome := Host.Outcome State Fault Refusal

end Sys2Proof.Machine
end

