-- ==== Sys2Proof/Machine/Base.lean ====
section
/-!
DEFINITION. The named operations over registers, tables and memory that every meaning uses: reading and replacing one object of
the state, the byte-by-byte view of memory, the agenda, and free values.
-/
namespace Sys2Proof.Machine

/-! ## Blank objects, read where a table lists nothing -/

/-- A task that is not there. -/
def Task.blank : Task :=
  { tid := 0, part := 0, lcore := 0, launch := 0, idx := 0, icnt := 1, entry := 0, smode := false, args := [], fmt := 0, scl := 0,
    sscl := 0, eod := 0, streams := [], ctx := none, sctx := none, join := 0, want := [], held := [], ranges := [],
    origin := none, depth := 0, pinned := false, prio := 0, stage := 0, target := 0xFFFF, from_ := none, maker := none, disp := 0 }

/-- A partition that is not there. -/
def Part.blank : Part :=
  { nodes := [], pkgCount := 0, podCount := 0, dir := 0, errRing := 0, errCount := 0, errOvf := false, chain := 0, standing := 0,
    silo := 0, pkgBars := [], podBars := [], keys := [], nextLaunch := 1, image := [] }

/-- A launch that is not there. -/
def Launch.blank : Launch := { count := 0, first := 0, ncores := 0, ordered := false, turn := 0, turnAt := 0, runs := [] }

/-- A logical node of which nothing is known. -/
def LNode.reset (phys : Nat) : LNode := { phys := phys, bars := [], inbox := [], ranged := [], blocked := [], waiters := [], placing := [] }

/-- A queue page that no CREATE_QUEUE has filled: every word reads 0 (14 R274). -/
def HQueue.blank : HQueue :=
  { fn := 0, part := 0, home := 0, prio := 0, log2n := 0, ring := 0, sq := false, tail := 0, head := 0, ovr := false,
    st := .active, lastService := 0, workSince := 0, port := none, t1 := 1000000, t2 := 2000000, t3 := 3000000,
    aboveT1 := false }

/-- A port processor with an empty FIFO. -/
def PortProc.blank : PortProc := { fifo := [], seq := 1, loading := false }

/-! ## Reading and replacing one object -/

namespace State

/-- Physical core `c`. -/
def pcore (s : State) (c : Nat) : PCore := s.pcores.get PCore.reset c
/-- Logical core `l`. -/
def lcore (s : State) (l : Nat) : LCore := s.lcores.get (LCore.reset 0) l
/-- Physical quad `q`. -/
def pquad (s : State) (q : Nat) : PQuad := s.pquads.get PQuad.reset q
/-- Logical quad `q`. -/
def lquad (s : State) (q : Nat) : LQuad := s.lquads.get (LQuad.reset 0) q
/-- Physical node `n`. -/
def pnode (s : State) (n : Nat) : PNode := s.pnodes.get (PNode.cold n) n
/-- Logical node `n`. -/
def lnode (s : State) (n : Nat) : LNode := s.lnodes.get (LNode.reset 0) n
/-- Partition `p`. -/
def partOf (s : State) (p : Nat) : Part := s.parts.get Part.blank p
/-- Task `k`. -/
def task (s : State) (k : Nat) : Task := s.tasks.get Task.blank k
/-- Launch `k`. -/
def launch (s : State) (k : Nat) : Launch := s.launches.get Launch.blank k
/-- Queue `q`. -/
def queue (s : State) (q : Nat) : HQueue := s.queues.get HQueue.blank q
/-- Host die `d`. -/
def die (s : State) (d : Nat) : Die := s.dies.get Die.reset d

/-- Port processor `p`. -/
def portProc (s : State) (p : Nat) : PortProc := s.pps.get PortProc.blank p

/-- Replace physical core `c`. -/
def setPcore (s : State) (c : Nat) (v : PCore) : State := { s with pcores := s.pcores.set c v }
/-- Replace logical core `l`. -/
def setLcore (s : State) (l : Nat) (v : LCore) : State := { s with lcores := s.lcores.set l v }
/-- Replace physical quad `q`. -/
def setPquad (s : State) (q : Nat) (v : PQuad) : State := { s with pquads := s.pquads.set q v }
/-- Replace logical quad `q`. -/
def setLquad (s : State) (q : Nat) (v : LQuad) : State := { s with lquads := s.lquads.set q v }
/-- Replace physical node `n`. -/
def setPnode (s : State) (n : Nat) (v : PNode) : State := { s with pnodes := s.pnodes.set n v }
/-- Replace logical node `n`. -/
def setLnode (s : State) (n : Nat) (v : LNode) : State := { s with lnodes := s.lnodes.set n v }
/-- Replace partition `p`. -/
def setPart (s : State) (p : Nat) (v : Part) : State := { s with parts := s.parts.set p v }
/-- Replace task `k`. -/
def setTask (s : State) (k : Nat) (v : Task) : State := { s with tasks := s.tasks.set k v }
/-- Replace launch `k`. -/
def setLaunch (s : State) (k : Nat) (v : Launch) : State := { s with launches := s.launches.set k v }
/-- Replace queue `q`. -/
def setQueue (s : State) (q : Nat) (v : HQueue) : State := { s with queues := s.queues.set q v }
/-- Replace host die `d`. -/
def setDie (s : State) (d : Nat) (v : Die) : State := { s with dies := s.dies.set d v }

/-- Change port processor `p`. -/
def modPp (s : State) (p : Nat) (f : PortProc → PortProc) : State := { s with pps := s.pps.set p (f (s.portProc p)) }

/-- Change physical core `c`. -/
def modPcore (s : State) (c : Nat) (f : PCore → PCore) : State := s.setPcore c (f (s.pcore c))
/-- Change logical core `l`. -/
def modLcore (s : State) (l : Nat) (f : LCore → LCore) : State := s.setLcore l (f (s.lcore l))
/-- Change physical quad `q`. -/
def modPquad (s : State) (q : Nat) (f : PQuad → PQuad) : State := s.setPquad q (f (s.pquad q))
/-- Change logical quad `q`. -/
def modLquad (s : State) (q : Nat) (f : LQuad → LQuad) : State := s.setLquad q (f (s.lquad q))
/-- Change physical node `n`. -/
def modPnode (s : State) (n : Nat) (f : PNode → PNode) : State := s.setPnode n (f (s.pnode n))
/-- Change logical node `n`. -/
def modLnode (s : State) (n : Nat) (f : LNode → LNode) : State := s.setLnode n (f (s.lnode n))
/-- Change partition `p`. -/
def modPart (s : State) (p : Nat) (f : Part → Part) : State := s.setPart p (f (s.partOf p))
/-- Change task `k` where it is live. -/
def modTask (s : State) (k : Nat) (f : Task → Task) : State :=
  match s.tasks.find k with
  | none => s
  | some t => s.setTask k (f t)
/-- Change launch `k`. -/
def modLaunch (s : State) (k : Nat) (f : Launch → Launch) : State := s.setLaunch k (f (s.launch k))
/-- Change queue `q`. -/
def modQueue (s : State) (q : Nat) (f : HQueue → HQueue) : State := s.setQueue q (f (s.queue q))
/-- Change host die `d`. -/
def modDie (s : State) (d : Nat) (f : Die → Die) : State := s.setDie d (f (s.die d))

/-! ## The agenda and free values -/

/-- Put a step of another agent at the tail of the agenda. -/
def push (s : State) (i : Instr) : State := { s with agenda := s.agenda ++ [i] }
/-- Put several steps at the tail of the agenda, in order. -/
def pushAll (s : State) (l : List Instr) : State := { s with agenda := s.agenda ++ l }
/-- A step that is not due yet stays where it was. -/
def putBack (s : State) (i : Instr) : State := { s with agenda := i :: s.agenda }
/-- Take steps off the agenda. -/
def drop (s : State) (p : Instr → Bool) : State := { s with agenda := s.agenda.filter (fun i => !p i) }
/-- The next free number. -/
def freeN (s : State) : Nat := Config.freeNat s.free
/-- The next free word. -/
def freeW (s : State) : Word := Config.freeWord s.free
/-- A free value has been drawn. -/
def drew (s : State) : State := { s with free := s.free + 1 }
/-- The next identity, for a record, a command or a collective. -/
def bumpId (s : State) : State := { s with nextId := s.nextId + 1 }

/-! ## Memory -/

/-- The byte at physical address `a`; a byte that nothing has written reads 0 (log 1). -/
def byteAt (s : State) (a : Nat) : Byte := s.mem.get 0 a
/-- Store one byte. -/
def putByte (s : State) (a : Nat) (b : Byte) : State := { s with mem := s.mem.put 0 a b }
/-- Store several bytes, in order. -/
def putCells (s : State) (l : List (Nat × Byte)) : State := { s with mem := l.foldl (fun m c => m.put 0 c.1 c.2) s.mem }

end State

/-- The canonical form of memory: addresses strictly rising, no entry equal to what an unlisted address reads as. -/
abbrev Memory.wf (m : Tbl Byte) : Bool := m.canon 0

/-- The number whose little-endian bytes these are (00 R4). -/
def ofBytes : List Byte → Nat
  | [] => 0
  | b :: t => b.toNat + 256 * ofBytes t

/-- The `n` low bytes of `v`, little-endian (00 R4). -/
def toBytes : Nat → Nat → List Byte
  | 0, _ => []
  | n + 1, v => BitVec.ofNat 8 v :: toBytes n (v / 256)

/-- Cells that store the `n` low bytes of `v` at `a`. -/
def cellsOf (a n v : Nat) : List (Nat × Byte) := (toBytes n v).mapIdx (fun i b => (a + i, b))

/-- The `n` bytes at `a`. -/
def State.bytesAt (s : State) (a n : Nat) : List Byte := (List.range n).map (fun i => s.byteAt (a + i))

/-- The `n` bytes at `a` as a little-endian number. -/
def State.readN (s : State) (a n : Nat) : Nat := ofBytes (s.bytesAt a n)

/-- Store the `n` low bytes of `v` at `a`. -/
def State.writeN (s : State) (a n v : Nat) : State := s.putCells (cellsOf a n v)

/-- The first byte of the 64-byte line of `a`. -/
abbrev lineOf (a : Nat) : Nat := a / 64 * 64

/-! ## Numbering (01 R9, R10, 15 R319) -/

/-- The logical core of a task. -/
def Task.lc (t : Task) : Nat := t.part * 4096 + t.lcore
/-- The key of a task id in a partition. -/
abbrev taskKey (part tid : Nat) : Nat := part * 4294967296 + tid
/-- The key of a launch id in a partition. -/
abbrev launchKey (part launch : Nat) : Nat := part * 65536 + launch
/-- The partition of a logical core. -/
abbrev partOfLc (lc : Nat) : Nat := lc / 4096
/-- The number of a logical core within its partition. -/
abbrev numOfLc (lc : Nat) : Nat := lc % 4096

namespace State

/-- The physical core that runs logical core `lc`. -/
def physOf (s : State) (lc : Nat) : Nat := (s.lcore lc).phys
/-- The logical cores that physical core `c` runs, ascending. -/
def hosted (s : State) (c : Nat) : List Nat := (s.lcores.filter (fun e => e.2.phys == c)).map (·.1)
/-- The core CSRs of logical core `lc` (01 R26, 15 R322). -/
def csrs (s : State) (lc : Nat) : CoreCsrs := (s.lcore lc).own.getD (s.pcore (s.physOf lc)).csrs
/-- Slot 7 is kept: a logical core of core `c` with `kxrsv` set has a pending S-mode task (01 R16). -/
def keeps (s : State) (c : Nat) : Bool := (s.hosted c).any (fun l => (s.csrs l).kxrsv && !(s.lcore l).pendS.isEmpty)
/-- The logical cores of partition `p`: 16 for each of its nodes. -/
def lcount (s : State) (p : Nat) : Nat := 16 * (s.partOf p).nodes.length
/-- The node of logical core `lc`. -/
def nodeOfLc (s : State) (lc : Nat) : Nat := s.physOf lc / 16
/-- The port processor of the package's 144 that node `n` posts to (19 R345, R346). -/
def portAt (s : State) (n : Nat) : Nat := (s.pnode n).collpp % 144
/-- The node is QUIESCING, RESETTING or FENCED (05 R99, 11 R242). -/
def nodeAway (s : State) (n : Nat) : Bool :=
  match (s.pnode n).st with
  | .quiescing | .resetting | .fenced => true
  | _ => false
/-- `time`: the package's 100 MHz count as node `n` reads it (01 R27). -/
def timeAt (s : State) (n : Nat) : Word := word (s.clock * 2 / 17 + Config.timeSkew n % 3)
/-- Microseconds since the cold reset. -/
def micros (s : State) : Nat := s.clock / 850
/-- Enter an event in the firmware log of 4,096 entries; the oldest is lost when it is full (22 R386);
its detail bytes are a free value. -/
def logWith (s : State) (kind node : Nat) (addr : Option Word) : State :=
  let l := s.fw.log ++ [{ time := (s.timeAt node).toNat, kind := kind, node := node, detail := s.free, addr := addr }]
  { s.drew with fw := { s.fw with log := l.drop (l.length - 4096) } }
/-- Enter an event that the spec gives no detail. -/
def logEvent (s : State) (kind node : Nat) : State := s.logWith kind node none
/-- A silo fault at address `a`, met by core `c` (05 R117). -/
def logSilo (s : State) (c : Nat) (a : Word) : State := s.logWith 7 (c / 16) (some a)
/-- Who a task is, for a write that outlives it. -/
def issuerOf (s : State) (k : Nat) : Option Issuer :=
  (s.tasks.find k).map (fun t => { lc := t.lc, launch := t.launch, smode := t.smode, origin := t.origin })
/-- `kxlcnt` of a task: FIRST + NCORES of its launch, whose cores are the logical cores below it, or the partition's logical cores for a task of no launch (01
R26, R31, 05 R106, log 54). -/
def coresOfTask (s : State) (part launch : Nat) : Nat :=
  let l := s.launch (launchKey part launch)
  if launch = 0 then s.lcount part else l.first + l.ncores

end State

/-! ## The registers of a thread (01 R21) -/

namespace Thread

/-- xn; x0 reads zero. -/
def getX (t : Thread) (r : Reg) : Word := if r = 0 then 0 else t.x.get 0 r.toNat
/-- Write xn; x0 ignores writes. -/
def setX (t : Thread) (r : Reg) (v : Word) : Thread := if r = 0 then t else { t with x := t.x.put 0 r.toNat v }
/-- vn. -/
def getV (t : Thread) (r : Reg) : VReg := t.v.get 0 r.toNat
/-- Write vn, which then counts as written (07 R153). -/
def setV (t : Thread) (r : Reg) (v : VReg) : Thread :=
  { t with v := t.v.put 0 r.toNat v, vw := t.vw ||| (1#32 <<< r.toNat) }
/-- pn; p0 reads all ones. -/
def getP (t : Thread) (n : Nat) : PReg := if n = 0 then BitVec.allOnes 128 else t.p.get 0 n
/-- Write pn; p0 ignores writes. -/
def setP (t : Thread) (n : Nat) (v : PReg) : Thread := if n = 0 then t else { t with p := t.p.put 0 n v }
/-- kxlmN. -/
def getLm (t : Thread) (n : Nat) : Word := t.lm.get (BitVec.allOnes 64) n
/-- Write kxlmN. -/
def setLm (t : Thread) (n : Nat) (v : Word) : Thread := { t with lm := t.lm.put (BitVec.allOnes 64) n v }
/-- Raise sticky flags (01 R26). -/
def flag (t : Thread) (f : BitVec 5) : Thread := { t with fflags := t.fflags ||| f }

end Thread

namespace State

/-- The slot of core `c`. -/
def slot (s : State) (c i : Nat) : Slot := (s.pcore c).slots.get Slot.empty i
/-- Replace a slot. -/
def setSlot (s : State) (c i : Nat) (v : Slot) : State := s.modPcore c (fun p => { p with slots := p.slots.set i v })
/-- Put a thread in a slot. -/
def putThread (s : State) (c i : Nat) (t : Thread) : State := s.setSlot c i { s.slot c i with thread := some t }
/-- Free a slot. -/
def freeSlot (s : State) (c i : Nat) : State := s.setSlot c i { s.slot c i with thread := none }
/-- The thread whose turn it is. -/
def cur (s : State) : Option Thread := (s.slot s.turn.1 s.turn.2).thread
/-- Put the thread whose turn it is back. -/
def putCur (s : State) (t : Thread) : State := s.putThread s.turn.1 s.turn.2 t

end State

/-! ## The program counter and the hardware loops (05 R108, R109) -/

/-- The address and loops after the instruction at `pc` has completed without a taken transfer: the loop-back rule of R108, loop
1 tested first, loop 0 only in the pass where loop 1 falls through. -/
def advance (pc : Word) (h0 h1 : HLoop) : Word × HLoop × HLoop :=
  if h1.remaining ≠ 0 ∧ pc = h1.stop ∧ h1.remaining.toNat > 1 then
    (h1.start, h0, { h1 with remaining := h1.remaining - 1 })
  else
    let h1' := if h1.remaining ≠ 0 ∧ pc = h1.stop then HLoop.off else h1
    if h0.remaining ≠ 0 ∧ pc = h0.stop then
      if h0.remaining.toNat > 1 then (h0.start, { h0 with remaining := h0.remaining - 1 }, h1')
      else (pc + 4, HLoop.off, h1')
    else (pc + 4, h0, h1')

/-- The loops after a taken transfer to `target` (05 R109): one that the target leaves ends, and leaving loop 0 ends loop 1. -/
def transferLoops (target : Word) (h0 h1 : HLoop) : HLoop × HLoop :=
  let inside := fun (h : HLoop) => h.remaining ≠ 0 ∧ h.start.toNat ≤ target.toNat ∧ target.toNat ≤ h.stop.toNat
  let h0' := if inside h0 then h0 else HLoop.off
  let h1' := if h0'.remaining ≠ 0 ∧ inside h1 then h1 else HLoop.off
  (h0', h1')

/-- The thread after its instruction has completed without a transfer. -/
def Thread.next (t : Thread) : Thread :=
  let r := advance t.pc t.hl0 t.hl1
  { t with pc := r.1, hl0 := r.2.1, hl1 := r.2.2 }

/-- The thread after a taken transfer to `target`. -/
def Thread.goto (t : Thread) (target : Word) : Thread :=
  let r := transferLoops target t.hl0 t.hl1
  { t with pc := target, hl0 := r.1, hl1 := r.2 }

/-- The thread in its slot has completed its instruction. -/
def State.retire (s : State) (t : Thread) : State := s.putCur t.next

end Sys2Proof.Machine
end

