-- ==== Sys2Proof/Machine/Translate.lean ====
section
/-!
DEFINITION. From a virtual address to a byte's home: the scratchpad apertures (11 R238), the scratchpad pages and their frames (11
R239, R240), the KX57 tables and the TLBs (15 R307 to R313), and the regions of the physical address space (11 R243).
-/
namespace Sys2Proof.Machine

/-- What an access does: its page fault is cause 12, 13 or 15 and its access fault cause 1, 5 or 7 (15 R311). -/
inductive Kind where
  | fetch | load | store
deriving DecidableEq, Repr

/-- The page-fault cause of an access. -/
def Kind.page : Kind → Nat
  | .fetch => 12 | .load => 13 | .store => 15

/-- The access-fault cause of an access. -/
def Kind.access : Kind → Nat
  | .fetch => 1 | .load => 5 | .store => 7

/-- The memory types of 11 R244, by PTE TYPE: 0 normal, 1 uncached, 2 write-combining, 3 device. -/
abbrev MemType := Nat

/-- Where a virtual address leads. -/
inductive Tr where
  /-- A physical address and its memory type. -/
  | mem (pa : Nat) (ty : MemType)
  /-- Byte `off` of a scratchpad page. -/
  | spad (p : PageRef) (off : Nat)
  /-- A fault. -/
  | bad (cause : Nat)
  /-- No TLB entry serves it. -/
  | miss
deriving DecidableEq, Repr

/-! ## Scratchpad -/

/-- The first address of the own window (11 R238). -/
abbrev ownBase : Nat := 0x0100000000000000
/-- The first address of the peer windows (11 R238). -/
abbrev peerBase : Nat := 0x0100000100000000
/-- The bytes of a window (01 R34). -/
abbrev windowSize : Nat := 0x200000
/-- The bytes of a scratchpad page and of a frame (01 R34). -/
abbrev pageSize : Nat := 16384

/-- The address lies in the scratchpad space, which no table translates (15 R307). -/
def inSpadSpace (va : Nat) : Bool := va / 2 ^ 56 == 1

/-- The page of offset `off` of the window of core `lc` for launch `l`. -/
def pageAt (lc l off : Nat) : PageRef := { lc := lc, launch := l, page := off / pageSize }

/-- The PA of byte `off` of frame `f` of physical core `c` (11 R243, region 5). -/
def frameAddr (c f off : Nat) : Nat := 5 * 2 ^ 48 + c / 16 * 2 ^ 40 + c % 16 * 2 ^ 36 + f * pageSize + off

/-- The frame that holds a page on its core, if the page is resident. -/
def State.frameOf (s : State) (p : PageRef) : Option Nat :=
  ((s.pcore (s.physOf p.lc)).frames.find? (fun e => e.2.page == p)).map (·.1)

/-- The PA that backs byte `off` of the window space of a launch: `runs` are runs of 4 KiB pages (11 R239). -/
def backRun (runs : List (Nat × Nat × Nat)) (off : Nat) : Option Nat :=
  match runs.find? (fun r => r.1 ≤ off / 4096 && off / 4096 < r.1 + r.2.2) with
  | none => none
  | some r => some (r.2.1 + (off - r.1 * 4096))

/-- The backing PA of byte `off` of a page: in the launch's backing, or in the partition's standing backing (11 R239). -/
def State.backing (s : State) (p : PageRef) (off : Nat) : Option Nat :=
  let o := numOfLc p.lc * windowSize + p.page * pageSize + off
  if p.launch = 0 then some ((s.partOf (partOfLc p.lc)).standing + o)
  else backRun (s.launch (launchKey (partOfLc p.lc) p.launch)).runs o

/-- The home of a byte of a page: the frame while the page is resident, else its backing line (11 R240). -/
def State.pageByte (s : State) (p : PageRef) (off : Nat) : Option Nat :=
  match s.frameOf p with
  | some f => some (frameAddr (s.physOf p.lc) f off)
  | none => s.backing p off

/-- The offset in the window of logical core `lc` of an address of either aperture (11 R238). -/
def windowOff (lc va : Nat) : Nat := if va < peerBase then va - ownBase else va - (peerBase + numOfLc lc * windowSize)

/-- Scratchpad translation for a task on logical core `lc` of launch `l` (11 R238). -/
def State.spadTr (s : State) (lc l : Nat) (k : Kind) (va : Nat) : Tr :=
  let own := va - ownBase
  if own < windowSize then
    if k = .fetch then .bad 1 else .spad (pageAt lc l own) (own % pageSize)
  else if peerBase ≤ va ∧ (va - peerBase) / windowSize < 65536 then
    let pl := (va - peerBase) / windowSize
    let off := (va - peerBase) % windowSize
    if k = .fetch then .bad 1
    else if s.coresOfTask (partOfLc lc) l ≤ pl then .bad k.access
    else
      let plc := partOfLc lc * 4096 + pl
      let pg := pageAt plc l off
      if (s.backing pg 0).isNone then .bad k.access
      else if plc ≠ lc ∧ s.nodeAway (s.nodeOfLc plc) then .bad 30
      else .spad pg (off % pageSize)
  else .bad k.page

/-! ## Regions (11 R243) -/

/-- The region of a PA. -/
abbrev regionOf (pa : Nat) : Nat := pa / 2 ^ 48

/-- The memory types that a region allows. -/
def typeOk (region ty : Nat) : Bool :=
  match region with
  | 0 => ty == 0 || ty == 1
  | 1 | 2 | 4 => ty ≤ 2
  | 3 => ty == 3
  | 5 => ty == 0
  | _ => false

/-- The node that a PA names, in regions 0, 3 (node blocks) and 5. -/
def nodeOfPa (pa : Nat) : Option Nat :=
  match regionOf pa with
  | 0 | 5 => some (field (BitVec.ofNat 52 pa) 40 8)
  | 3 => if field (BitVec.ofNat 52 pa) 44 4 = 0 then some (field (BitVec.ofNat 52 pa) 36 8) else none
  | _ => none

/-- An access to `pa` with memory type `ty` passes R243; `user`: its page has PTE bit U = 1. -/
def State.regionOk (s : State) (pa ty : Nat) (user : Bool) : Bool :=
  typeOk (regionOf pa) ty &&
  (match nodeOfPa pa with | some n => (s.pnode n).st != .harvested | none => true) &&
  (match regionOf pa with
   | 0 => pa % 2 ^ 40 < (s.pnode (pa / 2 ^ 40 % 256)).l2dir * 2 ^ 20
   | 1 => pa % 2 ^ 48 < 2304 * 2 ^ 30
   | 4 => s.fw.features.getLsbD 1 && decide (pa % 2 ^ 42 < 2304 * 2 ^ 30)
   | 5 => pa % 2 ^ 36 < 0x80000 && !user
   | _ => true)

/-! ## KX57 (15 R307 to R312) -/

/-- The leaf of a walk, or the fault it ends in (true: a page fault; false: an access fault). -/
abbrev WalkResult := Except Bool (TlbEnt × Nat)

/-- The page size of a leaf at `lvl` with CONT; none for BadCont (15 R310). -/
def leafSize (lvl cont : Nat) : Option Nat :=
  match lvl, cont with
  | 0, 0 => some 0x1000
  | 0, 1 => some 0x4000
  | 0, 2 => some 0x10000
  | 0, 3 => some 0x40000
  | 1, 0 => some 0x200000
  | 1, 2 => some 0x2000000
  | 2, 0 => some 0x40000000
  | _, _ => none

/-- The size of one leaf at `lvl`. -/
def stepSize (lvl : Nat) : Nat := if lvl = 0 then 0x1000 else if lvl = 1 then 0x200000 else 0x40000000

/-- Bits [56:0] of a VA. -/
abbrev va57 (va : Word) : Nat := va.toNat % 2 ^ 57

/-- A table entry may be read at `a`; a poisoned line gives the access fault of the access (15 R308, R318). -/
def State.pteReadable (s : State) (a : Nat) : Bool :=
  s.regionOk a 0 false && s.marks.find (lineOf a) != some .poisoned

/-- The places of the entries of the contiguous group of a leaf at `a` (15 R310). -/
def groupPas (a idx lvl size : Nat) : List Nat :=
  let n := size / stepSize lvl
  (List.range n).map (fun i => a - idx % n * 8 + 8 * i)

/-- The PPNs of the contiguous group of a leaf are consecutive and the first is aligned (15 R310). -/
def State.groupOk (s : State) (a idx lvl size : Nat) : Bool :=
  let n := size / stepSize lvl
  let first := a - idx % n * 8
  let ppn := fun i => field (word (s.readN (first + 8 * i) 8)) 10 44
  ppn 0 * 4096 % size == 0 && (List.range n).all (fun i => ppn i == ppn 0 + i * (stepSize lvl / 4096))

/-- The walk of 15 R308 from level `lvl` with the table at `a`. -/
def State.walkFrom (s : State) (asid : Nat) (va : Word) : Nat → Nat → WalkResult
  | lvl, a =>
    let idx := field va (12 + 9 * lvl) 9
    let pa := a + 8 * idx
    if !s.pteReadable pa then .error false
    else
      let pte := word (s.readN pa 8)
      if bits pte 0 1 = 0 ∨ (bits pte 2 1 = 1 ∧ bits pte 1 1 = 0) ∨ bits pte 57 7 ≠ 0 then .error true
      else if bits pte 1 1 = 0 ∧ bits pte 3 1 = 0 then
        match lvl with
        | 0 => .error true
        | l + 1 =>
          if bits pte 4 1 ≠ 0 ∨ bits pte 6 4 ≠ 0 then .error true
          else s.walkFrom asid va l (field pte 10 44 * 4096)
      else
        match leafSize lvl (field pte 8 2) with
        | none => .error true
        | some size =>
          if lvl > 2 ∨ field pte 54 3 > 3 ∨ bits pte 50 4 ≠ 0 then .error true
          else if field pte 10 40 * 4096 % stepSize lvl ≠ 0 then .error true
          else if size ≠ stepSize lvl ∧ (groupPas pa idx lvl size).any (fun a => s.marks.find (lineOf a) == some .poisoned) then .error false
          else if size ≠ stepSize lvl ∧ !s.groupOk pa idx lvl size then .error true
          else .ok ({ asid := asid, pte := pte, base := va57 va / size * size, size := size }, pa)

/-- The places of the entries that a walk from level `lvl` reads, in order. -/
def State.walkReads (s : State) (va : Word) : Nat → Nat → List Nat
  | lvl, a =>
    let pa := a + 8 * field va (12 + 9 * lvl) 9
    let pte := word (s.readN pa 8)
    pa :: (if bits pte 0 1 = 1 ∧ bits pte 1 3 = 0 then
      match lvl with
      | 0 => []
      | l + 1 => s.walkReads va l (field pte 10 44 * 4096)
    else match leafSize lvl (field pte 8 2) with
      | some size => if size = stepSize lvl then [] else groupPas pa (field va (12 + 9 * lvl) 9) lvl size
      | none => [])

/-- The places of the entries that the walk of a VA reads. -/
def State.tableReads (s : State) (satp va : Word) : List Nat := s.walkReads va 4 (field satp 0 44 * 4096)

/-- The walk of a VA through the tables of a `satp` value. -/
def State.walk (s : State) (satp va : Word) : WalkResult :=
  s.walkFrom (field satp 44 16) va 4 (field satp 0 44 * 4096)

/-- The PA that a leaf gives a VA. -/
def TlbEnt.pa (e : TlbEnt) (va : Word) : Nat := field e.pte 10 40 * 4096 / e.size * e.size + va57 va % e.size

/-- The permission checks of 15 R311. -/
def permOk (pte : Word) (k : Kind) (smode : Bool) : Bool :=
  (smode || bits pte 4 1 == 1) &&
  (match k with
   | .fetch => bits pte 3 1 == 1
   | .load => bits pte 1 1 == 1
   | .store => bits pte 2 1 == 1)

/-- A leaf serves an access: permissions (R311), then the region (R243). -/
def State.leafTr (s : State) (e : TlbEnt) (k : Kind) (smode : Bool) (va : Word) : Tr :=
  if !permOk e.pte k smode then .bad k.page
  else if !s.regionOk (e.pa va) (field e.pte 54 3) (bits e.pte 4 1 == 1) then .bad k.access
  else .mem (e.pa va) (field e.pte 54 3)

/-- A leaf has A, and D for a store (15 R312). -/
def adSet (pte : Word) (k : Kind) : Bool := bits pte 6 1 == 1 && (k != .store || bits pte 7 1 == 1)

/-- The entry of a TLB that serves an ASID and a VA. -/
def tlbFind (l : List TlbEnt) (asid : Nat) (va : Word) : Option TlbEnt :=
  l.find? (fun e => (e.asid == asid || bits e.pte 5 1 == 1) && e.base == va57 va / e.size * e.size)

/-- The MODE of a `satp` value is KX57. -/
abbrev kx57 (satp : Word) : Bool := field satp 60 4 == 14

/-- A VA in bare mode is a PA; bits [63:52] must be 0; the type is device in region 3 and normal elsewhere (15 R307). -/
def State.bareTr (s : State) (k : Kind) (va : Word) : Tr :=
  if va.toNat ≥ 2 ^ 52 then .bad k.access
  else
    let ty := if regionOf va.toNat = 3 then 3 else 0
    if s.regionOk va.toNat ty false then .mem va.toNat ty else .bad k.access

/-- Bits [63:57] are copies of bit 56 (15 R307). -/
def canonical (va : Word) : Bool := bits va 56 8 == 0 || bits va 56 8 == 0xFF

/-- An access from node `n` to a pod module that its egress table does not reach faults (17 R333); one to the scratchpads of another node
that is away gets an error reply (17 R336, R337). -/
def State.egressTr (s : State) (n : Nat) (k : Kind) (r : Tr) : Tr :=
  match r with
  | .mem pa ty =>
    if regionOf pa = 4 ∧ !((s.pnode n).egress.get 0 (pa % 2 ^ 48 / 2 ^ 42)).getLsbD 8 then .bad k.access
    else if regionOf pa = 5 ∧ pa / 2 ^ 40 % 256 ≠ n ∧ s.nodeAway (pa / 2 ^ 40 % 256) then .bad 30
    else .mem pa ty
  | r => r

/-! ## Homes (11 R246) and routes (17 R330, R333) -/

/-- H of 11 R246. -/
def homeHash (pa : Nat) : Nat :=
  let w := BitVec.ofNat 52 pa
  ((bits w 6 16) ^^^ (bits w 22 16) ^^^ ((bits w 38 10).setWidth 16)).toNat

/-- The physical node whose S die is the home of a line, or that holds the frame. -/
def State.homeNode (s : State) (pa : Nat) : Nat :=
  match nodeOfPa pa with
  | some n => n
  | none => s.fw.service.getD (homeHash pa % s.fw.service.length) 0

/-- The network-select table of node `a` marks node `b` unreachable. -/
def State.unreachable (s : State) (a b : Nat) : Bool := a != b && field ((s.pnode a).nst.get 0 b) 0 2 == 3

/-- The edge node of port die `d` (17 R333). -/
def edgeNode (d : Nat) : Nat :=
  if d < 12 then d + 2 else if d < 28 then 16 * (d - 12) + 15 else if d < 40 then 240 + (41 - d)
  else if d < 44 then 16 * (d - 40) else 16 * (d - 32)

/-- The host die of node `n`: at (0,4) for y up to 7, else at (0,11) (11 R243, 17 R333). -/
def hostDie (n : Nat) : Nat := if n / 16 ≤ 7 then 64 else 176

/-- The node to which a request for `pa` goes: the home S die of its line, the node of a register block, or the edge node of the die that has it
(11 R244, R246, 17 R333). -/
def State.destOf (s : State) (pa : Nat) : Nat :=
  if regionOf pa = 3 then
    match pa / 2 ^ 44 % 16 with
    | 1 => edgeNode (pa / 2 ^ 36 % 256)
    | 2 => if pa / 2 ^ 36 % 256 = 0 then 64 else 176
    | _ => s.homeNode pa
  else s.homeNode pa

/-- The edge node of the HBM stack that holds `pa` (11 R245, 17 R333). -/
def stackEdge (pa : Nat) : Nat := edgeNode (pa % 2 ^ 48 / 256 % 48)

/-- Where a home leaves the mesh for the backing of its line: the port die of the HBM stack, the host die, the Span port of the module (17 R333). -/
def State.wayOut (s : State) (pa : Nat) : Option Nat :=
  let n := s.homeNode pa
  match regionOf pa with
  | 1 => some (stackEdge pa)
  | 2 => some (hostDie n)
  | 4 => some (edgeNode (field ((s.pnode n).egress.get 0 (pa % 2 ^ 48 / 2 ^ 42)) 0 6))
  | _ => none

/-- A table marks unreachable the node to which a request of node `n` for `pa` goes, or its home's way to the backing (17 R330, R333). -/
def State.noRoute (s : State) (n pa : Nat) : Bool :=
  s.unreachable n (s.destOf pa) || (s.wayOut pa).any (s.unreachable (s.homeNode pa))

/-- Translate through the entries `tlb`; an access that only the A or D bit holds back is a miss (15 R312, R313). -/
def State.translate (s : State) (lc l : Nat) (smode : Bool) (satp : Word) (tlb : List TlbEnt) (k : Kind) (va : Word) : Tr :=
  if inSpadSpace va.toNat then s.spadTr lc l k va.toNat
  else if !kx57 satp then s.egressTr (s.nodeOfLc lc) k (s.bareTr k va)
  else if !canonical va then .bad k.page
  else
    match tlbFind tlb (field satp 44 16) va with
    | none => .miss
    | some e =>
      match s.egressTr (s.nodeOfLc lc) k (s.leafTr e k smode va) with
      | .mem pa ty => if adSet e.pte k then .mem pa ty else .miss
      | r => r

/-- The translation of an access of a thread. -/
def State.threadTr (s : State) (t : Thread) (k : Kind) (va : Word) : Tr :=
  let tk := s.task t.task
  let c := s.physOf tk.lc
  s.translate tk.lc tk.launch t.smode (s.csrs tk.lc).satp (s.pcore c).tlb k va

/-- Keep at most `n` entries, newest first; the entry that leaves a full TLB is a free choice (log 7). -/
def tlbAdd (n pick : Nat) (l : List TlbEnt) (e : TlbEnt) : List TlbEnt :=
  let l' := l.filter (fun o => !(o.asid == e.asid && o.base == e.base && o.size == e.size))
  e :: (if n ≤ l'.length then l'.eraseIdx (pick % n) else l')

/-- Cache a leaf in the L1 TLB of core `c` and in the TLB of its quad (15 R313). -/
def State.cacheLeaf (s : State) (c : Nat) (e : TlbEnt) : State :=
  let full := 64 ≤ (s.pcore c).tlb.length || 1024 ≤ (s.pquad (c / 4)).tlb.length
  let s1 := s.modPcore c (fun p => { p with tlb := tlbAdd 64 (if full then s.freeN else 0) p.tlb e })
  let s2 := s1.modPquad (c / 4) (fun q => { q with tlb := tlbAdd 1024 (if full then s.freeN else 0) q.tlb e })
  if full then s2.drew else s2

/-- Writes into a frame make its lines dirty (11 R239). -/
def State.markDirty (s : State) (cells : List (Nat × Byte)) : State :=
  cells.foldl (fun st c =>
    if regionOf c.1 = 5 then
      let core := c.1 / 2 ^ 40 % 256 * 16 + c.1 / 2 ^ 36 % 16
      let f := c.1 % 2 ^ 36 / pageSize
      match (st.pcore core).frames.find f with
      | none => st
      | some fr =>
        let fr' := { fr with dirty := fr.dirty ||| (1#256 <<< (c.1 % pageSize / 64)) }
        st.modPcore core (fun p => { p with frames := p.frames.set f fr' })
    else st) s

/-- The condition of a monitor on a value of its word (06 R129). -/
def Monitor.met (m : Monitor) (v : Word) : Bool := if m.ne then v != m.value else v == m.value

/-- Set A, and D for a store, in a PTE: an atomic OR at its home, which a monitor on the entry sees (15 R312, 06 R129). The acknowledgement that
names no entry has the records of the monitors that fire go on. -/
def State.setAd (s : State) (pteAt : Nat) (k : Kind) : State :=
  let m : Nat := if k = .store then 0xC0 else 0x40
  let cells := [(pteAt, s.byteAt pteAt ||| BitVec.ofNat 8 m)]
  let s1 := (s.putCells cells).markDirty cells
  let fires := fun (x : Monitor) => x.fired.isNone && decide (x.pa ≤ pteAt) && decide (pteAt < x.pa + 8) && x.met (word (s1.readN x.pa 8))
  if s1.monitors.any fires then
    State.push { s1 with monitors := s1.monitors.map (fun x => if fires x then { x with fired := some (word (s1.readN x.pa 8)) } else x) }
      (.writeAck 0 0)
  else s1

/-- One walk for an access: the leaf is cached, A and D are set when the access passes its checks, and the answer is where the
address leads or the fault (15 R308 to R313); a table entry that the node cannot reach is cause 30 (17 R330). -/
def State.walkFor (s : State) (c : Nat) (smode : Bool) (satp : Word) (k : Kind) (va : Word) : State × Tr :=
  let go := fun (e : TlbEnt) (pteAt : Option Nat) =>
    let s1 := s.cacheLeaf c e
    match s.egressTr (c / 16) k (s.leafTr e k smode va), pteAt with
    | .mem pa ty, some a =>
      if adSet e.pte k then (s1, .mem pa ty)
      else
        let s2 := s1.setAd a k
        (s2.cacheLeaf c { e with pte := word (s2.readN a 8) }, .mem pa ty)
    | r, _ => (s1, r)
  let fresh := if (s.tableReads satp va).any (s.noRoute (c / 16)) then (s, .bad 30) else match s.walk satp va with
    | .error true => (s, .bad k.page)
    | .error false => (s, .bad k.access)
    | .ok (e, a) => go e (some a)
  match tlbFind (s.pquad (c / 4)).tlb (field satp 44 16) va with
  | some e =>
    match s.leafTr e k smode va with
    | .mem _ _ => if adSet e.pte k then go e none else fresh
    | _ => go e none
  | none => fresh

/-- Where an address leads for the walker, an engine or the core itself, which walk the tables of a captured `satp` (09 R203). -/
def State.resolve (s : State) (c lc l : Nat) (smode : Bool) (satp : Word) (k : Kind) (va : Word) : State × Tr :=
  if inSpadSpace va.toNat then (s, s.spadTr lc l k va.toNat)
  else if !kx57 satp then (s, s.egressTr (c / 16) k (s.bareTr k va))
  else if !canonical va then (s, .bad k.page)
  else s.walkFor c smode satp k va

/-- The PA and type that an answer names; a scratchpad byte has the type normal. -/
def State.trPa (s : State) : Tr → Option (Nat × MemType)
  | .mem pa ty => some (pa, ty)
  | .spad p off => (s.pageByte p off).map (fun a => (a, 0))
  | _ => none

/-- The place of a VA that firmware has been given, for a store through the tables of a `satp` value, walked anew (15 R315, 21 R371). -/
def State.fwPa (s : State) (satp va : Word) : State × Option Nat :=
  if inSpadSpace va.toNat then (s, none)
  else if !kx57 satp then (s, (s.trPa (s.bareTr .store va)).map (·.1))
  else if !canonical va then (s, none)
  else match s.walk satp va with
    | .error _ => (s, none)
    | .ok (e, a) =>
      match s.leafTr e .store true va with
      | .mem pa ty => (if adSet e.pte .store then s else s.setAd a .store, if ty = 3 then none else some pa)
      | _ => (s, none)

/-- The step by which a write that node `a` sends reaches the home of its line: by the relay that the table names, or, where a table
marks the way unreachable, by an error at the node itself, which is then its own relay (17 R330). -/
def State.routeWrite (s : State) (w : WriteReq) : Instr :=
  let pa := ((w.cells.head?).map (·.1) <|> w.rel).getD 0
  let d := s.destOf pa
  let e := (s.pnode w.src).nst.get 0 d
  if s.noRoute w.src pa then .relayPacket w.src d w
  else if w.src = d ∨ field e 0 2 < 2 then .homeWrite w
  else .relayPacket (field e 2 8) d w

end Sys2Proof.Machine
end

