-- ==== Sys2Proof/Machine/Ops.lean ====
section
/-!
DEFINITION. Continuation records and the silo, the life of a task, taking a trap and returning from one: the shared operations of
the machine's exceptions (05 R110 to R117, 15 R300 to R306, 09 R228 to R230).
-/
namespace Sys2Proof.Machine

/-! ## Steps that follow -/

/-- Ask for a step unless it is already due. -/
def State.pushOnce (s : State) (i : Instr) : State := if i ∈ s.agenda then s else s.push i

/-- A free slot or new work of core `c` is looked at (14 R293). -/
def State.wakeCore (s : State) (c : Nat) : State := s.pushOnce (.slotFill c)

/-- Emit a trace message when the encoder of core `c` is enabled: the list is what the core's trace ring holds, whose place and bytes the spec leaves to
firmware (21 R370, log 39). -/
def State.emit (s : State) (c kind : Nat) (payload : List Nat) : State :=
  if (s.pcore c).traceOn || s.fw.tracing then
    s.modPcore c (fun p => { p with trace := p.trace ++ [{ kind := kind, payload := payload }] })
  else s

/-- The power region of a node (22 R387). -/
def regionOfNode (n : Nat) : Nat := 8 * (n / 16 / 4) + n % 16 / 2

/-- The rotations that a power region has lost to its throttle before rotation `k`: at step v its clock runs at (16 - v)/16 of 850 MHz (22 R389). -/
def State.lostAt (s : State) (r k : Nat) : Nat := (s.fw.lost.get 0 r + (k - s.fw.since.get 0 r) * s.fw.steps.get 0 r) / 16

/-- The cycles that the clock of core `c` has run when the unthrottled clock has run `t`. -/
def State.cyclesAt (s : State) (c t : Nat) : Nat := t - 8 * s.lostAt (regionOfNode (c / 16)) (t / 8)

/-- The throttle of its region keeps core `c` from issuing in the rotation of cycle `t`. -/
def State.skips (s : State) (c t : Nat) : Bool :=
  s.lostAt (regionOfNode (c / 16)) (t / 8 + 1) != s.lostAt (regionOfNode (c / 16)) (t / 8)

/-- `cycle` of core `c` (01 R27). -/
def State.cycle (s : State) (c : Nat) : Word := word (s.cyclesAt c s.clock - (s.pcore c).cycleBase)

/-- Drop every line of the quad L1 that serves core `c`: an acquire at `node` or wider (06 R121). -/
def State.acquireL1 (s : State) (c : Nat) : State := s.modPquad (c / 4) (fun q => { q with l1 := [] })

/-- The quad L1 of core `c` evicts the line of `pa`, whose home has just answered the core: a later load of the thread may not see an
older value (11 R247, R251). -/
def State.dropL1 (s : State) (c pa : Nat) : State := s.modPquad (c / 4) (fun q => { q with l1 := q.l1.erase (pa / 64 * 64) })

/-! ## The layout of a record (05 R110) -/

/-- How many of the bits `lo` to `lo + n - 1` are set. -/
def countBits (w : Word) (lo n : Nat) : Nat := ((List.range n).filter (fun i => w.getLsbD (lo + i))).length

/-- The offset of xn in a record with mask `m`. -/
def xPlace (m : Word) (n : Nat) : Nat := 64 + 8 * countBits m 1 (n - 1)
/-- The offset of p1. -/
def pPlace (m : Word) : Nat := 64 + 8 * countBits m 1 31
/-- The offset of vn. -/
def vPlace (m : Word) (n : Nat) : Nat := pPlace m + (if m.getLsbD 0 then 48 else 0) + 128 * countBits m 32 n
/-- The size of a record, a multiple of 64. -/
def recSize (m : Word) : Nat := (vPlace m 32 + 63) / 64 * 64

/-- The set a record saves: the selected live mask, or every register, with written v registers only, and the reply register
(01 R25). A reply code r above 0 is bit r of the mask. -/
def saveMask (t : Thread) (all : Bool) (reply : Nat) : Word :=
  let base := if all then BitVec.allOnes 64 else t.getLm t.lsel.toNat
  let m := (base &&& ((t.vw ++ (BitVec.allOnes 32) : BitVec 64)))
  if reply = 0 then m else m ||| (1#64 <<< reply)

/-- A signed distance from the resume PC in instructions, 16 bits; for an inactive loop the spec gives none, and the
field is a free value (log 13). -/
def loopDist (pc : Word) (h : HLoop) (a : Word) (open_ : Nat) : Nat :=
  if h.remaining = 0 then open_ % 65536 else (bits (a - pc) 2 16).toNat

/-- The number of STATE. -/
def RecState.num : RecState → Nat
  | .free => 0 | .waiting => 1 | .ready => 2 | .faulted => 3 | .held => 4 | .killed => 5

/-- What a deposit records beside the registers. -/
structure Dep where
  st : RecState
  flt : Bool
  /-- Every register is saved (05 R110). -/
  all : Bool
  reply : Nat
  cause : Nat
  wait : Nat
  obj : Word
  want : Want
deriving DecidableEq, Repr

/-- The eight header doublewords; `open_` fills the distances of inactive loops. -/
def header (t : Thread) (tk : Task) (seq : BitVec 32) (mask : Word) (d : Dep) (open_ : Nat) : List Nat :=
  [ t.pc.toNat / 4 * 4 + (if t.smode then 2 else 0) + (if d.flt then 1 else 0),
    seq.toNat * 2 ^ 32 + t.lsel.toNat * 2 ^ 24 + d.reply * 2 ^ 16 + d.cause * 2 ^ 8 + d.wait * 16 + d.st.num,
    mask.toNat,
    d.obj.toNat,
    tk.tid + tk.launch * 2 ^ 32 + tk.lcore * 2 ^ 48,
    t.hl0.remaining.toNat + t.hl1.remaining.toNat * 2 ^ 32,
    loopDist t.pc t.hl0 t.hl0.start open_ + loopDist t.pc t.hl0 t.hl0.stop open_ * 2 ^ 16 +
      loopDist t.pc t.hl1 t.hl1.start open_ * 2 ^ 32 + loopDist t.pc t.hl1 t.hl1.stop open_ * 2 ^ 48,
    t.vl.toNat + t.vstart.toNat * 2 ^ 8 + t.frm.toNat * 2 ^ 16 + t.fflags.toNat * 2 ^ 19 + t.lsel.toNat * 2 ^ 24 ]

/-- The bytes of a record: header, x registers, p1 to p3, v registers, padding. -/
def recBytes (h : List Nat) (t : Thread) (mask : Word) : List Byte :=
  let xs := ((List.range 32).filter (fun n => n ≠ 0 && mask.getLsbD n)).flatMap (fun n => toBytes 8 (t.x.get 0 n).toNat)
  let ps := if mask.getLsbD 0 then [1, 2, 3].flatMap (fun n => toBytes 16 (t.p.get 0 n).toNat) else []
  let vs := ((List.range 32).filter (fun n => mask.getLsbD (32 + n))).flatMap (fun n => toBytes 128 (t.v.get 0 n).toNat)
  let body := h.flatMap (toBytes 8) ++ xs ++ ps ++ vs
  body ++ List.replicate (recSize mask - body.length) 0

/-! ## The control mesh -/

/-- A control-mesh message from node `a` to node `b` is delivered, or it is lost and logged with kind 1 (17 R330, R332). -/
def State.deliver (s : State) (a b : Nat) (f : State → State) : State := if s.unreachable a b then s.logEvent 1 a else f s

/-! ## The silo (05 R115, R117) -/

/-- The PA of a 64-byte unit of the silo of logical core `lc`: mapped normal, readable and writable with U = 0; in bare mode a PA of region
1 (05 R117). -/
def State.siloPa (s : State) (lc : Nat) (va : Word) : Option Nat :=
  let satp := (s.csrs lc).satp
  if !kx57 satp then
    if regionOf va.toNat = 1 ∧ s.regionOk va.toNat 0 false then some va.toNat else none
  else
    match s.walk satp va with
    | .ok (e, _) =>
      if bits e.pte 1 2 = 3 ∧ bits e.pte 4 1 = 0 ∧ field e.pte 54 3 = 0 ∧ s.regionOk (e.pa va) 0 false then some (e.pa va)
      else none
    | .error _ => none

/-- The addresses of the units of `n` bytes at `va`. -/
def unitsOf (va : Word) (n : Nat) : List Word := (List.range ((n + 63) / 64)).map (fun i => va + word (64 * i))

/-- The first unit of a run that translation refuses. -/
def State.siloBad (s : State) (lc : Nat) (va : Word) (n : Nat) : Option Word :=
  (unitsOf va n).find? (fun u => (s.siloPa lc u).isNone)

/-- A read of a run of the silo parks: a table entry of its walk, or a line of it, is repair-pending (15 R316). -/
def State.siloParked (s : State) (lc : Nat) (va : Word) (n : Nat) : Bool :=
  let parked := fun (a : Nat) => s.marks.find (lineOf a) == some .repair
  let satp := (s.csrs lc).satp
  (unitsOf va n).any (fun u => ((s.siloPa lc u).map parked).getD false || (kx57 satp && (s.tableReads satp u).any parked))

/-- The first unit of a run that the core cannot read: translation refuses it, or its line is poisoned (05 R117). -/
def State.siloFault (s : State) (lc : Nat) (va : Word) (n : Nat) : Option Word :=
  (unitsOf va n).find? (fun u => match s.siloPa lc u with
    | none => true
    | some a => s.marks.find (lineOf a) == some .poisoned)

/-- The newest byte that the core's store buffer, or the thread's own write-combining buffer, holds for `pa`; none where a posted AMO
to it stands behind the last such store (01 R14, 11 R248, R255). -/
def State.sbByte (s : State) (c : Nat) (wc : Option WcBuf) (pa : Nat) : Option Byte :=
  match wc.bind (fun b => b.cells.find pa) with
  | some b => some b
  | none =>
    (s.pcore c).sb.foldl (fun r e => match e.op with
      | .data w _ _ => match (w.cells.filter (fun x => x.1 == pa)).getLast? with | some x => some x.2 | none => r
      | .amo a => if a.pa ≤ pa ∧ pa < a.pa + (if a.dbl then 8 else 4) then none else r
      | _ => r) none

/-- A byte as the core sees it for its own fetches and its own silo: its buffered stores, then those in the write path, then the home (09
R224, R228). -/
def State.seenByte (s : State) (c pa : Nat) : Byte :=
  match s.sbByte c none pa with
  | some b => b
  | none =>
    match ((s.pquad (c / 4)).path.flatMap (fun e => if e.core == c then e.cells.filter (fun x => x.1 == pa) else [])).getLast? with
    | some x => x.2
    | none => s.byteAt pa

/-- Cells that store `b` in the silo at `va`. -/
def State.siloCells (s : State) (lc : Nat) (va : Word) (b : List Byte) : List (Nat × Byte) :=
  (unitsOf va b.length).zipIdx.flatMap (fun u =>
    match s.siloPa lc u.1 with
    | none => []
    | some a => ((b.drop (64 * u.2)).take 64).mapIdx (fun i x => (a + i, x)))

/-- The buffered and unperformed stores of core `c` to places that the core itself now writes are overtaken: each of these instructions is a release at
`core` of the thread's earlier stores (09 R228). -/
def State.overtake (s : State) (c : Nat) (pas : List Nat) : State :=
  let keep := fun (l : List (Nat × Byte)) => l.filter (fun x => !pas.contains x.1)
  let fi := fun (i : Instr) => match i with
    | .homeWrite w => if w.rel.isNone ∧ (w.ack.map (·.1)) = some (c / 4) ∧ w.src = c / 16 then .homeWrite { w with cells := keep w.cells } else i
    | i => i
  { s with
    agenda := s.agenda.map fi
    pcores := s.pcores.set c { s.pcore c with sb := (s.pcore c).sb.map (fun e => match e.op with
      | .data w nt d => { e with op := .data { w with cells := if w.rel.isNone then keep w.cells else w.cells } nt d }
      | _ => e) }
    pquads := s.pquads.set (c / 4) { s.pquad (c / 4) with path := (s.pquad (c / 4)).path.map (fun e =>
      if e.core == c && !e.done then { e with cells := keep e.cells } else e) } }

/-- Core `c` itself writes cells of its silo, over the core's own earlier stores there; its quad L1 keeps no copy of those lines, so that its threads read
what it wrote (09 R228, 15 R301). -/
def State.coreWrite (s : State) (c : Nat) (cells : List (Nat × Byte)) : State :=
  ((s.overtake c (cells.map (·.1))).putCells cells).modPquad (c / 4) (fun q =>
    { q with l1 := q.l1.filter (fun e => !cells.any (fun x => lineOf x.1 == e.1)) })

/-- The walks of a core's own accesses to `n` bytes of its silo set A, and D for a store, where they pass (05 R117, 15 R312). -/
def State.siloAd (s : State) (lc : Nat) (va : Word) (n : Nat) (k : Kind) : State :=
  let satp := (s.csrs lc).satp
  if !kx57 satp then s
  else (unitsOf va n).foldl (fun st u => match st.walk satp u with
    | .ok (e, a) => if adSet e.pte k || (st.siloPa lc u).isNone then st else st.setAd a k
    | .error _ => st) s

/-- Store bytes in the silo. -/
def State.siloPut (s : State) (lc : Nat) (va : Word) (b : List Byte) : State :=
  let s1 := s.siloAd lc va b.length .store
  s1.coreWrite (s1.physOf lc) (s1.siloCells lc va b)

/-- `n` bytes of the silo as the core sees them, its own buffered stores among them; none where translation refuses a unit or a line is
poisoned (05 R117, 09 R228). -/
def State.siloGet (s : State) (lc : Nat) (va : Word) (n : Nat) : Option (List Byte) :=
  (unitsOf va n).foldr (fun u acc =>
    match s.siloPa lc u, acc with
    | some a, some l =>
      if s.marks.find (lineOf a) = some .poisoned then none
      else some ((List.range 64).map (fun i => s.seenByte (s.physOf lc) (a + i)) ++ l)
    | _, _ => none) (some [])

/-- The runs of the silo of `lc` in use: offset from the silo's base, and size. -/
def LCore.used (l : LCore) : List (Nat × Nat) :=
  (l.recs.filter (fun r => r.heldSlot.isNone)).map (fun r => ((r.addr - l.silob).toNat, r.size)) ++
  l.blocks.map (fun b => (b.1 - l.silob.toNat, b.2))

/-- A run of `n` bytes at offset `o` is free. -/
def LCore.fits (l : LCore) (o n : Nat) : Bool :=
  o + n ≤ l.silol.toNat && l.used.all (fun u => u.1 + u.2 ≤ o || o + n ≤ u.1)

/-- Where a run of `n` bytes goes: a free choice where that fits, else the lowest place that fits (05 R115, log 8). -/
def LCore.place (l : LCore) (n pick : Nat) : Option Nat :=
  let p := pick % (l.silol.toNat / 64 + 1) * 64
  if l.fits p n then some p else (0 :: l.used.map (fun u => u.1 + u.2)).mergeSort.find? (fun o => l.fits o n)

/-- The context block of a task (05 R115). -/
def ctxBytes (t : Task) : List Byte :=
  let key := fun i => match t.held[i]? with | some (k, sh) => k + (if sh then 2 ^ 31 else 0) | none => 0
  toBytes 8 t.fmt.toNat ++ toBytes 8 t.scl.toNat ++ toBytes 8 t.sscl.toNat ++
  toBytes 4 (key 0) ++ toBytes 4 (key 1) ++ toBytes 4 (key 2) ++ toBytes 4 (key 3) ++
  toBytes 8 t.join.toNat ++ toBytes 8 (t.tid + t.launch * 2 ^ 32 + t.lcore * 2 ^ 48) ++
  toBytes 8 (match t.sctx with | some a => a / 64 * 64 + 1 | none => 0)

/-- The 256-byte stream context of a task: the descriptors bound, as far as the spec lays it out (01 R22). -/
def sctxSize : Nat := 256

/-- Reserve `n` bytes of the silo of `lc`; none when there is no room. -/
def State.siloAlloc (s : State) (lc n : Nat) : Option (Word × State) :=
  match (s.lcore lc).place n s.freeN with
  | none => none
  | some o => some ((s.lcore lc).silob + word o, s.drew)

/-- Give a task its context block, or refresh the block it has; else the silo address that faulted, or none where the silo has no room
(05 R115, R117). -/
def State.ctxWrite (s : State) (key : Nat) : Except (Option Word) State :=
  let tk := s.task key
  match tk.ctx with
  | some a =>
    match s.siloBad tk.lc (word a) 64 with
    | some u => .error (some u)
    | none => .ok (s.siloPut tk.lc (word a) (ctxBytes tk))
  | none =>
    match s.siloAlloc tk.lc 64 with
    | none => .error none
    | some (a, s1) =>
      match s1.siloBad tk.lc a 64 with
      | some u => .error (some u)
      | none =>
        let s2 := s1.modTask key (fun t => { t with ctx := some a.toNat })
        let s3 := s2.modLcore tk.lc (fun l => { l with blocks := l.blocks ++ [(a.toNat, 64)] })
        .ok (s3.siloPut tk.lc a (ctxBytes (s3.task key)))

/-! ## Reservations (06 R139 to R142) -/

/-- The reservation of the line of `pa` ends; the request at the head of its queue is served next. -/
def State.unreserve (s : State) (pa : Nat) : State :=
  match s.resvs.find? (fun r => r.pa == lineOf pa) with
  | none => s
  | some r =>
    let rest := s.resvs.filter (fun o => o.pa != lineOf pa)
    match r.queue with
    | [] => { s with resvs := rest }
    | e :: _ => { s with resvs := rest ++ [{ r with holder := 0 }], agenda := s.agenda ++ [e] }

/-- The thread's section ends with the line unchanged. -/
def State.endSection (s : State) (t : Thread) : State :=
  match t.resv with
  | none => s
  | some r => s.unreserve r.pa

/-! ## The write path (11 R247, R255) -/

/-- Cells leave core `c` for their home: an entry of the quad write path, and the write. -/
def State.pathSendAs (s : State) (id c task : Nat) (va : Word) (cells : List (Nat × Byte)) (rel : Option Nat) (by_ : Option Issuer)
    (ord : Option (Nat × Bool) := none) : State :=
  let s1 := s.modPquad (c / 4) (fun q =>
    { q with path := q.path ++ [{ id := id, core := c, done := false, acked := false, cells := cells, ord := ord }] })
  s1.push (s1.routeWrite { cells := cells, ack := some (c / 4, id), src := c / 16, va := va, task := task, rel := rel, by_ := by_ })

/-- Cells that were in no store buffer leave core `c` for their home. -/
def State.pathSend (s : State) (c task : Nat) (va : Word) (cells : List (Nat × Byte)) (rel : Option Nat) : State :=
  (s.pathSendAs s.nextId c task va cells rel (s.issuerOf task)).bumpId

/-- The thread's write-combining buffer drains (11 R255). -/
def State.drainWc (s : State) (c : Nat) (t : Thread) : State :=
  match t.wc with
  | none => s
  | some b => s.pathSend c t.task b.va b.cells none

/-! ## Releases (06 R121, R122) -/

/-- An address of host memory or of a pod peer. -/
def farPa (pa : Nat) : Bool := regionOf pa == 2 || regionOf pa == 4

/-- The write goes to host memory or to a pod peer: a release narrower than `sys` does not order it (11 R259). -/
def PathEnt.far (e : PathEnt) : Bool := match e.cells with
  | x :: _ => farPa x.1
  | [] => false

/-- An entry of core `c` in its quad's write path that a release at `scope` waits for: at `quad` until it commits, at `node` and wider until
it is acknowledged (06 R121, 11 R250, R259). -/
def PathEnt.owes (e : PathEnt) (c scope : Nat) : Bool :=
  e.core == c && (scope == 4 || !e.far) && (scope < 2 || !e.acked)

/-- A `bar.init` or an arrival of core `c` has not reached its object, or has not been told to every core (13 R272, 06 R394). -/
def State.barInFlight (s : State) (c : Nat) : Bool :=
  s.agenda.any (fun i => match i with
    | .barrierInitApply m _ _ => m.src.map (·.1) == some c
    | .barrierArrivalApply m _ _ => m.src.map (·.1) == some c
    | _ => false)

/-- What has left the store buffer of core `c` and a release at `scope` still waits for. -/
def State.owed (s : State) (c scope : Nat) : Bool := (s.pquad (c / 4)).path.any (fun e => e.owes c scope) || s.barInFlight c

/-- A release at `scope` has something to wait for on core `c`. -/
def State.outstanding (s : State) (c scope : Nat) : Bool := !(s.pcore c).sb.isEmpty || s.owed c scope

/-- A step that follows a release at `scope` of core `c` has to wait: for the release, and for the core's writes to be visible to its quad (11 R249,
R250). -/
def State.lags (s : State) (c scope : Nat) : Bool := s.outstanding c scope || s.owed c 1

/-- Put an entry in the store buffer of core `c`. -/
def State.sbPush (s : State) (c slot task : Nat) (op : SbOp) : State :=
  ((s.modPcore c (fun p => { p with sb := p.sb ++ [{ id := s.nextId, slot := slot, task := task, op := op }] })).bumpId).pushOnce
    (.storeBufferLeave c)

/-- Put a release at `scope` before what core `c` sends next for a task, where there is anything to wait for. -/
def State.markRelease (s : State) (c slot task scope : Nat) : State :=
  if scope = 0 ∨ 4 < scope ∨ !s.outstanding c scope then s
  else s.sbPush c slot task (.release scope false false)

/-! ## Tasks -/

/-- The id that a submitted record has been given, with its partition. -/
def Inb.tid (e : Inb) : Option (Nat × Nat) := match e.src with | .core lc tid _ _ => some (partOfLc lc, tid) | _ => none

/-- The ids that partition `p` uses: those of its tasks, and those given to records on their way to a dispatcher or in its inbound FIFO (05
R103). -/
def State.usedTids (s : State) (p : Nat) : List Nat :=
  (s.tasks.filter (fun e => e.2.part == p)).map (fun e => e.2.tid) ++
  ((s.lnodes.flatMap (fun e => e.2.inbox) ++ s.pcores.flatMap (fun e => e.2.sb.filterMap (fun x => match x.op with
    | .submit b _ => some b
    | _ => none))).filterMap Inb.tid).filterMap (fun e => if e.1 = p then some e.2 else none)

/-- The sequence numbers of the ids of core `c` that partition `p` uses. -/
def State.usedSeqs (s : State) (p c : Nat) : List Nat :=
  ((s.usedTids p).filter (fun i => i / 2 ^ 20 == c)).map (fun i => i % 2 ^ 20)

/-- The first number not in `used`, from `n` on. -/
def nextSeq (used : List Nat) : Nat → Nat → Nat
  | 0, n => n
  | k + 1, n => if n % 2 ^ 20 ∈ used then nextSeq used k (n + 1) else n % 2 ^ 20

/-- A new task id for partition `p` in the name of physical core `c` (05 R103). -/
def State.tidOf (s : State) (p c : Nat) : Nat × State :=
  let used := s.usedSeqs p c
  let n := nextSeq used (used.length + 1) (s.pcore c).tidSeq
  (c * 2 ^ 20 + n, s.modPcore c (fun q => { q with tidSeq := (n + 1) % 2 ^ 20 }))

/-- A new task id of the core that runs logical core `lc` (05 R103). -/
def State.newTid (s : State) (lc : Nat) : Nat × State := s.tidOf (partOfLc lc) (s.physOf lc)

/-- Put a task on the pending S-mode queue of a logical core (14 R294). -/
def State.pendTask (s : State) (lc key : Nat) : State :=
  (s.modLcore lc (fun l => { l with pendS := l.pendS ++ [key] })).wakeCore (s.physOf lc)

/-- A handler task at `stvec`; with `stvec` 0 the event is logged and none is placed (15 R301, R305). `parent` is the trapping
task, none for causes 48, 49 and 51. -/
def State.startHandler (s : State) (lc : Nat) (cause : Nat) (a0 a2 a3 : Word) (parent : Option Task) (origin : Option Nat) : State :=
  let c := s.physOf lc
  let stvec := (s.csrs lc).stvec
  if stvec = 0 then s.logEvent 2 (c / 16)
  else
    let (tid, s1) := s.newTid lc
    let b := match parent with
      | some p => { Task.blank with launch := p.launch, idx := p.idx, icnt := p.icnt, fmt := p.fmt, scl := p.scl, sscl := p.sscl,
                                    depth := p.depth + 1 }
      | none => { Task.blank with depth := 1 }
    let key := taskKey (partOfLc lc) tid
    let tk := { b with tid := tid, part := partOfLc lc, lcore := numOfLc lc, entry := stvec, smode := true,
                       args := [a0, word cause, a2, a3], origin := origin, pinned := true, maker := some lc }
    (s1.setTask key tk).pendTask lc key

/-! ## Placing a task (14 R282 to R287) -/

/-- Resident threads, ready records and deque entries of a logical core (14 R285). -/
def State.occupancy (s : State) (lc : Nat) : Nat :=
  let l := s.lcore lc
  ((s.pcore l.phys).slots.filter (fun e => match e.2.thread with
    | some t => (s.task t.task).lc == lc
    | none => false)).length + l.ready.length + l.deque.length

/-- The core of least occupancy among `l`, the lowest on a tie. -/
def State.leastOf (s : State) (l : List Nat) (d : Nat) : Nat :=
  l.foldl (fun b x => if s.occupancy x < s.occupancy b then x else b) (l.headD d)

/-- The logical cores of logical node `ln`, and of logical quad `lq`. -/
def coresOfNode (ln : Nat) : List Nat := (List.range 16).map (fun i => 16 * ln + i)
/-- The logical cores of logical quad `lq`. -/
def coresOfQuad (lq : Nat) : List Nat := (List.range 4).map (fun i => 4 * lq + i)

/-- The logical core that a task goes to by least occupancy (14 R285). -/
def State.chooseCore (s : State) (t : Task) : Nat :=
  let inNode := s.leastOf (coresOfNode t.disp) (16 * t.disp)
  match t.from_ with
  | none => inNode
  | some lc =>
    let q := s.leastOf (coresOfQuad (lc / 4)) lc
    if s.occupancy q < 8 then q else inNode

/-- Records of a stage ring (14 R287). -/
abbrev ringSize : Nat := 256

/-- The governor of a node is enabled (14 R288). -/
def PNode.govOn (n : PNode) : Bool := n.gov.getLsbD 0

/-- Place the task, or none while its stage ring is full or its node takes no work (14 R285, R287, 17 R336). -/
def State.tryPlace (s : State) (key : Nat) : Option State :=
  let t := s.task key
  let target := if t.target = 0xFFFF then s.chooseCore t else t.part * 4096 + t.target
  let at_ := fun (lc : Nat) (st : State) => st.modTask key (fun x => { x with lcore := numOfLc lc })
  if s.nodeAway (s.nodeOfLc target) then none else
  if t.smode then
    let lc := if t.target = 0xFFFF then s.leastOf (coresOfNode t.disp) (16 * t.disp) else target
    some ((at_ lc s).pendTask lc key)
  else
    let node := (s.lnode t.disp).phys
    if t.target = 0xFFFF ∧ (s.pnode node).govOn then
      let ring := (s.pnode node).rings.get [] t.stage
      if ringSize ≤ ring.length then none
      else
        let s1 := s.modPnode node (fun n => { n with rings := n.rings.set t.stage (ring ++ [key]) })
        some ((List.range 16).foldl (fun st i => st.wakeCore (node * 16 + i)) s1)
    else
      some (((at_ target s).modLcore target (fun l => { l with deque := key :: l.deque })).wakeCore (s.physOf target))

/-- Place the tasks that wait at a dispatcher, in order, up to the first that a full ring holds back. -/
def State.drainPlacing (ln : Nat) : Nat → State → State
  | 0, s => s
  | n + 1, s =>
    match (s.lnode ln).placing with
    | [] => s
    | k :: rest =>
      match s.tryPlace k with
      | none => s
      | some s1 => State.drainPlacing ln n (s1.modLnode ln (fun l => { l with placing := rest }))

/-- Place what waits at the dispatchers of a partition, in order, as far as the rings have room (14 R287). -/
def State.drainRings (s : State) (p : Nat) : State :=
  (s.lnodes.filter (fun e => e.1 / 256 == p && !e.2.placing.isEmpty)).foldl (fun st e => State.drainPlacing e.1 e.2.placing.length st) s

/-- A task that holds its keys is placed (14 R285). -/
def State.placeTask (s : State) (key : Nat) : State :=
  let ln := (s.task key).disp
  let s1 := s.modLnode ln (fun l => { l with placing := l.placing ++ [key] })
  State.drainPlacing ln (s1.lnode ln).placing.length s1

/-- Ask for the task's next key, or place it when it holds them all (14 R283). -/
def State.requestNext (s : State) (key : Nat) : State :=
  let t := s.task key
  match t.want with
  | [] => s.placeTask key
  | (k, sh) :: _ => s.push (.keyRequest { part := t.part, task := key, key := k, shared := sh, disp := t.disp })

/-- Two byte intervals overlap. -/
def overlaps (a b : Nat × Nat) : Bool := a.2 != 0 && b.2 != 0 && a.1 < b.1 + b.2 && b.1 < a.1 + a.2

/-- A task with ranges `t` conflicts with the earlier one with ranges `e` (14 R282); ranges are read, write, read. -/
def conflicts (t e : List (Nat × Nat)) : Bool :=
  match t, e with
  | [r0, w, r1], [s0, v, s1] => [s0, v, s1].any (overlaps w) || overlaps r0 v || overlaps r1 v
  | _, _ => false

/-- Task `a` is placed no later than task `b` where both become placeable together: descending PRIO, then submission order (14 R285). -/
def State.placedBefore (s : State) (a b : Nat) : Bool :=
  (s.task b).prio < (s.task a).prio || ((s.task b).prio == (s.task a).prio && (s.task a).sub ≤ (s.task b).sub)

/-- The tasks of a dispatcher that no longer wait for a predecessor are placed, in descending PRIO and in submission order within one PRIO, or ask for
their keys, in submission order (14 R282, R285, 16 R323). -/
def State.rangesFree (s : State) (ln : Nat) : State :=
  let l := s.lnode ln
  let waits := fun k => (l.ranged.takeWhile (fun e => e.1 != k)).any (fun e => conflicts (s.task k).ranges e.2)
  let go := l.blocked.filter (fun k => !waits k)
  let s1 := s.modLnode ln (fun n => { n with blocked := l.blocked.filter waits })
  let keyless := go.filter (fun k => (s.task k).want.isEmpty)
  let order := keyless.mergeSort s.placedBefore ++ go.filter (fun k => !(s.task k).want.isEmpty)
  order.foldl (fun st k => st.requestNext k) s1

/-! ## The end of a task -/

/-- Close stream `q` of a task, as `q.close` does (06 R149). -/
def State.closeStream (s : State) (key q : Nat) : State :=
  let t := s.task key
  match t.streams.find q with
  | none => s
  | some st =>
    let mask : BitVec 32 := ~~~(0xF#32 <<< (4 * q))
    let s1 := s.modTask key (fun x => { x with streams := x.streams.erase q, eod := x.eod &&& mask })
    if st.kind = 2 then
      s1.push (.channelCloseArrives { part := t.part, src := t.lcore, dst := st.peer, tag := st.tag })
    else if st.kind = 1 then
      let r : ChanRef := { part := t.part, src := st.peer, dst := t.lcore, tag := st.tag }
      let s2 : State := { s1 with
        chans := s1.chans.map (fun c => if c.ref == r then
          { c with inClosed := c.outBound && !c.closed, closed := false, inRing := 0, inEnd := none } else c) }
      s2.push (.channelCreditReturn r 0)
    else s1

/-- Close every bound stream of a task (05 R97). -/
def State.closeStreams (s : State) (key : Nat) : State :=
  ((s.task key).streams.map (·.1)).foldl (fun st q => st.closeStream key q) s

/-- The origin of a record in an inbound FIFO (14 R297). -/
def InbSrc.origin : InbSrc → Option Nat
  | .core _ _ _ o => o
  | .launch _ _ _ o _ => o
  | .port q _ => some q
  | .mailbox _ _ o => o

/-- The entry is a task of origin `q`; a launch descriptor is none, for its tasks come with its leaving the FIFO (14 R278). -/
def InbSrc.taskOf (e : InbSrc) (q : Nat) : Bool := match e with
  | .launch _ _ _ _ _ => false
  | e => e.origin == some q

/-- Records of an origin that a store buffer holds behind a release. -/
def State.heldSubmits (s : State) (q : Nat) : Nat :=
  (s.pcores.map (fun e => (e.2.sb.filter (fun x => match x.op with
    | .submit b _ => b.src.taskOf q
    | _ => false)).length)).sum

/-- Tasks of an origin not yet retired, those in an inbound FIFO or on their way there included: LIVE (14 R274). -/
def State.liveOf (s : State) (q : Nat) : Nat :=
  (s.tasks.filter (fun e => e.2.origin == some q)).length +
  (s.lnodes.map (fun e => (e.2.inbox.filter (fun b => b.src.taskOf q)).length + (e.2.waiters.filter (fun b => match b with
    | .firing b => b.src.taskOf q
    | _ => false)).length)).sum + s.heldSubmits q

/-- A task of an origin has come: its watchdog clock runs while LIVE is above 0 (14 R297). -/
def State.armWatch (s : State) (origin : Option Nat) : State :=
  match origin with
  | none => s
  | some q =>
    if s.liveOf q = 1 ∧ (s.queue q).t1 ≠ 0 ∧ !(s.queue q).aboveT1 then s.pushOnce (.watchdogT1 q) else s

/-- A task of an origin has retired: the origin's watchdog clock returns to 0, but for a queue that T2 has
killed (14 R297, R298). -/
def State.clockBack (s : State) (origin : Option Nat) : State :=
  match origin with
  | none => s
  | some q =>
    if (s.queue q).st = .killed ∨ (s.queue q).st = .destroyed then s else
    let wd : Instr → Bool := fun i => i == .watchdogT1 q || i == .watchdogT2 q || i == .watchdogT3 q
    let s1 := (s.drop wd).modQueue q (fun h => { h with aboveT1 := false })
    let s2 := if s1.liveOf q ≠ 0 ∧ (s1.queue q).t1 ≠ 0 then s1.push (.watchdogT1 q) else s1
    s2.lcores.foldl (fun st e => if e.2.ready.isEmpty then st else st.wakeCore e.2.phys) s2

/-- Write the dirty lines of a frame back to its page's backing and leave the page in the frame (11 R239). -/
def State.writeBack (s : State) (c f : Nat) (fr : Frame) : State :=
  let cells := (List.range 256).flatMap (fun i =>
    if fr.dirty.getLsbD i then
      match s.backing fr.page (64 * i) with
      | some b => (s.bytesAt (frameAddr c f (64 * i)) 64).mapIdx (fun j x => (b + j, x))
      | none => []
    else [])
  (s.putCells cells).modPcore c (fun p => { p with frames := p.frames.set f { fr with dirty := 0 } })

/-- What moves with a page: in-flight writes, what copies have written there, monitors, reservations with their holders, bindings and error marks at the PAs of its 4 KiB parts are
renamed by `f` (11 R240). -/
def State.renamePas (s : State) (f : Nat → Nat) : State :=
  let fw := fun (w : WriteReq) => { w with cells := w.cells.map (fun c => (f c.1, c.2)), rel := w.rel.map f }
  let fi := fun (i : Instr) => match i with
    | .homeWrite w => .homeWrite (fw w)
    | .homeAmo a => .homeAmo { a with pa := f a.pa }
    | .relayPacket m d w => .relayPacket m d (fw w)
    | j => j
  let ft := fun (x : Slot) => { x with thread := x.thread.map (fun (t : Thread) =>
    { t with resv := t.resv.map (fun (r : Section) => { r with pa := f r.pa }) }) }
  let fr := fun (x : Rec) => match x.want with
    | .access a => match a.op with
      | .resAcq => { x with want := .access { a with arg := word (f a.arg.toNat) } }
      | _ => x
    | _ => x
  let fe := fun (e : SbEnt) => match e.op with
    | .data w nt d => { e with op := .data (fw w) nt d }
    | .amo a => { e with op := .amo { a with pa := f a.pa } }
    | _ => e
  { s with
    agenda := s.agenda.map fi
    pcores := s.pcores.map (fun e => (e.1, { e.2 with sb := e.2.sb.map fe, slots := e.2.slots.map (fun x => (x.1, ft x.2)) }))
    lcores := s.lcores.map (fun e => (e.1, { e.2 with recs := e.2.recs.map fr }))
    pquads := s.pquads.map (fun e => (e.1, { e.2 with path := e.2.path.map (fun p =>
      { p with cells := p.cells.map (fun c => (f c.1, c.2)) }) }))
    monitors := s.monitors.map (fun m => { m with pa := f m.pa })
    resvs := s.resvs.map (fun r => { r with pa := f r.pa, queue := r.queue.map fi })
    binds := s.binds.map (fun b => { b with pa := f b.pa })
    marks := s.marks.foldl (fun m e => m.set (f e.1) e.2) []
    lquads := s.lquads.map (fun e => (e.1, { e.2 with copies := e.2.copies.map (fun c =>
      { c with cells := c.cells.map (fun x => (f x.1, x.2)) }) }))
    parked := s.parked.map (fun e => (f e.1, fi e.2)) }

/-- The backing PA that holds byte `off` of a page moves to the frame (`into`) or back. -/
def State.movePage (s : State) (c f : Nat) (p : PageRef) (into : Bool) : State :=
  let parts := (List.range 4).filterMap (fun i => (s.backing p (4096 * i)).map (fun b => (b, frameAddr c f (4096 * i))))
  let ps := if into then parts else parts.map (fun e => (e.2, e.1))
  s.renamePas (fun a => match ps.find? (fun e => e.1 ≤ a && a < e.1 + 4096) with | some e => e.2 + (a - e.1) | none => a)

/-- Write a page back and free its frame (11 R239). -/
def State.evictFrame (s : State) (c f : Nat) (fr : Frame) : State :=
  let s1 := (s.writeBack c f fr).movePage c f fr.page false
  s1.modPcore c (fun p => { p with frames := p.frames.erase f })

/-- A command or a copy in a queue still goes through the map of a launch (08 R175, R176, 09 R200). -/
def State.mapUsed (s : State) (part l : Nat) : Bool :=
  s.lquads.any (fun e => e.1 / 1024 == part && (e.2.queue.any (fun c => c.launch == l) || e.2.copies.any (fun c => c.launch == l)))

/-- A launch without tasks whose map no engine uses any more is forgotten. -/
def State.dropLaunch (s : State) (part l : Nat) : State :=
  if l = 0 ∨ s.tasks.any (fun e => e.2.part == part && e.2.launch == l) ∨ s.mapUsed part l then s
  else { s with launches := s.launches.erase (launchKey part l) }

/-- The last task of a launch has retired: its pins end and its frames go back to their backing (09 R226, 11 R239, log 9). Its map stays for the
commands and copies that captured it. -/
def State.endLaunch (s : State) (part l : Nat) : State :=
  if l = 0 ∨ s.tasks.any (fun e => e.2.part == part && e.2.launch == l) then s
  else
    let go := s.pcores.flatMap (fun e => (e.2.frames.filter (fun f =>
      f.2.page.launch == l && partOfLc f.2.page.lc == part)).map (fun f => (e.1, f.1, f.2)))
    (go.foldl (fun st x => st.evictFrame x.1 x.2.1 x.2.2) s).dropLaunch part l

/-- The last task of a launch on a logical core has retired: the launch's pins there end (09 R226). -/
def State.endPins (s : State) (lc l : Nat) : State :=
  if l = 0 ∨ s.tasks.any (fun e => e.2.lc == lc && e.2.launch == l) then s
  else s.modPcore (s.physOf lc) (fun p => { p with frames := p.frames.map (fun (e : Nat × Frame) =>
    if e.2.page.lc == lc && e.2.page.launch == l then (e.1, { e.2 with pinned := false }) else e) })

/-- A key message of a task that is not in flight any more. -/
def keyMsgOf (key : Nat) : Instr → Bool
  | .keyRequest m => m.task == key
  | .keyGrant m => m.task == key
  | _ => false

/-- The grants of a task that are on their way are given back. -/
def State.grantsBack (s : State) (key : Nat) : List Instr :=
  s.agenda.filterMap (fun i => match i with
    | .keyGrant m => if m.task = key then some (.keyRelease m) else none
    | _ => none)

/-- The releases of what a task holds: its keys, and its range entry as the key 0 (05 R97, 14 R282). -/
def releasesOf (key : Nat) (t : Task) : List Instr :=
  t.held.map (fun h => .keyRelease { part := t.part, task := key, key := h.1, shared := h.2, disp := t.disp }) ++
  (if t.ranges.isEmpty then [] else [.keyRelease { part := t.part, task := key, key := 0, shared := false, disp := t.disp }])

/-- The keys and the range entry of a task are released behind a release at `pkg` of core `c` (05 R97, 09 R230). -/
def State.keysAfter (s : State) (c slot key : Nat) : State :=
  let rel := releasesOf key (s.task key)
  if rel.isEmpty then s
  else (rel.foldl (fun st i => st.sbPush c slot key (.send i)) (s.markRelease c slot key 3)).modTask key (fun t =>
    { t with held := [], ranges := [] })

/-- A task ends: a line reserved for it is freed, its keys are released, its streams close, its range entry and its blocks in the silo are freed (05 R97, 09
R230), and what waits for its place in a stage ring goes on (14 R287).
The releases travel to the homes and the dispatcher. -/
def State.endTask (s : State) (key : Nat) : State :=
  match s.tasks.find key with
  | none => s
  | some t =>
    let s0 := match s.resvs.find? (fun q => q.holder == key) with | some q => s.unreserve q.pa | none => s
    let s1 := s0.closeStreams key
    let s2 := s1.drop (keyMsgOf key)
    let asked : List Instr := match t.want with
      | (k, sh) :: _ => [.keyRelease { part := t.part, task := key, key := k, shared := sh, disp := t.disp }]
      | [] => []
    let s3 := s2.pushAll (s1.grantsBack key ++ releasesOf key t ++ asked)
    let s4 := { s3 with
      parts := s3.parts.map (fun (e : Nat × Part) => (e.1, { e.2 with keys := e.2.keys.map (fun (k : Nat × KeyEnt) =>
        (k.1, { k.2 with fifo := k.2.fifo.filter (fun x => x.1 != key) })) }))
      lnodes := s3.lnodes.map (fun (e : Nat × LNode) => (e.1, { e.2 with
        blocked := e.2.blocked.filter (· != key), placing := e.2.placing.filter (· != key) }))
      lcores := s3.lcores.map (fun (e : Nat × LCore) => (e.1, { e.2 with
        deque := e.2.deque.filter (· != key), pendS := e.2.pendS.filter (· != key),
        blocks := e.2.blocks.filter (fun b => some b.1 != t.ctx && some b.1 != t.sctx) }))
      pnodes := s3.pnodes.map (fun (e : Nat × PNode) => (e.1, { e.2 with rings := e.2.rings.map (fun (r : Nat × List Nat) => (r.1, r.2.filter (· != key))) }))
      tasks := s3.tasks.erase key }
    (((s4.endPins t.lc t.launch).endLaunch t.part t.launch).clockBack t.origin).drainRings t.part

/-- Forget a record, and the requests that would still answer it (05 R113). -/
def State.dropRec (s : State) (lc id : Nat) : State :=
  { s.modLcore lc (fun l => { l with recs := l.recs.filter (fun r => r.id != id), ready := l.ready.filter (· != id) }) with
    monitors := s.monitors.filter (fun m => m.r != { lc := lc, id := id }) }

/-! ## Depositing (05 R110 to R117) -/

/-- The core's own copy of a record. -/
def mkRec (s : State) (t : Thread) (addr : Word) (mask : Word) (size : Nat) (seq : BitVec 32) (d : Dep)
    (i0 : Thread) (held : Option Nat) : Rec :=
  { id := s.nextId, addr := addr, size := size, st := d.st, seq := seq, mask := mask, reply := d.reply, cause := d.cause,
    wait := d.wait, obj := d.obj, task := t.task, smode := t.smode, lm := t.lm, sscratch := t.sscratch, vw := t.vw,
    want := d.want, err := none, ipc := i0.pc, ihl0 := i0.hl0, ihl1 := i0.hl1, ivs := i0.vstart, heldSlot := held, parked := false, movedFrom := none,
    again := if d.wait = 6 then none else i0.again }

/-- The held area of a slot (05 R116). -/
def LCore.heldArea (l : LCore) (i : Nat) : Word := l.silob + l.silol + word (4480 * i)

/-- The thread of a slot is killed: its buffered bytes drain, its section ends, the slot is free and its task ends, its keys released
behind a release at `pkg` (09 R230, 11 R255). -/
def State.killThread (s : State) (c i : Nat) (t : Thread) : State :=
  let s1 := ((s.drainWc c t).endSection t).freeSlot c i
  ((s1.keysAfter c i t.task).endTask t.task).wakeCore c

/-- Hold the thread in its slot: a held header with CAUSE 24, and a handler (05 R116). Its SEQ is the core's next one, which a held header
does not use up (log 13). A held header that cannot be written kills the task (05 R117), and so does one of a handler at depth 4, for which
no further handler is placed (15 R305). -/
def State.hold (s : State) (c i : Nat) (t : Thread) (bad : Option Word) : State :=
  let tk := s.task t.task
  let lc := tk.lc
  let a := (s.lcore lc).heldArea i
  if 4 ≤ tk.depth then (s.killThread c i t).logEvent 3 (c / 16)
  else match s.siloBad lc a 64 with
  | some u => (s.killThread c i t).logSilo c u
  | none =>
    let obj := bad.getD a
    let d : Dep := { st := .held, flt := false, all := true, reply := 0, cause := 24, wait := 11, obj := obj, want := .nothing }
    let seq := (s.pcore c).seq
    let s1 := s.drew.siloPut lc a ((header t tk seq 0 d s.freeN).flatMap (toBytes 8))
    let r := mkRec s t a 0 64 seq d t (some i)
    let s2 := (s1.modLcore lc (fun l => { l with recs := l.recs ++ [r] })).bumpId
    let s3 := s2.putThread c i { t with held := true }
    s3.startHandler lc 24 a obj (word tk.tid) (some tk) tk.origin

/-- Deposit a record of thread `t` of slot `i`, CAUSE where no trap deposits and OBJ of a yield being free values (log 13), with its resume address and loops already in `t`; `i0` is the thread at its
instruction. The answer names the record, or none when the thread is held instead (01 R18, 05 R116, R117). -/
def State.deposit (s : State) (c i : Nat) (i0 t : Thread) (d : Dep) : State × Option RecRef :=
  let tk := s.task t.task
  let lc := tk.lc
  match s.ctxWrite t.task with
  | .error u => (s.hold c i i0 u, none)
  | .ok s1 =>
    let mask := saveMask t d.all d.reply
    let size := recSize mask
    match s1.siloAlloc lc size with
    | none => (s.hold c i i0 none, none)
    | some (a, s2) =>
      match s2.siloBad lc a size with
      | some u => (s.hold c i i0 (some u), none)
      | none =>
        let s2 := s2.drainWc c t
        let seq := (s2.pcore c).seq
        let open_ := s2.freeN
        let d := if d.flt then d else { d with cause := open_ / 65536 % 256, obj := if d.st = .ready then s2.freeW else d.obj }
        let s3 := s2.drew.siloPut lc a (recBytes (header t tk seq mask d open_) t mask)
        let r := mkRec s3 t a mask size seq d i0 none
        let s4 := s3.modLcore lc (fun l => { l with
          recs := l.recs ++ [r], ready := if d.st = .ready then l.ready ++ [s3.nextId] else l.ready })
        let s5 := ((s4.modPcore c (fun p => { p with seq := p.seq + 1 })).bumpId.freeSlot c i).wakeCore c
        (s5.emit c 1 [i, tk.tid, seq.toNat, d.wait, d.st.num, size, (s.cycle c).toNat], some { lc := lc, id := s3.nextId })

/-! ## Taking a trap (15 R300 to R306) -/

/-- Trap thread `t` of slot `i` of core `c`: the faulted record, the freed slot, the handler. `t` holds what the instruction has
written before the trap. Inside a reservation section the cause is 25 and the line is released (06 R141). -/
def State.trapAt (s : State) (c i : Nat) (t : Thread) (cause : Nat) (obj : Word) : State :=
  let (cause', obj') := match t.resv with | some r => (25, r.va) | none => (cause, obj)
  let s1 := s.endSection t
  let t1 := { t with resv := none }
  let tk := s1.task t.task
  if 4 ≤ tk.depth then (s1.killThread c i t1).logEvent 3 (c / 16)
  else
    let d : Dep := { st := .faulted, flt := true, all := true, reply := 0, cause := cause', wait := 11, obj := obj',
                     want := .nothing }
    match s1.deposit c i t1 t1 d with
    | (s2, none) => s2
    | (s2, some r) =>
      let a := (((s2.lcore r.lc).recs.getLast?).map (·.addr)).getD 0
      s2.startHandler r.lc cause' a obj' (word tk.tid) (some tk) tk.origin

/-- The thread whose turn it is traps at its instruction, of which nothing has taken effect. -/
def State.trap (s : State) (t : Thread) (cause : Nat) (obj : Word) : State := s.trapAt s.turn.1 s.turn.2 t cause obj

/-! ## Records by name -/

/-- The record that `r` names, while it exists. -/
def State.recOf (s : State) (r : RecRef) : Option Rec := (s.lcore r.lc).recs.find? (fun x => x.id == r.id)

/-- Change a record. -/
def State.modRec (s : State) (r : RecRef) (f : Rec → Rec) : State :=
  s.modLcore r.lc (fun l => { l with recs := l.recs.map (fun x => if x.id == r.id then f x else x) })

/-- The physical core of a record. -/
def State.coreOf (s : State) (r : RecRef) : Nat := s.physOf r.lc

/-- STATE of a record in its memory; WAIT beside it stays as the deposit wrote it (05 R110). -/
def State.putRecState (s : State) (r : RecRef) (x : Rec) (st : RecState) : State :=
  match s.siloPa r.lc x.addr with
  | none => s
  | some a => s.coreWrite (s.physOf r.lc) [(a + 8, (s.byteAt (a + 8) &&& 0xF0) ||| BitVec.ofNat 8 st.num)]

/-- Store bytes into a record at an offset, byte `i` only where `m` has bit `i`. -/
def State.putRecBytes (s : State) (r : RecRef) (x : Rec) (off : Nat) (b : List Byte) (m : PReg) : State :=
  s.coreWrite (s.physOf r.lc) ((b.zipIdx.filter (fun e => m.getLsbD e.2)).filterMap (fun e =>
    (s.siloPa r.lc (x.addr + word ((off + e.2) / 64 * 64))).map (fun a => (a + (off + e.2) % 64, e.1))))

/-- Write a reply into the place of the record's reply register (05 R113); one that counts no byte writes nothing. -/
def State.putReply (s : State) (r : RecRef) (x : Rec) (v : VReg) (m : PReg) : State :=
  if x.reply = 0 ∨ m = 0 then s
  else if x.reply < 32 then s.putRecBytes r x (xPlace x.mask x.reply) (toBytes 8 v.toNat) (BitVec.allOnes 128)
  else s.putRecBytes r x (vPlace x.mask (x.reply - 32)) (toBytes 128 v.toNat) m

/-- A killed record is forgotten and its task ends, its keys released behind a release at `pkg` (05 R112, 09 R230). -/
def State.endRec (s : State) (r : RecRef) (x : Rec) : State :=
  let c := s.coreOf r
  ((((s.putRecState r x .free).dropRec r.lc r.id).keysAfter c 0 x.task).endTask x.task).wakeCore c

/-- The record still has its access to make: it waits, or it is killed with a store or AMO unsent. -/
def Rec.waits (x : Rec) : Bool := x.st == .waiting || x.st == .killed

/-- A waiting record holds a store, or an AMO, that its thread has issued and that its core has not yet accepted or sent: it waits for a walk, a page, a
line or an entry of the store buffer (05 R113). -/
def State.unsent (s : State) (r : RecRef) (x : Rec) : Bool :=
  x.st == .waiting && match x.want with
  | .access a => match a.op with
    | .store => true
    | .amo _ => x.reply == 0 || x.wait == 2 || s.agenda.contains (.tlbWalkComplete r) || s.parked.any (fun e => e.2 == .tlbWalkComplete r)
    | _ => false
  | _ => false

/-- A waiting record becomes ready, with its reply or the trap that its relaunch takes, at the tail of the ready queue
(05 R112 to R114). A record that has gone discards the reply, and a killed one goes with its last store or AMO sent. -/
def State.makeReady (s : State) (r : RecRef) (rep : Reply) : State :=
  match s.recOf r with
  | none => s
  | some x =>
    if x.st = .killed then s.endRec r x
    else if x.st ≠ .waiting then s
    else
      let s1 := (s.putReply r x rep.val rep.mask).putRecState r x .ready
      let s2 := s1.modRec r (fun y => { y with st := .ready, err := rep.err <|> y.err })
      (s2.modLcore r.lc (fun l => { l with ready := l.ready ++ [r.id] })).wakeCore (s.coreOf r)

/-- A reply of nothing. -/
def Reply.none_ : Reply := { val := 0, mask := 0, err := none }
/-- A reply of a word. -/
def Reply.word_ (v : Word) : Reply := { val := v.setWidth 1024, mask := BitVec.allOnes 128, err := none }
/-- A reply that is a trap. -/
def Reply.trap_ (cause : Nat) (obj : Word) : Reply := { val := 0, mask := 0, err := some (cause, obj) }

/-- The age of a SEQ: its distance back from the core's next SEQ (05 R114). -/
def seqAge (p : PCore) (q : BitVec 32) : Nat := (p.seq - q).toNat

/-- Siblings become ready together on each core, in ascending SEQ (05 R114). -/
def State.readySiblings (s : State) (l : List (RecRef × Reply)) : State :=
  let age := fun (e : RecRef × Reply) => match s.recOf e.1 with | some x => seqAge (s.pcore (s.coreOf e.1)) x.seq | none => 0
  (l.mergeSort (fun a b => age b ≤ age a)).foldl (fun st e => st.makeReady e.1 e.2) s

/-! ## Returning: relaunch and the handler actions (01 R15, 09 R228 to R230) -/

/-- A loop as the header gives it. -/
def loopOf (rem : Nat) (ds de : Nat) (pc : Word) : HLoop :=
  if rem = 0 then HLoop.off
  else { remaining := BitVec.ofNat 32 rem,
         start := pc + (BitVec.ofNat 16 ds).signExtend 64 * 4, stop := pc + (BitVec.ofNat 16 de).signExtend 64 * 4 }

/-- A CSR write of `kxvl` (01 R26). -/
def clampVl (v : Nat) : BitVec 8 := BitVec.ofNat 8 (if 128 < v then 128 else v / 8 * 8)

/-- The thread that a record's bytes give back (01 R24, 09 R228). A v register that the record saved counts as written whatever its value (log 70). -/
def restore (x : Rec) (b : List Byte) : Thread :=
  let w := fun o => word (ofBytes ((b.drop o).take 8))
  let pc := w 0 &&& ~~~3#64
  let m := x.mask
  let xs := ((List.range 32).filter (fun n => n ≠ 0 && m.getLsbD n)).foldl (fun (t : Tbl Word) n =>
    t.put 0 n (w (xPlace m n))) []
  let ps := if m.getLsbD 0 then [1, 2, 3].foldl (fun (t : Tbl PReg) n =>
    t.put 0 n (BitVec.ofNat 128 (ofBytes ((b.drop (pPlace m + 16 * (n - 1))).take 16)))) [] else []
  let vs := ((List.range 32).filter (fun n => m.getLsbD (32 + n))).foldl (fun (t : Tbl VReg) n =>
    t.put 0 n (BitVec.ofNat 1024 (ofBytes ((b.drop (vPlace m n)).take 128)))) []
  let frm := bits (w 56) 16 3
  { task := x.task, pc := pc, smode := x.smode, x := xs, v := vs, vw := bits m 32 32, p := ps, lm := x.lm,
    frm := if frm.toNat ≤ 4 then frm else 0, fflags := bits (w 56) 19 5, vl := clampVl (field (w 56) 0 8),
    vstart := bits (w 56) 8 7, lsel := bits (w 56) 24 2, sscratch := x.sscratch,
    hl0 := loopOf (field (w 40) 0 32) (field (w 48) 0 16) (field (w 48) 16 16) pc,
    hl1 := loopOf (field (w 40) 32 32) (field (w 48) 32 16) (field (w 48) 48 16) pc,
    issued := 0, resv := none, wc := none, held := false, mark := .none, again := x.again }

/-- Kill a record's task as `cont.kill` does: the record is killed and then free, a held header frees its slot, a command held with the record
is discarded, and the keys are released behind a release at `pkg` (05 R112, 09 R230, 08 R176). A record with a store or AMO that its thread has issued stays
killed until that is sent: it takes effect exactly once, and the release of the keys orders it (05 R113). -/
def State.killRec (s : State) (r : RecRef) (x : Rec) : State :=
  let c := s.coreOf r
  if x.st = .killed then s
  else if s.unsent r x then (s.putRecState r x .killed).modRec r (fun y => { y with st := .killed })
  else
  let s0 := ((s.putRecState r x .killed).putRecState r x .free).dropRec r.lc r.id
  let s1 : State := { s0 with lquads := s0.lquads.map (fun (e : Nat × LQuad) => (e.1, { e.2 with
    heldCmds := e.2.heldCmds.filter (fun h => h.2 != r), heldCopies := e.2.heldCopies.filter (fun h => h.2 != r) })) }
  let s2 := match x.heldSlot with
    | some i => if x.parked then s1 else (match (s1.slot c i).thread with
        | some t => ((s1.drainWc c t).endSection t).freeSlot c i
        | none => s1)
    | none => s1
  ((s2.keysAfter c 0 x.task).endTask x.task).wakeCore c

/-- A wait traps with the cause of its phase: resuming the record waits for the next flip (15 R304). -/
def State.trapWait (s : State) (c i : Nat) (t : Thread) (cause : Nat) (obj tok : Word) : State :=
  let lc := (s.task t.task).lc
  let s1 := s.trapAt c i t cause obj
  if t.resv.isNone ∧ (s.lcore lc).recs.length < (s1.lcore lc).recs.length then
    s1.modLcore lc (fun l => { l with recs := l.recs.dropLast ++ (l.recs.getLast?.map (fun x =>
      if x.st = .faulted then { x with again := some (t.pc, tok) } else x)).toList })
  else s1

/-- The silo address that keeps a record from being relaunched: of the record, its context block or its stream context (05 R117). -/
def State.relaunchFault (s : State) (lc : Nat) (x : Rec) : Option Word :=
  let tk := s.task x.task
  s.siloFault lc x.addr x.size <|> tk.ctx.bind (fun a => s.siloFault lc (word a) 64) <|> tk.sctx.bind (fun a => s.siloFault lc (word a) sctxSize)

/-- A thread goes on in slot `i` of core `c`; one whose task has no context block yet is given one, or is held again (05 R115, R116). -/
def State.goesOn (s : State) (c i : Nat) (t : Thread) : State :=
  let s1 := s.putThread c i t
  if (s.task t.task).ctx.isSome then s1
  else match s1.ctxWrite t.task with
    | .ok s2 => s2
    | .error u => s1.hold c i t u

/-- Relaunch a ready record in slot `i` of core `c`, which is then free, or take the trap that it carries (05 R112, 15 R302, R324). A record that
cannot be read back with its context kills its task (05 R117). The task's own CSRs come from the core's copy and not from the bytes of the context block,
which an S-mode store may have changed (01 R24, log 70). -/
def State.relaunch (s : State) (c i : Nat) (r : RecRef) (x : Rec) : State :=
  match s.relaunchFault r.lc x, s.siloGet r.lc x.addr x.size with
  | some u, _ => (s.killRec r x).logSilo c u
  | none, none => s.killRec r x
  | none, some b =>
    let t := restore x b
    let s0 := (if x.movedFrom.isSome then s.acquireL1 c else s).siloAd r.lc x.addr x.size .load
    let s1 := ((s0.putRecState r x .free).dropRec r.lc r.id).emit c 2 [i, (s.task x.task).tid, x.seq.toNat, (s.cycle c).toNat]
    match x.err with
    | some (cause, obj) =>
      let t1 := { t with pc := x.ipc, hl0 := x.ihl0, hl1 := x.ihl1, vstart := x.ivs }
      match x.want with
      | .barrier _ _ _ tok => s1.trapWait c i t1 cause obj tok
      | _ => s1.trapAt c i t1 cause obj
    | none =>
      let resv := match x.want with
        | .access a => match a.op with | .resAcq => some { va := x.obj, pa := a.arg.toNat, count := 0 } | _ => none
        | _ => none
      s1.goesOn c i { t with resv := resv }

end Sys2Proof.Machine
end

