-- ==== Sys2Proof/Machine/Home.lean ====
section
/-!
DEFINITION. The home of a location: writes in one order, monitors, mailboxes, reservations, error marks, the AMO arithmetic, and
the weighbridge channels that see a core's own writes (03 R72, 06 R125 to R142, 09 R214, R233, 11 R246, 15 R316).
-/
namespace Sys2Proof.Machine

/-! ## Weighbridge additions (03 R72, 09 R213 to R215) -/

/-- The size of a field by FMT. -/
def wbSize (fmt : Nat) : Nat := if fmt = 1 then 8 else if fmt = 2 then 2 else 4

/-- Add one field value to a channel (03 R72). -/
def Weigh.addValue (w : Weigh) (v : Nat) : Weigh :=
  let put := fun (n : Int) (lost : Bool) =>
    let w1 := if lost then { w with flush := if w.flush = 2 ^ 32 - 1 then w.flush else w.flush + 1 } else w
    if n ≥ 2 ^ 191 ∨ n ≤ -2 ^ 191 then { w with ovf := true }
    else if w.acc + n ≥ 2 ^ 191 ∨ w.acc + n < -2 ^ 191 then { w1 with ovf := true }
    else { w1 with acc := w.acc + n }
  if w.fmt = 3 then put (signedOf 32 v * 2 ^ 96) false
  else
    let f := if w.fmt = 0 then Fmt.fp32 else if w.fmt = 1 then Fmt.fp64 else Fmt.bf16
    match f.decode v with
    | .fin neg m e =>
      let k := e + 96
      let n : Nat := if 0 ≤ k then m * 2 ^ k.toNat else m / 2 ^ (-k).toNat
      let lost := k < 0 ∧ m % 2 ^ (-k).toNat ≠ 0
      put (if neg then -(n : Int) else n) lost
    | _ => { w with ovf := true }

/-- The first bytes of the fields of a channel that the bytes `lo` to `hi - 1` touch (09 R213). -/
def Weigh.fields (w : Weigh) (lo hi : Nat) : List Nat :=
  let sz := wbSize w.fmt
  let n := if w.stride = 0 then 1 else (hi - lo) / w.stride + 3
  let i0 := if w.stride = 0 then 0 else (lo - w.base - w.foff - sz) / w.stride
  ((List.range n).map (fun j => (i0 + j, w.base + (i0 + j) * w.stride + w.foff))).filterMap (fun e =>
    if e.1 * w.stride + w.foff + sz ≤ w.len ∧ e.2 < hi ∧ lo < e.2 + sz then some e.2 else none)

/-- A channel sees one write, given as bytes by virtual address (09 R214). -/
def Weigh.see (w : Weigh) (cells : List (Nat × Byte)) : Weigh :=
  if w.link.isNone then w
  else
    match cells with
    | [] => w
    | c :: _ =>
      let t : Tbl Byte := cells.foldl (fun m x => m.set x.1 x.2) []
      let lo := cells.foldl (fun m x => min m x.1) c.1
      let hi := cells.foldl (fun m x => max m (x.1 + 1)) 0
      (w.fields lo hi).foldl (fun w a =>
        let bs := (List.range (wbSize w.fmt)).map (fun i => t.find (a + i))
        if bs.all Option.isSome then w.addValue (ofBytes (bs.map (fun b => b.getD 0)))
        else if bs.any Option.isSome then { w with torn := true } else w) w

/-- A VA as the own-window address when it is the peer window of the own core (09 R214). -/
def ownVa (lc va : Nat) : Nat :=
  let b := peerBase + numOfLc lc * windowSize
  if b ≤ va ∧ va < b + windowSize then ownBase + (va - b) else va

/-- Every channel of a logical core sees the writes its threads make (09 R214). -/
def State.weigh (s : State) (lc : Nat) (writes : List (List (Nat × Byte))) : State :=
  if (s.lcore lc).wb.isEmpty then s
  else s.modLcore lc (fun l => { l with wb := l.wb.map (fun (e : Nat × Weigh) =>
    (e.1, writes.foldl (fun w x => w.see (x.map (fun c => (ownVa lc c.1, c.2)))) e.2)) })

/-! ## Monitors, mailboxes, error marks -/

/-- The cells touch the 8-byte word at `a`. -/
def touches (cells : List (Nat × Byte)) (a : Nat) : Bool := cells.any (fun c => a ≤ c.1 && c.1 < a + 8)

/-- The cells cover the `n` bytes at `a` whole. -/
def covers (cells : List (Nat × Byte)) (a n : Nat) : Bool := (List.range n).all (fun i => cells.any (fun c => c.1 == a + i))

/-- The cells have a byte among the `n` bytes at `a`. -/
def meets (cells : List (Nat × Byte)) (a n : Nat) : Bool := cells.any (fun c => a ≤ c.1 && c.1 < a + n)

/-- The write path of quad `q` holds a performed and uncommitted entry that covers a byte of the `n` bytes at `a`: a reply that would
carry its value waits (11 R247). -/
def State.uncommitted (s : State) (q a n : Nat) : Bool := (s.pquad q).path.any (fun e => e.done && meets e.cells a n)

/-- A store or posted AMO of core `c`, older than the record `id`, to a byte of the `n` bytes at `a` is not performed: reads of the core
follow it (11 R251). -/
def State.olderOwn (s : State) (c a n id : Nat) : Bool :=
  (s.pcore c).sb.any (fun e => decide (e.id < id) && match e.op with
    | .data w _ _ => meets w.cells a n
    | .amo x => decide (x.pa < a + n) && decide (a < x.pa + (if x.dbl then 8 else 4))
    | _ => false) ||
  (s.pquad (c / 4)).path.any (fun e => e.core == c && !e.done && decide (e.id < id) && meets e.cells a n)

/-- Monitors that have fired make their records ready, as an acquire at `pkg`, but for those whose value stands in an uncommitted
entry of their quad's write path (06 R129, 11 R247). -/
def State.releaseMonitors (s : State) : State :=
  let goes := fun (m : Monitor) => m.fired.isSome && !s.uncommitted (s.coreOf m.r / 4) m.pa 8
  let go := s.monitors.filter goes
  if go.isEmpty then s
  else
    let s1 := { s with monitors := s.monitors.filter (fun m => !goes m) }
    let s2 := go.foldl (fun st m => st.acquireL1 (st.coreOf m.r)) s1
    s2.readySiblings (go.map (fun m => (m.r, Reply.word_ (m.fired.getD 0))))

/-- Monitors on words that were written and are now satisfied fire with the value (06 R129). -/
def State.fireMonitors (s : State) (cells : List (Nat × Byte)) : State :=
  let fires := fun (m : Monitor) => m.fired.isNone && touches cells m.pa && m.met (word (s.readN m.pa 8))
  if s.monitors.any fires then
    State.releaseMonitors { s with monitors := s.monitors.map (fun m =>
      if fires m then { m with fired := some (word (s.readN m.pa 8)) } else m) }
  else s

/-- The logical node of partition `p` whose dispatcher takes a firing of a word whose home is node `n`: the one on that node, or
the partition's first where the home lies outside the partition (log 10). -/
def State.dispatcherOf (s : State) (p n : Nat) : Nat :=
  match (s.lnodes.filter (fun e => e.1 / 256 == p && e.2.phys == n)).head? with
  | some e => e.1
  | none => p * 256

/-- The entries of a dispatcher's inbound FIFO (14 R278). -/
abbrev inboxSize : Nat := 64

/-- Entries of the inbound FIFO of logical node `ln` that are in use or promised to a record behind a release. -/
def State.inboxUsed (s : State) (ln : Nat) : Nat :=
  (s.lnode ln).inbox.length +
  (s.pcores.map (fun e => (e.2.sb.filter (fun x => match x.op with | .submit _ n => n == ln | _ => false)).length)).sum

/-- The inbound FIFO of a logical node has room. -/
def State.inboxRoom (s : State) (ln : Nat) : Bool := s.inboxUsed ln < inboxSize

/-- An entry joins an inbound FIFO; the origin's watchdog clock runs from its first task on (14 R297). -/
def State.inboxPut (s : State) (ln : Nat) (e : Inb) : State :=
  ((s.modLnode ln (fun l => { l with inbox := l.inbox ++ [e] })).pushOnce (.dispatcherTake ln)).armWatch e.src.origin

/-- A write covers bound words whole: each firing submits the bound record, with the origin of the writer's task, or waits at its home while the
FIFO is full (09 R233, 14 R278, R297). A copy fires at its completion, and a1 is then the word as it stands there (log 56). -/
def State.fireMailboxes (s : State) (cells : List (Nat × Byte)) (origin : Option Nat) : State :=
  (s.binds.filter (fun b => covers cells b.pa 8)).foldl (fun st b =>
    let ln := st.dispatcherOf b.part (st.homeNode b.pa)
    let e : Inb := { body := b.body, src := .mailbox b.va (word (st.readN b.pa 8)) origin }
    if st.inboxRoom ln ∧ (st.lnode ln).waiters.isEmpty then st.inboxPut ln e
    else (st.modLnode ln (fun l => { l with waiters := l.waiters ++ [.firing e] })).armWatch origin) s

/-- A write that covers a line whole clears its poison, each line of the write by itself (15 R318). -/
def State.clearPoison (s : State) (cells : List (Nat × Byte)) : State :=
  { s with marks := s.marks.filter (fun e => !(e.2 == .poisoned && covers cells e.1 64)) }

/-- A write is applied at its home: memory, then the monitors and mailboxes that watch the words written (06 R128). `fire` is false
for a copy piece, whose mailboxes fire at the copy's completion (09 R233); `origin` is that of the writer's task. -/
def State.applyWrite (s : State) (cells : List (Nat × Byte)) (origin : Option Nat) (fire : Bool) : State :=
  let s1 := (s.putCells cells).markDirty cells |>.clearPoison cells
  let s2 := s1.fireMonitors cells
  if fire then s2.fireMailboxes cells origin else s2

/-! ## What holds a request back -/

/-- The line is repair-pending: the request parks in the home's fault queue (15 R316). Of the faults that 06 R127 lists, a home whose node is being
reset parks nothing, since its S die serves normally (17 R337), and no slice is harvested while the part runs (log 57). -/
def State.isParked (s : State) (pa : Nat) : Bool := s.marks.find (lineOf pa) == some .repair

/-- Entries of a home's fault queue (06 R127). -/
abbrev faultQueueSize : Nat := 256

/-- Park a request in the fault queue of its home; a full queue holds it back (06 R127, 15 R316). -/
def State.park (s : State) (pa : Nat) (ev : Instr) : State :=
  if faultQueueSize ≤ (s.parked.filter (fun e => s.homeNode e.1 == s.homeNode pa)).length then s.putBack ev
  else { s with parked := s.parked ++ [(lineOf pa, ev)] }

/-- A read of the line gives cause 31 (15 R318). -/
def State.isPoisoned (s : State) (pa : Nat) : Bool := s.marks.find (lineOf pa) == some .poisoned

/-- Whether a request to a line may be served now, by the reservation rules of 06 R142. -/
inductive Gate where
  /-- The line is free, or the request is the head of its queue. -/
  | go
  /-- It joins the queue. -/
  | wait
deriving DecidableEq, Repr

/-- The gate of a request `ev` to the line of `pa`. -/
def State.gate (s : State) (pa : Nat) (ev : Instr) : Gate :=
  match s.resvs.find? (fun r => r.pa == lineOf pa) with
  | none => .go
  | some r => if r.holder = 0 ∧ r.queue.head? = some ev then .go else .wait

/-- The request joins the queue of the line's reservation. -/
def State.enqueue (s : State) (pa : Nat) (ev : Instr) : State :=
  { s with resvs := s.resvs.map (fun r => if r.pa == lineOf pa then { r with queue := r.queue ++ [ev] } else r) }

/-- The request at the head of the line's queue has been served: the next is due (06 R142). -/
def State.served (s : State) (pa : Nat) : State :=
  match s.resvs.find? (fun r => r.pa == lineOf pa) with
  | none => s
  | some r =>
    if r.holder ≠ 0 then s
    else
      let rest := s.resvs.filter (fun o => o.pa != lineOf pa)
      match r.queue.drop 1 with
      | [] => { s with resvs := rest }
      | e :: q => { s with resvs := rest ++ [{ r with queue := e :: q }], agenda := s.agenda ++ [e] }

/-- Serve a request to a line: park it, queue it, or do `f` and look at the queue again. -/
def State.atHome (s : State) (pa : Nat) (ev : Instr) (f : State → State) : State :=
  if s.isParked pa then s.park pa ev
  else
    match s.gate pa ev with
    | .wait => s.enqueue pa ev
    | .go => (f s).served pa

/-- The request at the head of a line's queue has no issuer any more: the next is due. -/
def State.skipHead (s : State) (ev : Instr) : State :=
  match s.resvs.find? (fun r => r.holder == 0 && r.queue.head? == some ev) with
  | some r => s.served r.pa
  | none => s

/-- Serve a request to several lines: park it, queue it behind the first reservation in its way, or do `f` and look at the queue again (06
R142). -/
def State.atLines (s : State) (pas : List Nat) (ev : Instr) (f : State → State) : State :=
  match pas.find? (fun a => s.isParked a || s.gate a ev == .wait) with
  | some a => if s.isParked a then (s.skipHead ev).park a ev else (s.skipHead ev).enqueue a ev
  | none => (f s).skipHead ev

/-- A request whose reply must wait comes to its home again later, behind those that wait there. -/
def State.stepAside (s : State) (ev : Instr) : State := (s.skipHead ev).push ev

/-! ## The AMO arithmetic (06 R125) -/

/-- The new value of an AMO of `w` bits, none when a `cas` compares unequal. -/
def amoNew (op w old src cmp : Nat) : Option Nat :=
  let f := if w = 32 then Fmt.fp32 else Fmt.fp64
  let so := signedOf w old
  let ss := signedOf w src
  match op with
  | 0 => some ((old + src) % 2 ^ w)
  | 1 => some (old &&& src)
  | 2 => some (old ||| src)
  | 3 => some (old ^^^ src)
  | 4 => some (if so < ss then old else src)
  | 5 => some (if ss < so then old else src)
  | 6 => some (min old src)
  | 7 => some (max old src)
  | 8 => some src
  | 9 => if old = cmp then some src else none
  | 10 => some (fAdd f 0 old src).bits
  | 11 => some (fMinMax f true old src).bits
  | _ => some (fMinMax f false old src).bits

/-- An AMO's width in bits. -/
def amoWidth (a : AmoReq) : Nat := if a.dbl then 64 else 32

/-- An AMO performed at its home: the old value, the written value if it wrote, and the state after (06 R125). -/
def State.doAmo (s : State) (a : AmoReq) : Nat × Option Nat × State :=
  let n := (amoWidth a) / 8
  let old := s.readN a.pa n
  match amoNew a.op (amoWidth a) old (a.arg.toNat % 2 ^ (amoWidth a)) (a.cmp.toNat % 2 ^ (amoWidth a)) with
  | none => (old, none, s)
  | some v => (old, some v, s.applyWrite (cellsOf a.pa n v) (a.by_.bind (·.origin)) true)

/-- The old value as rd receives it: sign-extended. -/
def amoReply (dbl : Bool) (old : Nat) : Word := if dbl then word old else (BitVec.ofNat 32 old).signExtend 64

/-! ## Uncorrectable errors (15 R315, R316) -/

/-- Firmware writes bytes at a VA, at most 8 at a time and within an aligned doubleword, with `n` of them at most; one that does not translate is lost
(log 11). -/
def State.fwPut (satp : Word) : Nat → State → Word → List Byte → State
  | 0, s, _, _ => s
  | n + 1, s, va, b =>
    if b.isEmpty then s
    else
      let k := 8 - va.toNat % 8
      let r := s.fwPa satp va
      let s1 := match r.2 with
        | some pa => r.1.applyWrite ((b.take k).mapIdx (fun i x => (pa + i, x))) none true
        | none => r.1
      State.fwPut satp n s1 (va + word k) (b.drop k)

/-- An entry of a partition's error ring, and the count word (15 R315). The ring's entry count is not stated, and
the count word is taken to follow the ring; the ring is found through a `satp` value that the spec does not name (log 11). -/
def State.ringEntry (s : State) (p : Nat) (pa kind : Nat) (dirty : Bool) (node : Nat) (va : Word) (task : Nat) : State :=
  let n := Config.errRingEntries + 1
  let pt := s.partOf p
  if pt.errRing = 0 then s
  else
    let i := pt.errCount % n
    let w1 := kind + (if dirty then 256 else 0) + node * 2 ^ 16
    let body := ([pa, w1, va57 va, task % 2 ^ 32, 0, 0, 0, 0] : List Nat).flatMap (toBytes 8)
    let cnt := pt.errCount + 1
    let ovf := pt.errOvf || n < cnt
    let s1 := (State.fwPut pt.errSatp 64 s (pt.errRing + word (64 * i)) body).modPart p (fun q => { q with errCount := cnt, errOvf := ovf })
    State.fwPut pt.errSatp 8 s1 (pt.errRing + word (64 * n)) (toBytes 8 (cnt % 2 ^ 63 + (if ovf then 2 ^ 63 else 0)))

/-- The frame that holds `pa` has a dirty line there. -/
def State.frameDirty (s : State) (pa : Nat) : Bool :=
  match (s.pcore (pa / 2 ^ 40 % 256 * 16 + pa / 2 ^ 36 % 16)).frames.find (pa % 2 ^ 36 / pageSize) with
  | some f => f.dirty.getLsbD (pa % pageSize / 64)
  | none => false

/-- A request of `task` finds its line uncorrectable: a clean L2 line is fetched again, of which nothing shows; any other line is repair-pending and
has an entry in the error ring, of kind 1 for a dirty L2 line, 2 for an HBM line, 3 in region 0 and 4 in a frame. Which it is in region 1 is a
free choice (15 R315, R316, log 59). -/
def State.findError (s : State) (pa : Nat) (va : Word) (task : Nat) : State :=
  let region := regionOf pa
  let kind := if region = 0 then 3 else if region = 5 then 4 else s.freeN % 3
  let dirty : Bool := kind == 1 || (kind == 4 && s.frameDirty pa)
  if (s.marks.find (lineOf pa)).isSome ∨ kind = 0 then s.drew
  else { s.drew with marks := s.marks.set (lineOf pa) .repair }.ringEntry (task / 2 ^ 32) (lineOf pa) kind dirty (s.homeNode pa) va task

end Sys2Proof.Machine
end

