-- ==== Sys2Proof/Machine/Access.lean ====
section
/-!
DEFINITION. How a thread's loads, stores and AMOs are performed or deposited: the store buffer and its forwarding (11 R247 to R249),
releases and acquires by scope (06 R121, R122), yield points (01 R17 to R19), faults and partial effects (04 R94, 07 R168, R169).
-/
namespace Sys2Proof.Machine

/-! ## Issuing -/

/-- The most instructions of a reservation section (06 R141). -/
abbrev sectionLimit : Nat := 16

/-- Run `f` on the thread whose turn it is; a 17th instruction of a reservation section traps with cause 25 instead (06 R141). -/
def State.issue (s : State) (f : Thread → State) : State :=
  match s.cur with
  | none => s
  | some t =>
    match t.resv with
    | some r => if sectionLimit < r.count then s.trap t 25 r.va else f t
    | none => f t

/-- Run `f` on the thread whose turn it is at its `res.rel`, which may follow 16 instructions of the section (06 R141). -/
def State.issueRel (s : State) (f : Thread → State) : State :=
  match s.cur with
  | none => s
  | some t =>
    match t.resv with
    | some r => if sectionLimit + 1 < r.count then s.trap t 25 r.va else f t
    | none => f t

/-- Deposit the thread at a yield point whose instruction has been accepted, then do `k` with the record. Inside a reservation
section a yield point traps instead (01 R18, 06 R141). `t` holds what the instruction has written; its resume address follows. -/
def State.yieldAt (s : State) (i0 t : Thread) (wait reply : Nat) (obj : Word) (want : Want) (k : State → RecRef → State) : State :=
  match t.resv with
  | some r => s.trap i0 25 r.va
  | none =>
    let d : Dep := { st := .waiting, flt := false, all := false, reply := reply, cause := 0, wait := wait, obj := obj,
                     want := want }
    match s.deposit s.turn.1 s.turn.2 i0 t.next d with
    | (s1, some r) => k s1 r
    | (s1, none) => s1

/-! ## Scopes (06 R121, R122) -/

/-- Order the thread's earlier accesses at `scope`: a marker in the store buffer while anything is outstanding; at `sys` the
write-combining buffer drains first. `loads` and `stores` say which later accesses follow it (06 R122). -/
def State.releaseAt (s : State) (c slot : Nat) (t : Thread) (scope : Nat) (loads stores : Bool) : State :=
  let s1 := if scope = 4 then (s.drainWc c t).putThread c slot { t with wc := none } else s
  if scope = 0 ∨ !s1.outstanding c scope then s1
  else
    s1.sbPush c slot t.task (.release scope loads stores)

/-- A release at `need` or wider that `task` of logical core `lc` issued before number `n` is not complete, or a write of the core before it is
on its way: what the task hands to an engine follows it (08 R194, 09 R205). -/
def State.unreleased (s : State) (lc task n need : Nat) : Bool :=
  let c := s.physOf lc
  (s.pcore c).sb.any (fun e => e.task == task && decide (e.id < n) && match e.op with
    | .release scope _ _ => decide (need ≤ scope)
    | _ => false) ||
  (s.pquad (c / 4)).path.any (fun e => e.core == c && !e.done && (need == 4 || !e.far) && decide (e.id < n))

/-- The thread after a release: at `sys` its write-combining buffer is empty. -/
def Thread.released (t : Thread) (scope : Nat) : Thread := if scope = 4 then { t with wc := none } else t

/-- A posted AMO of `task` is under way from core `c`. -/
def State.amoOut (s : State) (c task : Nat) : Bool :=
  (s.pcore c).sb.any (fun e => e.task == task && match e.op with | .amo _ => true | _ => false) ||
  (s.pquad (c / 4)).path.any (fun e => e.core == c && e.amo == some task && !e.acked)

/-- An acquire at `scope` by a thread of core `c`. -/
def State.acquireAt (s : State) (c scope : Nat) : State := if 2 ≤ scope then s.acquireL1 c else s

/-- An ordering of `task` is still outstanding that its later loads (or stores) must follow; `any` asks for any marker. -/
def State.heldBack (s : State) (c task : Nat) (store any : Bool) : Bool :=
  (s.pcore c).sb.any (fun e => e.task == task && match e.op with
    | .release _ l st => any || (if store then st else l)
    | .acquire _ => true
    | _ => false) ||
  (s.pquad (c / 4)).path.any (fun e => match e.mark with
    | some (k, l, st) => e.core == c && k == task && (any || (if store then st else l))
    | none => false)

/-- A release of `task` at `quad` has left the store buffer of core `c`, and the entries before it have not committed (11 R250). -/
def State.quadHeld (s : State) (c task : Nat) : Bool :=
  (s.pquad (c / 4)).path.any (fun e => e.core == c && (e.mark.map (·.1)) == some task)

/-! ## Where the pieces of an access lie -/

/-- Where a piece lies, for its thread. -/
inductive Loc where
  /-- A resident page of the own window. -/
  | frame (pa : Nat)
  /-- A page of the own window that is not resident. -/
  | absent (p : PageRef)
  /-- Outside: global memory, a peer window, a device. -/
  | out (pa : Nat) (ty : MemType)
deriving DecidableEq, Repr

/-- The physical address of a location, if the byte is not in an absent page. -/
def Loc.pa? : Loc → Option Nat
  | .frame a => some a
  | .absent _ => none
  | .out a _ => some a

/-- A translation as a location for a thread of logical core `lc`. -/
def State.locOf (s : State) (lc : Nat) : Tr → Option Loc
  | .mem pa ty => some (.out pa ty)
  | .spad p off =>
    if p.lc = lc then
      match s.frameOf p with
      | some f => some (.frame (frameAddr (s.physOf p.lc) f off))
      | none => some (.absent p)
    else (s.pageByte p off).map (fun a => .out a 0)
  | _ => none

/-- What scanning the pieces found: those before the first fault, that fault, and whether a walk is needed. -/
structure Scan where
  ok : List (Piece × Loc)
  bad : Option (Piece × Nat)
  miss : Bool
deriving DecidableEq, Repr

/-- Scan pieces in ascending order; alignment before translation for each piece (04 R94). `deny` gives the access fault of the
instruction for an address it does not accept. -/
def scanWith (tr : Word → Tr) (loc : Tr → Option Loc) (k : Kind) (deny : Nat → MemType → Option Nat) : List Piece → Scan
  | [] => { ok := [], bad := none, miss := false }
  | p :: ps =>
    if p.va.toNat % p.size ≠ 0 then { ok := [], bad := some (p, if k = .store then 6 else 4), miss := false }
    else
      match tr p.va with
      | .bad c => { ok := [], bad := some (p, c), miss := false }
      | .miss => { scanWith tr loc k deny ps with miss := true }
      | r =>
        match loc r with
        | none => { ok := [], bad := some (p, k.access), miss := false }
        | some l =>
          let refused := match l with | .out pa ty => deny pa ty | _ => none
          match refused with
          | some c => { ok := [], bad := some (p, c), miss := false }
          | none => let r := scanWith tr loc k deny ps; { r with ok := (p, l) :: r.ok }

/-- No address is denied. -/
def denyNone : Nat → MemType → Option Nat := fun _ _ => none

/-- A U-mode store to a sticky error register raises cause 7 (21 R372). -/
def storeDeny (smode : Bool) : Nat → MemType → Option Nat := fun pa _ =>
  if !smode ∧ regionOf pa = 3 ∧ pa / 2 ^ 44 % 16 = 0 ∧ pa % 2 ^ 36 / 64 = 0x600 / 64 then some 7 else none

/-- Scan the pieces of an access of a thread. -/
def State.scan (s : State) (t : Thread) (k : Kind) (deny : Nat → MemType → Option Nat) (ps : List Piece) : Scan :=
  scanWith (s.threadTr t k) (s.locOf (s.task t.task).lc) k deny ps

/-! ## Reading -/

/-- The bytes of a piece as the core can give them now: buffered bytes first, then a resident frame; none where it lacks one, as it does for a
device (11 R256). -/
def State.coreBytes (s : State) (c : Nat) (wc : Option WcBuf) (p : Piece) (l : Loc) : Option (List Byte) :=
  (List.range p.size).foldr (fun i acc =>
    match acc, l.pa? with
    | some r, some pa =>
      match s.sbByte c wc (pa + i), l with
      | _, .out _ 3 => none
      | some b, .out _ _ => some (b :: r)
      | none, .out _ _ => none
      | _, _ => some (s.byteAt (pa + i) :: r)
    | _, _ => none) (some [])

/-- Buffered bytes by place in the reply, kept with a request that must leave the core. -/
def State.forwarded (s : State) (c : Nat) (wc : Option WcBuf) (l : List (Piece × Loc)) : Tbl Byte :=
  l.foldl (fun m e =>
    match e.2 with
    | .out _ 3 => m
    | .out pa _ => (List.range e.1.size).foldl (fun m i =>
        match s.sbByte c wc (pa + i) with | some b => m.set (e.1.off + i) b | none => m) m
    | _ => m) []

/-- The bytes of a mask, spread over the register. -/
def expandMask (m : PReg) : VReg :=
  (List.range 128).foldl (fun v i => if m.getLsbD i then v ||| (0xFF#1024 <<< (8 * i)) else v) 0

/-- `old` with the bytes of `m` replaced. -/
def mergeBytes (old new : VReg) (m : PReg) : VReg := (old &&& ~~~expandMask m) ||| (new &&& expandMask m)

/-- The value that an access gives its register, from the bytes gathered: a scalar is extended, a broadcast is spread
(04 R77, 07 R166). -/
def accValue (a : Acc) (got : Nat) : VReg :=
  if a.aux ≠ 0 then
    let w := a.aux.toNat
    let v : Word := if a.signed then word ((signedOf w (got % 2 ^ w)) % 2 ^ 64).toNat else word (got % 2 ^ w)
    v.setWidth 1024
  else if a.spread.isEmpty then BitVec.ofNat 1024 got
  else a.spread.foldl (fun (v : VReg) o => v ||| (BitVec.ofNat 1024 got <<< (8 * o))) 0

/-- Write a reply into a resident thread's register: 1 to 31 xn, 32 to 63 v(n - 32). -/
def Thread.putReply (t : Thread) (reply : Nat) (v : VReg) (m : PReg) : Thread :=
  if reply = 0 then t
  else if reply < 32 then t.setX (BitVec.ofNat 5 reply) (v.setWidth 64)
  else
    let r := BitVec.ofNat 5 (reply - 32)
    t.setV r (mergeBytes (t.getV r) v m)

/-- The bytes gathered from pieces, each at its place. -/
def gather (l : List (Piece × List Byte)) : Nat := l.foldl (fun n e => n + ofBytes e.2 * 2 ^ (8 * e.1.off)) 0

/-- The bytes of the register that pieces fill. -/
def pieceMask (ps : List Piece) : PReg :=
  ps.foldl (fun m p => m ||| ((BitVec.ofNat 128 (2 ^ p.size - 1)) <<< p.off)) 0

/-- An access with nothing special. -/
def Acc.plain (op : AccOp) (ps : List Piece) : Acc :=
  { op := op, pieces := ps, arg := 0, cmp := 0, dbl := false, signed := false, scope := none, nt := false, spread := [], aux := 0,
    mask := 0, fwd := [], got := 0 }

/-- The kind of translation that an access needs. -/
def AccOp.kind : AccOp → Kind
  | .store | .amo _ => .store
  | .fetch => .fetch
  | _ => .load

/-- An AMO to the 8-byte word of `pa` is still on its way from core `c` to its home. -/
def State.amoPending (s : State) (c pa : Nat) : Bool :=
  let hits : Nat → Bool := fun a => a / 8 == pa / 8
  (s.pcore c).sb.any (fun e => match e.op with | .amo a => hits a.pa | _ => false) ||
  s.agenda.any (fun i => match i with | .homeAmo a => hits a.pa && a.ack.isSome && a.src == c / 16 | _ => false)

/-- The holder of a line whose `res.rel` is on its way. -/
abbrev releasing : Nat := 2 ^ 64

/-- The line is reserved by other than `task`, or an AMO of core `c` to the word of `pa` is under way: an access to a resident page of the own
window waits, at wait kind 2, which the spec does not state (06 R142, log 55). -/
def State.lineBusy (s : State) (c pa task : Nat) : Bool :=
  s.resvs.any (fun r => r.pa == lineOf pa && r.holder != task) || s.amoPending c pa

/-- A write to the `n` bytes at `pa` is in the write path of the quad of core `c`: one of the core's own that is not performed, or one that is performed and not
committed. What the core reads there follows it (11 R247, R251). -/
def State.inPath (s : State) (c pa n : Nat) : Bool :=
  (s.pquad (c / 4)).path.any (fun e => (e.done || e.core == c) && meets e.cells pa n)

/-- An atomic access to the `n` bytes at `pa` of a frame waits: for a write there in its quad's path, or an older store of core `c` there (11 R247,
R251). -/
def State.atomBusy (s : State) (c pa n id : Nat) : Bool := s.inPath c pa n || s.olderOwn c pa n id

/-- What `lineBusy` says once the step `ev` of a waiting access has come to the head of the line's queue. -/
def State.lineBusyAt (s : State) (c pa task : Nat) (ev : Instr) : Bool :=
  s.resvs.any (fun r => r.pa == lineOf pa && r.holder != task && !(r.holder == 0 && r.queue.head? == some ev)) || s.amoPending c pa

/-- The repair-pending line that a walk for `va` would read a table entry from (15 R316). -/
def State.tableParked (s : State) (c : Nat) (satp : Word) (k : Kind) (va : Word) : Option Nat :=
  let cached : Bool := match tlbFind (s.pquad (c / 4)).tlb (field satp 44 16) va with
    | some e => adSet e.pte k
    | none => false
  if inSpadSpace va.toNat || !kx57 satp || !canonical va || cached then none else (s.tableReads satp va).find? s.isParked

/-- An instruction of thread `t` that walks the tables without a deposit is held, and issues again, while a table entry of its walk is repair-pending (15
R316). -/
def State.walkHeld (s : State) (t : Thread) (k : Kind) (vas : List Word) : Bool :=
  vas.any (fun va => (s.tableParked s.turn.1 (s.csrs (s.task t.task).lc).satp k va).isSome)

/-- An access to a resident page of the own window waits behind a reservation of its line, in arrival order (06 R142); else it is looked at
again with its page. -/
def State.waitLine (s : State) (task : Nat) (pas : List Nat) (pg : PageRef) : State :=
  let ev : Instr := .pageInComplete pg
  match pas.find? (fun a => s.resvs.any (fun r => r.pa == lineOf a && r.holder != task && !(r.holder == 0 && r.queue.head? == some ev))) with
  | none => s.pushOnce ev
  | some a =>
    { s with resvs := s.resvs.map (fun r =>
        if r.pa == lineOf a && !r.queue.contains ev then { r with queue := r.queue ++ [ev] } else r) }

/-- A store of an SC access of core `c` has not been acknowledged (06 R124). -/
def State.scPending (s : State) (c : Nat) : Bool :=
  (s.pcore c).sb.any (fun e => match e.op with | .notify _ => true | _ => false)

/-- The element at which a piece of a vector access lies. -/
def pieceElem (p : Piece) : Nat := p.off / p.size

/-- `kxvstart` at a fault of piece `p`: its element in a vector access, of which `vldb` reads its first, else what it was (07 R169). -/
def Acc.vstartAt (a : Acc) (p : Piece) (old : BitVec 7) : BitVec 7 :=
  if !a.vec then old else BitVec.ofNat 7 (match a.spread with | o :: _ => o / p.size | [] => pieceElem p)

/-- A load trigger, a store trigger or an execute trigger of core `c` matches (21 R367). -/
def State.triggerHit (s : State) (c : Nat) (k : Kind) (smode : Bool) (va : Word) : Bool :=
  (s.pcore c).triggers.any (fun g => g.2.addr == va && (if smode then g.2.super else g.2.user) &&
    (match k with | .fetch => g.2.execute | .load => g.2.load | .store => g.2.store))

/-- The core halts at the instruction, which has not taken effect (21 R367, R370 cause 2 trigger). -/
def State.haltAt (s : State) (c cause : Nat) : State :=
  (s.modPcore c (fun p => { p with halted := true, dcause := cause })).emit c 4 [cause, (s.cycle c).toNat]

/-- The first page of the pieces that is not resident. -/
def firstAbsent (l : List (Piece × Loc)) : Option PageRef :=
  (l.find? (fun e => match e.2 with | .absent _ => true | _ => false)).bind (fun e => match e.2 with
    | .absent p => some p
    | _ => none)

/-- A piece in a resident page of the own window meets an older store of core `c`, by another address of the frame, that is not performed: the
store follows it (11 R251). -/
def State.ownUnder (s : State) (c id : Nat) (l : List (Piece × Loc)) : Bool :=
  l.any (fun e => match e.2 with | .frame pa => s.olderOwn c pa e.1.size id | _ => false)

/-- Pieces in resident pages of the own window meet a bound word: the write that fires a mailbox is a release of its thread, at `pkg` (09 R233, 14 R295). -/
def State.firesAt (s : State) (l : List (Piece × Loc)) : Bool :=
  s.binds.any (fun b => l.any (fun e => match e.2 with
    | .frame pa => decide (pa < b.pa + 8) && decide (b.pa < pa + e.1.size)
    | _ => false))

/-- The pieces that lie in the own window. -/
def ownOf (l : List (Piece × Loc)) : List (Piece × Loc) := l.filter (fun e => match e.2 with | .out _ _ => false | _ => true)

/-- Every piece lies in the own window. -/
def allOwn (l : List (Piece × Loc)) : Bool := l.all (fun e => match e.2 with | .out _ _ => false | _ => true)

/-- The page that a record at wait kind 2 waits on: the first absent one, or that of its first piece. -/
def waitPage (lc launch : Nat) (l : List (Piece × Loc)) : PageRef :=
  (firstAbsent l).getD (pageAt lc launch (((l.head?).map (fun e => windowOff lc e.1.va.toNat)).getD 0))

/-- The bytes of every piece, where the core holds them all. -/
def State.allBytes (s : State) (c : Nat) (wc : Option WcBuf) (l : List (Piece × Loc)) : Option (List (Piece × List Byte)) :=
  l.foldr (fun e acc => match acc, s.coreBytes c wc e.1 e.2 with
    | some r, some b => some ((e.1, b) :: r)
    | _, _ => none) (some [])

/-- The physical core whose frame a PA of region 5 names. -/
def coreOfPa (pa : Nat) : Nat := pa / 2 ^ 40 % 256 * 16 + pa / 2 ^ 36 % 16

/-- A thread of logical core `lc` touches the pages of its own core that an access meets; an access to the window of a core folded onto the same
physical core is a peer access and touches none (11 R239). -/
def State.touch (s : State) (lc : Nat) (pas : List Nat) : State :=
  s.modPcore (s.physOf lc) (fun p => { p with frames := p.frames.map (fun (e : Nat × Frame) =>
    if e.2.page.lc == lc && pas.any (fun a => regionOf a == 5 && coreOfPa a == s.physOf lc && a % 2 ^ 36 / pageSize == e.1) then
      (e.1, { e.2 with touch := s.clock + 1 })
    else e) })

/-- What the thread does with the bytes once it has them without a deposit. -/
abbrev OnBytes := State → Thread → Nat → State

/-- A read by the thread whose turn it is: `a` describes the access and `reply` its register. It completes from what the core
holds (`done`), deposits, or traps, with `part` done for the pieces before a fault; `after` is the thread once the instruction is accepted. A load
of the own window waits at kind 2, every other at kind `kind`, which is 1 but for a `task.sub` that finds its FIFO full; a record or descriptor that some byte keeps out of the resident pages at kind 1 (01 R17, R18, 05 R102, 07
R168, R169, 11 R248). A load of a parked or poisoned line of the own window waits at kind 1, which the spec does not state, and one whose elements before
a fault lie in absent own pages at kind 2 (log 55). -/
def State.readPath (s : State) (t after : Thread) (reply : Nat) (a : Acc) (deny : Nat → MemType → Option Nat) (obj : Word)
    (done : OnBytes) (part : Nat → State → State := fun _ s => s) (kind : Nat := 1) : State :=
  let c := s.turn.1
  let k := a.op.kind
  if a.pieces.any (fun p => s.triggerHit c k t.smode p.va) then s.haltAt c 2
  else
    let r := s.scan t k deny a.pieces
    let sc := a.op == .load && a.arg == 1 && s.scPending c && !allOwn r.ok
    let back := s.heldBack c t.task false false
    let fwd := if sc || back then [] else s.forwarded c t.wc r.ok
    match r.bad, r.ok, r.miss with
    | _, _, true => s.yieldAt t after kind reply obj (.access { a with fwd := fwd }) (fun s r => s.push (.tlbWalkComplete r))
    | some (p, cause), [], false => s.trap { t with vstart := a.vstartAt p t.vstart } cause p.va
    | bad, ok, false =>
      let a1 := { a with fwd := fwd, fault := bad, pieces := if bad.isSome then ok.map (·.1) else a.pieces }
      let held := (sc || back) && !ok.isEmpty
      let busy := ok.any (fun e => match e.2 with | .frame pa => s.lineBusy c pa t.task || s.inPath c pa e.1.size | _ => false)
      let poison := ok.any (fun e => match e.2 with | .frame pa => s.isPoisoned pa || s.isParked pa | _ => false)
      let now := if held || busy || poison then none else s.allBytes c t.wc ok
      match now with
      | some l =>
        let s1 := s.touch (s.task t.task).lc (ok.filterMap (fun e => e.2.pa?))
        match bad with
        | none => done s1 t (gather l)
        | some (p, cause) =>
          let t1 := t.putReply reply (accValue a (gather l)) (pieceMask (ok.map (·.1)))
          (part ok.length s1).trap { t1 with vstart := a.vstartAt p t.vstart } cause p.va
      | none =>
        if allOwn ok && !poison && a.op == .load then
          s.yieldAt t after 2 reply obj (.access a1) (fun s r => match firstAbsent ok with
            | some pg => s.pushOnce (.pageInComplete pg)
            | none => s.push (.homeRequest r))
        else s.yieldAt t after kind reply obj (.access a1) (fun s r => s.push (.homeRequest r))

/-! ## Writing -/

/-- One write within an aligned 64-byte line: the VA of its first byte and its bytes, each with its distance from that one. -/
structure Chunk where
  va : Word
  data : List (Nat × Byte)
  loc : Loc
  /-- It goes one at a time, after the core's earlier ones: a device store, or an element of uncached memory (07 R167, 11 R256). -/
  one : Bool
  /-- The pieces it is made of. -/
  count : Nat
deriving DecidableEq, Repr

/-- A piece as a chunk; `vec`: it is an element of a vector store. -/
def chunkOf (vec : Bool) (e : Piece × Loc) : Chunk :=
  { va := e.1.va, data := (toBytes e.1.size e.1.data).mapIdx (fun i b => (i, b)), loc := e.2, count := 1,
    one := match e.2 with | .out _ ty => ty == 3 || (vec && ty == 1) | _ => false }

/-- Pieces as chunks; with `merge` (a unit access) those of one aligned 64-byte line join, whatever inactive elements lie between them, but for
uncached and device elements (07 R167). -/
def chunks (merge vec : Bool) (l : List (Piece × Loc)) : List Chunk :=
  l.foldl (fun acc e =>
    let x := chunkOf vec e
    match acc.getLast? with
    | some c =>
      let alike : Bool := match e.2, c.loc with
        | .frame _, .frame _ => true
        | .absent _, .absent _ => true
        | .out _ t, .out _ u => t == u && !x.one
        | _, _ => false
      if merge && alike && c.va.toNat ≤ x.va.toNat && lineOf c.va.toNat == lineOf x.va.toNat then
        acc.dropLast ++ [{ c with data := c.data ++ x.data.map (fun d => (x.va.toNat - c.va.toNat + d.1, d.2)), count := c.count + 1 }]
      else acc ++ [x]
    | none => acc ++ [x]) []

/-- The cells of bytes at `pa`. -/
def chunkCells (pa : Nat) (b : List Byte) : List (Nat × Byte) := b.mapIdx (fun i x => (pa + i, x))

/-- The cells of a chunk at `pa`. -/
def Chunk.cells (x : Chunk) (pa : Nat) : List (Nat × Byte) := x.data.map (fun d => (pa + d.1, d.2))

/-- Store-buffer entries of the 16 in use; markers take none (11 R237). -/
def State.sbUsed (s : State) (c : Nat) : Nat :=
  ((s.pcore c).sb.filter (fun e => match e.op with | .data _ _ _ => true | .amo _ => true | _ => false)).length

/-- The entries of the store buffer. -/
abbrev sbSize : Nat := 16

/-- A chunk needs a store-buffer entry. -/
def Chunk.needs (c : Chunk) : Bool := match c.loc with | .out _ 2 => false | .out _ _ => true | _ => false

/-- A store to write-combining memory: the bytes merge into the thread's buffer, which drains when the line changes or fills
(11 R255). -/
def State.wcStore (s : State) (c slot : Nat) (task : Nat) (wc : Option WcBuf) (va : Word) (cells : List (Nat × Byte)) :
    State × Option WcBuf :=
  match cells with
  | [] => (s, wc)
  | x :: _ =>
    let same : Bool := match wc with
      | some b => (b.cells.head?).map (fun y => lineOf y.1) == some (lineOf x.1)
      | none => false
    let s1 := match wc with
      | some b => if same then s else s.pathSend c task b.va b.cells none
      | none => s
    let base : WcBuf := match wc with | some b => if same then b else { cells := [], va := va } | none => { cells := [], va := va }
    let b : WcBuf := { base with cells := cells.foldl (fun (m : Tbl Byte) y => m.set y.1 y.2) base.cells }
    if b.cells.length = 64 then (s1.pathSend c task b.va b.cells none, none)
    else (s1.pushOnce (.wcBufferTimeout c slot), some b)

/-- A write that a task of core `c` makes. -/
def State.writeOf (s : State) (c task : Nat) (va : Word) (cells : List (Nat × Byte)) : WriteReq :=
  { cells := cells, ack := none, src := c / 16, va := va, task := task, rel := none, by_ := s.issuerOf task }

/-- Perform one chunk: in the frame, at the backing line of a page that is not resident, in the write-combining buffer or into the store buffer. -/
def State.putChunk (s : State) (c slot task : Nat) (nt : Bool) (wc : Option WcBuf) (x : Chunk) : State × Option WcBuf :=
  match x.loc with
  | .frame pa => (s.applyWrite (x.cells pa) (s.task task).origin true, wc)
  | .absent p => match s.pageByte p (x.va.toNat % pageSize) with
    | some pa => (s.applyWrite (x.cells pa) (s.task task).origin true, wc)
    | none => (s, wc)
  | .out pa ty =>
    if ty = 2 then s.wcStore c slot task wc x.va (x.cells pa)
    else (s.sbPush c slot task (.data (s.writeOf c task x.va (x.cells pa)) nt x.one), wc)

/-- Perform several chunks in order. -/
def State.putChunks (s : State) (c slot task : Nat) (nt : Bool) (wc : Option WcBuf) (l : List Chunk) : State × Option WcBuf :=
  l.foldl (fun st x => st.1.putChunk c slot task nt st.2 x) (s, wc)

/-- The writes of chunks by virtual address, as a weighbridge sees them. -/
def chunkWrites (unit : Bool) (l : List Chunk) : List (List (Nat × Byte)) :=
  let w := l.map (fun x => x.cells x.va.toNat)
  if unit then [w.flatten] else w

/-- The thread has made its stores: they are seen by the weighbridges and performed. -/
def State.storeNow (s : State) (t : Thread) (nt unit vec : Bool) (l : List (Piece × Loc)) : State × Option WcBuf :=
  let cs := chunks unit vec l
  let s1 := (s.weigh (s.task t.task).lc (chunkWrites unit cs)).touch (s.task t.task).lc (l.filterMap (fun e => e.2.pa?))
  s1.putChunks s.turn.1 s.turn.2 t.task nt t.wc cs

/-- A posted store by the thread whose turn it is; `after` is the thread once it completes, `rel` says that a release of
its own precedes it, `unit` that its pieces form one access, and `part` is done with the number of pieces performed (01 R19, 11 R248, 07 R168, R169). One to a
resident page of the own window whose line is held waits at kind 2, which the spec does not state, and one that misses the TLB and also touches an absent
own page at kind 1 (log 55). -/
def State.writePath (s : State) (t after : Thread) (a : Acc) (unit rel : Bool)
    (part : Nat → State → State := fun _ s => s) : State :=
  let c := s.turn.1
  let tk := s.task t.task
  if a.pieces.any (fun p => s.triggerHit c .store t.smode p.va) then s.haltAt c 2
  else
    let r := s.scan t .store (storeDeny t.smode) a.pieces
    let needs := fun (l : List (Piece × Loc)) => ((chunks unit a.vec l).filter Chunk.needs).length
    let ownPage := fun (l : List (Piece × Loc)) => waitPage tk.lc tk.launch (ownOf l)
    let ownPas := fun (l : List (Piece × Loc)) => (ownOf l).filterMap (fun e => e.2.pa?)
    let waits := fun (l : List (Piece × Loc)) =>
      (firstAbsent l).isSome || (ownPas l).any (fun pa => s.lineBusy c pa t.task || s.isParked pa) || s.ownUnder c s.nextId (ownOf l) ||
        (s.firesAt (ownOf l) && s.outstanding c 3) || (!(ownOf l).isEmpty && s.heldBack c t.task true rel)
    let full := fun (l : List (Piece × Loc)) => needs l ≠ 0 ∧ sbSize < s.sbUsed c + needs l
    let wait := fun (s : State) (n : Nat) (k : State → RecRef → State) =>
      s.yieldAt t after n 0 (((a.pieces.head?).map (·.va)).getD 0) (.access { a with signed := unit }) k
    match r.bad with
    | some (p, cause) =>
      if r.miss then wait s 1 (fun s r => s.push (.tlbWalkComplete r))
      else if r.ok.isEmpty then s.trap { t with vstart := a.vstartAt p t.vstart } cause p.va
      else if waits r.ok then wait s 2 (fun s _ => s.waitLine t.task (ownPas r.ok) (ownPage r.ok))
      else if full r.ok then wait s 1 (fun s _ => s.pushOnce (.storeBufferLeave c))
      else
        let (s1, wc) := s.storeNow t a.nt unit a.vec r.ok
        (part r.ok.length s1).trap { t with wc := wc, vstart := a.vstartAt p t.vstart } cause p.va
    | none =>
      if r.miss then wait s 1 (fun s r => s.push (.tlbWalkComplete r))
      else
        if waits r.ok then wait s 2 (fun s _ => s.waitLine t.task (ownPas r.ok) (ownPage r.ok))
        else if full r.ok then wait s 1 (fun s _ => s.pushOnce (.storeBufferLeave c))
        else
          let (s1, wc) := s.storeNow t a.nt unit a.vec r.ok
          (part r.ok.length s1).retire { after with wc := wc }

/-- The 64-byte line at `pa` as the core sees it. -/
def State.seenLine (s : State) (c pa : Nat) : Line := BitVec.ofNat 512 (ofBytes ((List.range 64).map (fun i => s.seenByte c (pa + i))))

/-! ## I-caches (09 R224) -/

/-- The physical cores of a thread's instance of a scope; `sys` acts as `pkg`. -/
def State.coresIn (s : State) (lc scope : Nat) : List Nat :=
  let l := match scope with
    | 0 => [lc]
    | 1 => coresOfQuad (lc / 4)
    | 2 => coresOfNode (lc / 16)
    | _ => (List.range (s.lcount (partOfLc lc))).map (fun i => partOfLc lc * 4096 + i)
  (l.map s.physOf).eraseDups
/-- The physical quads of a scope. -/
def State.quadsIn (s : State) (lc scope : Nat) : List Nat := ((s.coresIn lc scope).map (· / 4)).eraseDups

/-- The I-cache of core `c` is invalidated; pinned lines are fetched again (09 R224). -/
def State.invIcache (s : State) (c : Nat) : State :=
  s.modPcore c (fun p => { p with icache := p.ipins.foldl (fun (m : Tbl Line) a => m.set a (s.seenLine c a)) [], isync := true })

/-- `tlb.inv` with operand `v` removes an entry, for the current ASID `asid` (09 R227). -/
def tlbGoes (v : Word) (asid : Nat) (e : TlbEnt) : Bool :=
  if v.getLsbD 0 then true
  else if v.getLsbD 1 then e.asid == asid && bits e.pte 5 1 == 0
  else (e.asid == asid || bits e.pte 5 1 == 1) && e.base == va57 v / e.size * e.size

/-- The TLBs of a thread's instance of a scope lose the entries that `tlb.inv` names (09 R227). -/
def State.invTlbs (s : State) (v : Word) (asid lc scope : Nat) : State :=
  let keep := fun (l : List TlbEnt) => l.filter (fun e => !tlbGoes v asid e)
  let s1 := (s.coresIn lc scope).foldl (fun st c => st.modPcore c (fun p => { p with tlb := keep p.tlb })) s
  (s.quadsIn lc scope).foldl (fun st q => st.modPquad q (fun p => { p with tlb := keep p.tlb })) s1

/-- The I-caches of a scope are invalidated for a thread of core `c` (09 R224). -/
def State.invScope (s : State) (c lc scope : Nat) : State :=
  let s1 := (s.coresIn lc scope).foldl State.invIcache s
  if scope = 0 then s1
  else (s.quadsIn lc scope).foldl (fun st q => st.modPquad q (fun p =>
    { p with icache := p.ipins.foldl (fun (m : Tbl Line) a => m.set a (s.seenLine c a)) [] })) s1

/-! ## Pages of the own window (11 R239) -/

/-- A frame number not in use. -/
def PCore.freeFrame (p : PCore) : Option Nat := (List.range 32).find? (fun f => (p.frames.find f).isNone)

/-- The unpinned frame touched least recently. -/
def PCore.victim (p : PCore) : Option (Nat × Frame) :=
  (p.frames.filter (fun e => !e.2.pinned)).foldl (fun b e => match b with
    | none => some e
    | some x => if e.2.touch < x.2.touch then some e else b) none

/-- Make a page resident, evicting the least recently touched unpinned page when no frame is free (11 R239). -/
def State.pageIn (s : State) (p : PageRef) : State :=
  let c := s.physOf p.lc
  if (s.frameOf p).isSome then s
  else
    let s1 := match (s.pcore c).freeFrame with
      | some _ => s
      | none => match (s.pcore c).victim with
        | some (f, fr) => s.evictFrame c f fr
        | none => s
    match (s1.pcore c).freeFrame with
    | none => s1
    | some f =>
      let cells := (List.range 256).flatMap (fun i =>
        match s1.backing p (64 * i) with
        | some b => (s1.bytesAt b 64).mapIdx (fun j x => (frameAddr c f (64 * i + j), x))
        | none => [])
      let fr : Frame := { page := p, pinned := false, touch := s1.clock + 1, dirty := 0 }
      ((s1.movePage c f p true).putCells cells).modPcore c (fun q => { q with frames := q.frames.set f fr })

end Sys2Proof.Machine
end

