-- ==== Sys2Proof/Machine/Operands.lean ====
section
/-!
DEFINITION. The operand forms of the instructions: elements of vector registers, activity, the scalar operand of `.vx` forms, and the
ways results are written (07 R152 to R154, 04 R91).
-/
namespace Sys2Proof.Machine

/-- The bytes of an element at width code `ew`. -/
abbrev ewBytes (ew : BitVec 2) : Nat := 2 ^ ew.toNat
/-- The bits of an element. -/
abbrev ewBits (ew : BitVec 2) : Nat := 8 * 2 ^ ew.toNat

/-- Element `i` of a register at width code `ew` (01 R21). -/
def elem (v : VReg) (ew : BitVec 2) (i : Nat) : Nat := field v (ewBits ew * i) (ewBits ew)

/-- `v` with element `i` replaced by the low bits of `x`. -/
def setElem (v : VReg) (ew : BitVec 2) (i x : Nat) : VReg :=
  (v &&& ~~~(BitVec.ofNat 1024 (2 ^ ewBits ew - 1) <<< (ewBits ew * i))) |||
    (BitVec.ofNat 1024 (x % 2 ^ ewBits ew) <<< (ewBits ew * i))

/-- Element `i` is active under predicate `pg` (07 R152). -/
def Thread.active (t : Thread) (ew : BitVec 2) (pg : BitVec 2) (i : Nat) : Bool :=
  i * ewBytes ew < t.vl.toNat && (t.getP pg.toNat).getLsbD (ewBytes ew * i) && i < elems ew

/-- Active elements receive `g`; every other element keeps its old value (07 R153). -/
def mapElems (old : VReg) (ew : BitVec 2) (act : Nat → Bool) (g : Nat → Nat) : VReg :=
  (List.range (elems ew)).foldl (fun v i => if act i then setElem v ew i (g i) else v) old

/-- The predicate whose bit b·i is `g i` for active i; every other bit is 0 (07 R153). -/
def mapPred (ew : BitVec 2) (act : Nat → Bool) (g : Nat → Bool) : PReg :=
  (List.range (elems ew)).foldl (fun v i => if act i && g i then v ||| (1#128 <<< (ewBytes ew * i)) else v) 0

/-- The flags of the active elements together (03 R59). -/
def orFlags (ew : BitVec 2) (act : Nat → Bool) (g : Nat → Flags) : Flags :=
  (List.range (elems ew)).foldl (fun f i => if act i then f ||| g i else f) 0

/-- The scalar operand of a `.vx` form: the low bits of the x register in the vs1 field (07 R154). -/
def Thread.scalar (t : Thread) (ew : BitVec 2) (r : Reg) : Nat := (t.getX r).toNat % 2 ^ ewBits ew

/-- The thread after a vector instruction that completes: `kxvstart` is 0 (07 R153). -/
def Thread.vdone (t : Thread) : Thread := { t with vstart := 0 }

/-- The sign-extended offset of a branch, from bits [12:1]. -/
def branchOff (imm : BitVec 12) : Word := (imm ++ 0#1).signExtend 64

/-- The sign-extended offset of `jal`, from bits [20:1]. -/
def jumpOff (imm : BitVec 20) : Word := (imm ++ 0#1).signExtend 64

/-- A sign-extended 12-bit immediate (04 R80). -/
def imm12 (imm : BitVec 12) : Word := imm.signExtend 64

/-- The 32-bit word of an instruction as OBJ of cause 2: the word, zero-extended (15 R304). -/
def wordOf (i : Instr) : Word := ((encode i).getD 0).setWidth 64

/-- Illegal instruction: cause 2 with the word in OBJ (04 R93). -/
def State.illegal (s : State) (t : Thread) (i : Instr) : State := s.trap t 2 (wordOf i)

end Sys2Proof.Machine
end

