-- ==== Sys2Proof/Machine/Boundary.lean ====
section
/-!
DEFINITION. What a step does around an instruction: whose turn it is, fetching its word through the I-cache, what is decided at the
instruction boundary, the lanes of the steps that are due, and placing a program's first instruction (01 R13, R20, 04 R95, 15 R306).
-/
namespace Sys2Proof.Machine

/-- A move of the machine: the issue of a slot, a step on the agenda, or a step on the agenda that finds its line uncorrectable and stays due. -/
inductive Move where
  | issue (p : Nat × Nat)
  | event (n : Nat)
  | error (n : Nat)
deriving DecidableEq, Repr

/-- A slot can issue: it holds a thread that is not held (01 R13, 05 R116). -/
def Slot.issues (x : Slot) : Bool := match x.thread with | some t => !t.held | none => false

/-- The places that can issue: core and slot, on cores that are not halted or fenced (14 R298, 21 R368). -/
def State.places (s : State) : List (Nat × Nat) :=
  s.pcores.flatMap (fun e =>
    if e.2.halted || e.2.fenced then []
    else (e.2.slots.filter (fun x => x.2.issues)).map (fun x => (e.1, x.1)))

/-- How far a place lies after the turn: slots in order, cores in order within one slot. -/
def turnDist (turn p : Nat × Nat) : Nat :=
  let k := fun (x : Nat × Nat) => x.2 * 8192 + x.1
  if k turn ≤ k p then k p - k turn else k p + 8 * 8192 - k turn

/-- Slot i issues on the cycles congruent to i mod 8 (01 R13): the cycles from one slot's turn to another's. -/
def turnCycles (turn p : Nat × Nat) : Nat :=
  if turn.2 * 8192 + turn.1 ≤ p.2 * 8192 + p.1 then p.2 - turn.2 else 8 + p.2 - turn.2

/-- An issue that comes a rotation later: the first instruction of a task of an ordered launch, which would issue in the cycle of its predecessor's (14
R296), one before its core's cycle counter, set to 0 at a multiple of 8 cycles, has started (01 R13, R27), or one in a rotation that the throttle of its
region takes (22 R389). -/
def State.firstLate (s : State) (p : Nat × Nat) : Bool :=
  let at_ := s.clock + turnCycles s.turn p
  decide (s.cyclesAt p.1 at_ < (s.pcore p.1).cycleBase) || s.skips p.1 at_ ||
  match (s.slot p.1 p.2).thread with
  | none => false
  | some t =>
    let tk := s.task t.task
    let l := s.launch (launchKey tk.part tk.launch)
    decide (t.issued = 0) && l.ordered && decide (0 < l.turn) && decide (l.turn ≤ tk.idx.toNat) && l.turnAt == at_

/-- How far the issue of a place lies ahead. -/
def State.placeDist (s : State) (p : Nat × Nat) : Nat := turnDist s.turn p + if s.firstLate p then 8 * 8192 else 0

/-- The place whose turn comes next. -/
def State.nextPlace (s : State) : Option (Nat × Nat) :=
  s.places.foldl (fun b p => match b with
    | none => some p
    | some q => if s.placeDist p < s.placeDist q then some p else b) none

/-- It is the turn of `p`. -/
def State.takeTurn (s : State) (p : Nat × Nat) : State :=
  { s with turn := p, clock := s.clock + turnCycles s.turn p + if s.firstLate p then 8 else 0 }

/-- A core that was resumed under dcsr.step halts again after one instruction, with cause 4 (21 R366, log 16). -/
def State.stepHalt (s : State) (c : Nat) : State :=
  let p := s.pcore c
  if p.stepping && !p.halted then (s.haltAt c 4).modPcore c (fun x => { x with stepping := false }) else s

/-- The turn passes to the next core. -/
def State.endTurn (s : State) : State := { s.stepHalt s.turn.1 with turn := (s.turn.1 + 1, s.turn.2) }

/-- Nothing is due and no slot can issue: a rotation of bubbles. -/
def State.idle (s : State) : State := { s with clock := s.clock + 8 }

/-! ## The boundary (01 R16, R20) -/

/-- A logical core has work waiting: a ready record, a deque entry or a pending S-mode task. -/
def LCore.waiting (l : LCore) : Bool := !l.ready.isEmpty || !l.deque.isEmpty || !l.pendS.isEmpty

/-- The thread whose turn it is is killed at this boundary (14 R298). -/
def State.mustDie (s : State) : Bool := match s.cur with | some t => t.mark == .kill | none => false

/-- The thread whose turn it is takes a forced yield; a reservation section defers it (01 R20, 06 R141, 14 R298). -/
def State.mustYield (s : State) : Bool :=
  match s.cur with
  | none => false
  | some t =>
    let ls := (s.hosted s.turn.1).map s.lcore
    t.resv.isNone &&
      (t.mark == .yield || ((s.csrs (s.task t.task).lc).kxrq.toNat ≤ t.issued && ls.any LCore.waiting) ||
       (!t.smode && s.turn.2 == 7 && s.keeps s.turn.1))

/-- The instruction issues: the thread's count and its section's count go up, and an ordered launch's turn moves on at a task's first
instruction (01 R20, 06 R141, 14 R296). -/
def State.begin (s : State) : State :=
  match s.cur with
  | none => s
  | some t =>
    let t1 := { t with issued := t.issued + 1, resv := t.resv.map (fun r => { r with count := r.count + 1 }),
                       again := t.again.bind (fun a => if a.1 = t.pc then some a else none) }
    let s1 := s.putCur t1
    let tk := s.task t.task
    let key := launchKey tk.part tk.launch
    if t.issued = 0 ∧ tk.launch ≠ 0 ∧ (s.launch key).ordered ∧ (s.launch key).turn ≤ tk.idx.toNat then
      let s2 := s1.modLaunch key (fun l => { l with turn := tk.idx.toNat + 1, turnAt := s.clock })
      s2.lcores.foldl (fun st e => if e.2.deque.isEmpty then st else st.wakeCore e.2.phys) s2
    else s1

/-! ## Fetch (04 R74, R95) -/

/-- What a fetch gives: the word, or the state after a trap, a deposit or a halt. -/
inductive Fetched where
  | word (w : BitVec 32)
  | stop (s : State)
deriving DecidableEq, Repr

/-- The thread deposits at a fetch: its resume PC is the instruction that missed (04 R95). -/
def State.fetchYield (s : State) (t : Thread) : State :=
  match t.resv with
  | some r => s.trap t 25 r.va
  | none =>
    let a := Acc.plain .fetch [{ off := 0, va := t.pc, size := 4, data := 0 }]
    let d : Dep := { st := .waiting, flt := false, all := false, reply := 0, cause := 0, wait := 3, obj := t.pc,
                     want := .access a }
    match s.deposit s.turn.1 s.turn.2 t t d with
    | (s1, some r) => s1.push (.icacheFill r)
    | (s1, none) => s1

/-- Fetch the word at the PC of the thread whose turn it is, through the core's I-cache. -/
def State.fetch (s : State) : Fetched :=
  match s.cur with
  | none => .stop s
  | some t =>
    let c := s.turn.1
    if bits t.pc 0 2 ≠ 0 then .stop (s.trap t 0 t.pc)
    else if s.triggerHit c .fetch t.smode t.pc then .stop (s.haltAt c 2)
    else
      match s.threadTr t .fetch t.pc with
      | .bad cause => .stop (s.trap t cause t.pc)
      | .mem pa _ =>
        match (s.pcore c).icache.find (lineOf pa) with
        | some l => .word (bits l (8 * (pa % 64)) 32)
        | none => .stop (s.fetchYield t)
      | .spad _ _ => .stop (s.trap t 1 t.pc)
      | .miss => .stop (s.fetchYield t)

/-! ## Moves -/

/-- The fixed function of 14 R283 on a 32-bit value. -/
def mix (k : BitVec 32) : BitVec 32 :=
  let h := k * 0x9E3779B1#32
  let h := h ^^^ (h >>> 15)
  let h := h * 0x85EBCA77#32
  h ^^^ (h >>> 13)

/-- The nodes of a partition that are ADMITTED, ascending. -/
def State.admitted (s : State) (p : Nat) : List Nat :=
  ((s.partOf p).nodes.filter (fun n => (s.pnode n).st == .admitted)).mergeSort

/-- The home of a key (14 R283). -/
def State.keyHome (s : State) (p key : Nat) : Nat :=
  let a := s.admitted p
  a.getD ((mix (BitVec.ofNat 32 (key % 2 ^ 31))).toNat % a.length) 0

/-! ## Tree registers (19 R360) -/

/-- Word `i` of TREE[t] of a node. -/
def State.treeWord (s : State) (node t i : Nat) : Word := (s.pnode node).trees.get (if i = 1 then 1000 else 0) (2 * t + i)
/-- LOCAL. -/
def State.treeLocal (s : State) (node t : Nat) : List Nat := (List.range 16).filter (fun c => (s.treeWord node t 0).getLsbD c)
/-- The children in use, in child-index order. -/
def State.treeKids (s : State) (node t : Nat) : List Nat :=
  (List.range (field (s.treeWord node t 0) 16 3)).map (fun i => field (s.treeWord node t 0) (32 + 8 * i) 8)
/-- PARENT. -/
def State.treeParent (s : State) (node t : Nat) : Nat := field (s.treeWord node t 0) 24 8

/-- Steps that the machine delivers in order share a lane: writes and AMOs to one line (06 R128), the key messages between one
dispatcher and one key home in each direction (16 R323), the operations on one barrier object (06 R134), the messages of one channel (06 R146), the
partials that come over one child link of a node (19 R361), and
everything that one unit does in turn. Other steps share no lane. -/
def State.laneOf (s : State) (i : Instr) : Option (Nat × Nat × Nat) :=
  let keys := fun (m : KeyMsg) => if m.key = 0 then 256 else s.keyHome m.part m.key
  match i with
  | .homeWrite w => ((w.cells.head?).map (·.1) <|> w.rel).map (fun a => if regionOf a = 3 then (10, w.task, 0) else (1, lineOf a, 0))
  | .relayPacket _ _ w => ((w.cells.head?).map (·.1) <|> w.rel).map (fun a => if regionOf a = 3 then (10, w.task, 0) else (1, lineOf a, 0))
  | .homeAmo a => some (1, lineOf a.pa, 0)
  | .keyRequest m => some (2, m.disp, keys m)
  | .keyRelease m => some (2, m.disp, keys m)
  | .keyGrant m => some (3, m.disp, keys m)
  | .barrierInitApply ⟨b, _⟩ _ _ => some (4, b.level * 65536 + b.index, b.owner)
  | .barrierArrivalApply ⟨b, _⟩ _ _ => some (4, b.level * 65536 + b.index, b.owner)
  | .channelElementsArrive c _ => some (5, c.part * 2 ^ 32 + c.src * 65536 + c.dst, c.tag)
  | .channelCloseArrives c => some (5, c.part * 2 ^ 32 + c.src * 65536 + c.dst, c.tag)
  | .channelCreditReturn c _ => some (6, c.part * 2 ^ 32 + c.src * 65536 + c.dst, c.tag)
  | .reductionInput r =>
    if r.from_ < 16 then some (7, r.node * 65536 + r.tree, r.tag * 32 + r.from_)
    else some (11, r.node, (s.treeKids r.node r.tree).getD (r.from_ - 16) 0)
  | .dispatcherTake n => some (8, n, 0)
  | .storeBufferLeave c => some (9, c, 0)
  | _ => none

/-- The first step on the agenda that shares the lane of step `n`. -/
def State.laneHead (s : State) (n : Nat) : Nat :=
  match s.agenda[n]? with
  | none => n
  | some i =>
    match s.laneOf i with
    | none => n
    | some k => s.agenda.findIdx (fun j => s.laneOf j == some k)

/-! ## Placing a program -/

/-- Where `placeProgram` puts the instruction: the first address of HBM. -/
abbrev programBase : Nat := 0x1000000000000

/-- Partition 1 of node 0, with one U-mode task at `programBase` in slot 0 of core 0; `b` are the bytes of its program, which stand in
memory and in the core's I-cache; nothing else is due. -/
def State.placeProgram (s : State) (b : List Byte) : State :=
  let mem := b.zipIdx.foldl (fun (m : Tbl Byte) e => m.put 0 (programBase + e.2) e.1) s.mem
  let s1 := { s with mem := mem }
  let line : Line := BitVec.ofNat 512 (s1.readN programBase 64)
  let pt : Part := { Part.blank with nodes := [0], pkgCount := 4096, podCount := 1024, standing := programBase + 0x40000000,
                                     silo := programBase + 0x80000000 }
  let tk : Task := { Task.blank with part := 1, entry := word programBase }
  let t := Thread.start (taskKey 1 0) (word programBase) false []
  let lc : LCore := { LCore.reset 0 with silob := word (programBase + 0x80000000) }
  let pc : PCore := { PCore.reset with slots := [(0, { thread := some t, credit := none })],
                                       icache := [(programBase, line)] }
  { s1 with
    parts := [(1, pt)], tasks := [(taskKey 1 0, tk)], pcores := [(0, pc)],
    lcores := (List.range 16).map (fun i => (4096 + i, if i = 0 then lc else
      { LCore.reset i with silob := word (programBase + 0x80000000 + i * windowSize) })),
    lquads := (List.range 4).map (fun i => (1024 + i, LQuad.reset i)),
    lnodes := [(256, LNode.reset 0)],
    pnodes := [(0, { PNode.cold 0 with st := .admitted })],
    turn := (0, 0), agenda := [] }

end Sys2Proof.Machine
end

