-- ==== Sys2Proof/Machine/Tasks.lean ====
section
/-!
DEFINITION. Making and starting tasks: posted decrements and increments of counters, what a release must precede, `spawn` credits, the
start of a thread, and the way of a record into a dispatcher's inbound FIFO (05 R97 to R104, 14 R278, R295).
-/
namespace Sys2Proof.Machine

/-! ## AMOs that a core posts -/

/-- The access fault of an AMO by memory type and region: device, and host memory for operations other than `add`, `swap` and
`cas` (06 R126). -/
def amoDeny (op : Nat) : Nat → MemType → Option Nat := fun pa ty =>
  if ty = 3 then some 7
  else if regionOf pa = 2 ∧ op ≠ 0 ∧ op ≠ 8 ∧ op ≠ 9 then some 7
  else none

/-- The translation of an access of a task in a given mode. -/
def State.taskTr (s : State) (key : Nat) (smode : Bool) (k : Kind) (va : Word) : Tr :=
  let tk := s.task key
  let p := s.pcore (s.physOf tk.lc)
  s.translate tk.lc tk.launch smode (s.csrs tk.lc).satp p.tlb k va

/-- Post an AMO with a release at `scope` before it (7 for none). -/
def State.postAmo (s : State) (c slot task : Nat) (op : Nat) (dbl : Bool) (pa : Nat) (va arg : Word) (scope : Nat) : State :=
  (s.markRelease c slot task scope).sbPush c slot task
    (.amo { op := op, dbl := dbl, pa := pa, arg := arg, cmp := 0, reply := none, ack := none, src := c / 16, va := va,
            task := task, by_ := s.issuerOf task })

/-! ## Counters of `quit` and `fork` -/

/-- Where a counter address leads. -/
inductive Counter where
  | at_ (pa : Nat)
  | fault (cause : Nat)
  | miss
deriving DecidableEq, Repr

/-- A translated counter address, with the checks of an AMO that adds. -/
def State.counterOf (s : State) (r : Tr) : Counter :=
  match r with
  | .bad c => .fault c
  | .miss => .miss
  | r =>
    match s.trPa r with
    | none => .fault 7
    | some (pa, ty) => match amoDeny 0 pa ty with | some c => .fault c | none => .at_ pa

/-- Check a counter address of a task: alignment, then translation for a write (05 R97). -/
def State.counter (s : State) (key : Nat) (smode : Bool) (a : Word) : Counter :=
  if a.toNat % 8 ≠ 0 then .fault 6 else s.counterOf (s.taskTr key smode .store a)

/-- The first counter of a list that does not pass, address 0 standing for none. -/
def State.countersBad (s : State) (key : Nat) (smode : Bool) : List Word → Option (Word × Counter)
  | [] => none
  | a :: l =>
    if a = 0 then s.countersBad key smode l
    else match s.counter key smode a with
      | .at_ _ => s.countersBad key smode l
      | r => some (a, r)

/-- A counter whose address has passed its checks: its place, its address and the scope of the decrement's release (05 R97). -/
abbrev Decrement := Nat × Word × Nat

/-- The rest of a `quit` whose counters have passed: the decrements, at the places that the checks found, then the release of keys and of
the range entry behind a release at `pkg`, then the end of the task (05 R97). -/
def State.retireTask (s : State) (c slot key : Nat) (l : List Decrement) : State :=
  let s1 := l.foldl (fun st d => st.postAmo c slot key 0 true d.1 d.2.1 (BitVec.allOnes 64) d.2.2) s
  (s1.keysAfter c slot key).endTask key

/-! ## Starting a thread -/

/-- The maker of a task and the core that starts it share a quad, so that the start acquires nothing from beyond it (14 R295). -/
def Task.near (t : Task) : Bool :=
  match t.maker with
  | some m => m / 4 == t.lc / 4 && t.held.isEmpty && t.ranges.isEmpty
  | none => false

/-- A task starts in slot `i` of core `c`; a silo that takes no context block for it holds the thread at its entry (01 R15, R24, 05 R115, R117, 14
R295). -/
def State.startThread (s : State) (c i key : Nat) : State :=
  let tk := s.task key
  let xs : Tbl Word := (tk.args.zipIdx).foldl (fun m e => m.put 0 (10 + e.2) e.1) []
  let t := Thread.start key (tk.entry &&& ~~~1#64) tk.smode xs
  let s1 := (if tk.near then s else s.acquireL1 c).setSlot c i { thread := some t, credit := none }
  match s1.ctxWrite key with
  | .ok s2 => s2
  | .error u => s1.hold c i t u

/-! ## What follows a release -/

/-- An entry that has waited for its release takes effect. -/
def State.follow (s : State) (op : SbOp) : State :=
  match op with
  | .send i => s.push i
  | .deliver key lc bottom =>
    if (s.tasks.find key).isNone then s else
    (s.modLcore lc (fun l => { l with deque := if bottom then l.deque ++ [key] else key :: l.deque })).wakeCore (s.physOf lc)
  | .startIn key c i =>
    if (s.tasks.find key).isSome then
      if (s.pcore c).stopped || (s.pcore c).fenced || (s.pcore c).halted then
        (s.setSlot c i { s.slot c i with credit := none }).modLcore (s.task key).lc (fun l => { l with deque := key :: l.deque })
      else s.startThread c i key
    else (s.setSlot c i { s.slot c i with credit := none }).wakeCore c
  | .submit e ln => s.inboxPut ln e
  | .collPost p => (s.modPp (p.id / 2 ^ 24) (fun x => { x with fifo := x.fifo ++ [p] })).push (.collStart (p.id / 2 ^ 24))
  | .icInv lc scope => s.invScope (s.physOf lc) lc scope
  | .tlbInv v asid lc scope => s.invTlbs v asid lc scope
  | _ => s

/-- `op` takes effect as a release at `scope` of what core `c` has sent: at once when there is nothing to wait for. -/
def State.afterRelease (s : State) (c slot task scope : Nat) (op : SbOp) : State :=
  if scope = 0 ∨ !s.lags c scope then s.follow op
  else (s.markRelease c slot task scope).sbPush c slot task op

/-- The smallest scope that contains two logical cores of one partition (06 R120). -/
def scopeOf (a b : Nat) : Nat := if a = b then 0 else if a / 4 = b / 4 then 1 else if a / 16 = b / 16 then 2 else 3

/-! ## Children -/

/-- A child of task `p`: the task and identity CSRs of its parent, no keys, no ranges, no join counter (05 R99, R100). -/
def childOf (p : Task) (t : Thread) (tid lcore : Nat) (entry : Word) (pinned : Bool) : Task :=
  { Task.blank with
    tid := tid, part := p.part, lcore := lcore, launch := p.launch, idx := p.idx, icnt := p.icnt, entry := entry,
    smode := t.smode, args := [t.getX 10, t.getX 11, t.getX 12, t.getX 13], fmt := p.fmt, scl := p.scl, sscl := p.sscl,
    origin := p.origin, pinned := pinned, maker := some p.lc }

/-- The slots of core `c` that a credit may reserve: empty, unreserved, and not slot 7 while that is kept for a pending S-mode task
(05 R99, 01 R16); a halted, stopped or fenced core grants none (21 R368). -/
def State.creditSlots (s : State) (c : Nat) : List Nat :=
  let p := s.pcore c
  if p.halted || p.stopped || p.fenced then []
  else
    (List.range 8).filter (fun i => (s.slot c i) == Slot.empty && !(i == 7 && s.keeps c))

/-! ## Submitting -/

/-- Submit a task record read by a task: the new id and the state (05 R102, R103). -/
def State.submitTask (s : State) (c slot key : Nat) (smode : Bool) (body : BitVec 1024) : Nat × State :=
  let tk := s.task key
  let (tid, s1) := s.newTid tk.lc
  let e : Inb := { body := body, src := .core tk.lc tid smode tk.origin }
  (tid, s1.afterRelease c slot key 3 (.submit e (tk.lc / 16)))

/-- Submit a launch descriptor read for record `r` (05 R104). -/
def State.submitLaunch (s : State) (c slot key : Nat) (smode : Bool) (body : BitVec 1024) (r : RecRef) : State :=
  let tk := s.task key
  let e : Inb := { body := body, src := .launch tk.lc smode (s.csrs tk.lc).satp tk.origin r }
  s.afterRelease c slot key 3 (.submit e (tk.lc / 16))

/-- A record waits for room in the inbound FIFO of its node with what it has read (05 R102); its WAIT stays the kind of its yield point (05
R110). -/
def State.waitInbox (s : State) (r : RecRef) (launch : Bool) (body : BitVec 1024) : State :=
  (s.modRec r (fun x => { x with want := .dispatcher launch body })).modLnode (r.lc / 16) (fun l =>
    { l with waiters := l.waiters ++ [.record r] })

/-- The record read for `r` is accepted: a task record's id is the reply, a launch descriptor's reply comes later (05 R102, R104). -/
def State.acceptRead (s : State) (r : RecRef) (launch : Bool) (body : BitVec 1024) : State :=
  match s.recOf r with
  | none => s
  | some x =>
    if launch then s.submitLaunch (s.coreOf r) 0 x.task x.smode body r
    else
      let (tid, s1) := s.submitTask (s.coreOf r) 0 x.task x.smode body
      s1.makeReady r (Reply.word_ (word tid))

/-- What waits first at a FIFO enters it while it has room (05 R102, 14 R278). -/
def State.admitWaiters (ln : Nat) : Nat → State → State
  | 0, s => s
  | n + 1, s =>
    match (s.lnode ln).waiters with
    | [] => s
    | w :: rest =>
      if !s.inboxRoom ln then s
      else
        let s1 := s.modLnode ln (fun l => { l with waiters := rest })
        State.admitWaiters ln n (match w with
          | .firing e => s1.inboxPut ln e
          | .record r => match s1.recOf r with
            | none => s1
            | some x => match x.want with
              | .dispatcher launch body => s1.acceptRead r launch body
              | _ => s1)

/-- A record that was read for `task.sub` or `launch` goes to the dispatcher, or waits for room. -/
def State.submitRead (s : State) (r : RecRef) (launch : Bool) (body : BitVec 1024) : State :=
  let ln := r.lc / 16
  if (s.lnode ln).waiters.isEmpty ∧ s.inboxRoom ln then
    (s.modRec r (fun x => { x with want := .dispatcher launch body })).acceptRead r launch body
  else s.waitInbox r launch body

end Sys2Proof.Machine
end

