-- ==== Sys2Proof/Machine/Barrier.lean ====
section
/-!
DEFINITION. Barrier objects: handles, the cores' copies, arrivals and byte counts, the completion of a phase with the weighbridge
comparison and the census checkpoint (06 R132 to R138, R394, 09 R217, 21 R373 to R377).
-/
namespace Sys2Proof.Machine

/-! ## Objects and handles (06 R132) -/

/-- The objects of a level, whatever the partition (01 R34). -/
def levelCount (level : Nat) : Nat :=
  match level with
  | 0 => 32 | 1 => 64 | 2 => 256 | 3 => 4096 | 4 => 1024 | _ => 0

/-- The object that a handle operand names for a thread of logical core `lc`; none where R132 gives cause 7. -/
def State.barOf (s : State) (lc : Nat) (h : Word) : Option BarRef :=
  let level := field h 13 3
  let index := field h 0 13
  let p := partOfLc lc
  if bits h 16 48 ≠ 0 ∨ levelCount level ≤ index then none
  else
    match level with
    | 0 => some { level := 0, owner := lc, index := index }
    | 1 => some { level := 1, owner := lc / 4, index := index }
    | 2 => some { level := 2, owner := lc / 16, index := index }
    | 3 => if index < (s.partOf p).pkgCount then some { level := 3, owner := p, index := index } else none
    | 4 => if index < (s.partOf p).podCount then some { level := 4, owner := p, index := index } else none
    | _ => none

/-- The handle of an object. -/
def handleOf (b : BarRef) : Nat := b.level * 8192 + b.index

/-- A barrier object. -/
def State.bar (s : State) (b : BarRef) : Barrier :=
  let t : Tbl Barrier := match b.level with
    | 0 => (s.lcore b.owner).bars
    | 1 => (s.lquad b.owner).bars
    | 2 => (s.lnode b.owner).bars
    | 3 => (s.partOf b.owner).pkgBars
    | _ => (s.partOf b.owner).podBars
  t.get Barrier.reset b.index

/-- Replace a barrier object. -/
def State.setBar (s : State) (b : BarRef) (v : Barrier) : State :=
  match b.level with
  | 0 => s.modLcore b.owner (fun l => { l with bars := l.bars.set b.index v })
  | 1 => s.modLquad b.owner (fun l => { l with bars := l.bars.set b.index v })
  | 2 => s.modLnode b.owner (fun l => { l with bars := l.bars.set b.index v })
  | 3 => s.modPart b.owner (fun l => { l with pkgBars := l.pkgBars.set b.index v })
  | _ => s.modPart b.owner (fun l => { l with podBars := l.podBars.set b.index v })

/-- The logical cores of the instance of an object. -/
def State.barCores (s : State) (b : BarRef) : List Nat :=
  match b.level with
  | 0 => [b.owner]
  | 1 => coresOfQuad b.owner
  | 2 => coresOfNode b.owner
  | _ => (List.range (s.lcount b.owner)).map (fun i => b.owner * 4096 + i)

/-- A core's copy of an object's PHASE and enabled state (06 R394). -/
def State.copyOf (s : State) (lc : Nat) (b : BarRef) : BarCopy :=
  (s.lcore lc).copies.get { phase := false, enabled := false } (handleOf b)

/-- The node that holds a package object (06 R132). -/
def packageNode (b : BarRef) : Nat := Config.packageObject b.owner b.index % 256

/-- The object tells every core of its instance its PHASE and enabled state (06 R394), in the action that changes them: how long telling takes the
spec leaves open (log 58). The messages of a package object take the control mesh (17 R325). -/
def State.tellCores (s : State) (b : BarRef) : State :=
  let o := s.bar b
  let c : BarCopy := { phase := o.phase, enabled := o.exp != 0 }
  (s.barCores b).foldl (fun st lc =>
    let tell := fun (st : State) => st.modLcore lc (fun l => { l with copies := l.copies.set (handleOf b) c })
    if b.level = 3 then st.deliver (packageNode b) (s.nodeOfLc lc) tell else tell st) s

/-- An operation from node `n` goes to its object; to a package object, or a pod object by way of its node, it takes the control mesh (17 R325, R332, 18 R343). -/
def State.toObject (s : State) (n : Nat) (b : BarRef) (f : State → State) : State :=
  if 3 ≤ b.level then s.deliver n (packageNode b) f else f s

/-- The `bar.init` operations on an object that are on their way from core `c`, oldest first: EXP and task. -/
def State.initsFrom (s : State) (c : Nat) (b : BarRef) : List (Nat × Nat) :=
  s.agenda.filterMap (fun i => match i with
    | .barrierInitApply ⟨x, some (k, task)⟩ exp _ => if x = b ∧ k = c then some (exp, task) else none
    | _ => none) ++
  (s.pcore c).sb.filterMap (fun e => match e.op with
    | .barInit x exp _ => if x = b then some (exp, e.task) else none
    | _ => none)

/-- A barrier operation of core `c` on an object is on its way: in the store buffer, or from there to the object. -/
def State.opsFrom (s : State) (c : Nat) (b : BarRef) : Bool :=
  s.agenda.any (fun i => match i with
    | .barrierInitApply ⟨x, some (k, _)⟩ _ _ => x == b && k == c
    | .barrierArrivalApply ⟨x, some (k, _)⟩ _ _ => x == b && k == c
    | _ => false) ||
  (s.pcore c).sb.any (fun e => match e.op with
    | .barInit x _ _ => x == b
    | .barArrive x _ => x == b
    | .link x _ _ => x == b
    | _ => false)

/-- The object is enabled as a thread of task `task` on core `c` sees it: its own `bar.init` that is on its way counts as applied (06
R134), else the core's copy judges (R394), which a `bar.init` of the core's other threads brings up to date when it enables the object:
one of them may have released it to this thread at `core` (13 R272, log 58). -/
def State.enabledFor (s : State) (c task lc : Nat) (b : BarRef) : Bool :=
  let l := s.initsFrom c b
  match (l.filter (fun e => e.2 == task)).getLast? with
  | some e => e.1 != 0
  | none => (s.copyOf lc b).enabled || ((l.getLast?).map (fun e => e.1 != 0)).getD false

/-- The scope of an acquire or release at an object's level (06 R136). -/
abbrev levelScope (b : BarRef) : Nat := b.level

/-! ## Weighbridge comparison (03 R73, 09 R217) -/

/-- A channel of a logical core. -/
def State.weighOf (s : State) (lc ch : Nat) : Weigh := (s.lcore lc).wb.get Weigh.reset ch
/-- Change a channel. -/
def State.modWeigh (s : State) (lc ch : Nat) (f : Weigh → Weigh) : State :=
  s.modLcore lc (fun l => { l with wb := l.wb.modify Weigh.reset ch f })
/-- Change every participant of an object. -/
def State.modParts (s : State) (l : List (Nat × Nat)) (f : Weigh → Weigh) : State :=
  l.foldl (fun st e => st.modWeigh e.1 e.2 f) s

/-- An integer reduced to 192 bits, two's complement. -/
def wrap192 (n : Int) : Int := (n + 2 ^ 191) % 2 ^ 192 - 2 ^ 191

/-- The FP64 encoding of a total N / 2^96, rounded to nearest even (03 R73). -/
def totalBits (n : Int) : Nat := (roundTo Fmt.fp64 0 (decide (n < 0)) n.natAbs (-96) false).bits

/-- The participant of the lowest logical core. -/
def lowest (l : List (Nat × Nat)) : Option (Nat × Nat) :=
  l.foldl (fun b e => match b with
    | none => some e
    | some x => if e.1 < x.1 then some e else b) none

/-- Compare once: every participant records the total, EVENT is set on drift, and the answer says whether the object is held (09
R217). A carry out of the total sets OVF in every participant, for the spec does not say in which (log 44). A held object's handler starts on the lowest participant's core. -/
def State.compareWeighs (s : State) (b : BarRef) : State × Bool :=
  let ps := (s.bar b).wblink
  match lowest ps with
  | none => (s, false)
  | some (lc, ch) =>
    let ws := ps.map (fun e => s.weighOf e.1 e.2)
    let exact := (ws.map (·.acc)).sum
    let carry := exact ≥ 2 ^ 191 ∨ exact < -2 ^ 191
    let w0 := s.weighOf lc ch
    let t := totalBits (wrap192 exact)
    let nan := (Fmt.fp64.decode w0.ref.toNat).isNan || (Fmt.fp64.decode w0.bound.toNat).isNan
    let drift := nan || beyond t w0.ref.toNat w0.bound.toNat || carry || ws.any (fun w => w.ovf || w.torn)
    let s1 := s.modParts ps (fun w =>
      { w with lastt := word t, compares := (w.compares + 1) % 2 ^ 32, event := w.event || drift, ovf := w.ovf || carry })
    if drift && w0.mode then
      ((s1.modWeigh lc ch (fun w => { w with hold := true })).startHandler lc 48 0 (word (handleOf b)) (word ch) none none, true)
    else (s1, false)

/-! ## Census checkpoints (21 R373 to R377) -/

/-- The logical quads whose engines a checkpoint of an object acts on (21 R373). -/
def State.censusQuads (s : State) (b : BarRef) : List Nat :=
  match b.level with
  | 0 => [b.owner / 4]
  | 1 => [b.owner]
  | 2 => (List.range 4).map (fun i => 4 * b.owner + i)
  | _ => (List.range (4 * (s.partOf b.owner).nodes.length)).map (fun i => b.owner * 1024 + i)

/-- A site has a non-zero counter. -/
def Census.some (c : Census) : Bool := c != Census.zero

/-- Counter `n` of a site: NaN, infinity, saturation, underflow. -/
def Census.get (c : Census) (n : Nat) : Nat :=
  match n with
  | 0 => c.nan | 1 => c.inf | 2 => c.sat | _ => c.under

/-- The second doubleword of a site entry (21 R374). -/
def Census.num (c : Census) : Nat := c.nan + c.inf * 2 ^ 16 + c.sat * 2 ^ 32 + c.under * 2 ^ 48

/-- The 16-byte units of an entry: header, then the sites with a count, ascending (21 R374). -/
def LQuad.entry (q : LQuad) (handle : Nat) : List (List Byte) :=
  let sites := q.census.filter (fun e => Census.some e.2)
  (toBytes 8 (q.cenSeq % 2 ^ 32 + handle * 2 ^ 32 + sites.length * 2 ^ 48) ++ toBytes 8 0) ::
    sites.map (fun e => toBytes 8 e.1 ++ toBytes 8 e.2.num)

/-- Where 16 bytes of the census buffer lie: through the captured tables, in memory that is not device and, for a read, not
poisoned. -/
def State.censusAt (s : State) (lq : Nat) (k : Kind) (pos : Nat) : State × Option Nat :=
  let q := s.lquad lq
  let c := q.phys * 4
  let (s1, r) := s.resolve c q.cenLc q.cenLaunch q.cenSmode q.cenSatp k (q.cenBuf + word pos)
  match s1.trPa r with
  | some (pa, ty) => (s1, if ty = 3 ∨ (k = .load ∧ s1.isPoisoned pa) then none else some pa)
  | none => (s1, none)

/-- A divergence: held in CENDIV and CENSEQ when none is held; the action applies at the engine's first (21 R376, R377). -/
def State.diverge (s : State) (lq site ctr expect actual : Nat) : State :=
  let q := s.lquad lq
  let held := (s.pquad q.phys).cendiv.getLsbD 63
  let v := 2 ^ 63 + expect % 65536 * 2 ^ 32 + actual % 65536 * 2 ^ 16 + ctr * 2 ^ 12 + site
  let s1 := if held then s
    else s.modPquad q.phys (fun p => { p with cendiv := word v, censeq := word (q.cenSeq % 2 ^ 32) })
  if q.diverged then s1
  else
    let s2 := s1.modLquad lq (fun x => { x with diverged := true })
    if q.cenTrap then s2.startHandler (4 * lq) 49 0 (word (site + ctr * 2 ^ 12)) (word (q.cenSeq % 2 ^ 32)) none none else s2

/-- A fault on the buffer: SITE 0xFFF, with no recorded or actual value stated (log 14). -/
def State.divergeFault (s : State) (lq : Nat) : State := (s.drew.diverge lq 0xFFF 0 s.freeN (Config.freeNat (s.free + 1))).drew

/-- No quad L1 keeps a copy of a line (21 R374). -/
def State.forgetLine (s : State) (pa : Nat) : State :=
  { s with pquads := s.pquads.map (fun (e : Nat × PQuad) => (e.1, { e.2 with l1 := e.2.l1.filter (fun x => x.1 != lineOf pa) })) }

/-- RECORD: write the entry, 16 bytes at a time, up to a fault; what waits for the phase reads it, at any level (21 R374). -/
def State.censusWrite (s : State) (lq : Nat) : Nat → List (List Byte) → State
  | _, [] => s
  | pos, u :: us =>
    match s.censusAt lq .store pos with
    | (s1, none) => s1.divergeFault lq
    | (s1, some pa) => State.censusWrite ((s1.applyWrite (u.mapIdx (fun i b => (pa + i, b))) none true).forgetLine pa) lq (pos + 16) us

/-- Read `n` units of 16 bytes at a position; none at a fault. -/
def State.censusRead (s : State) (lq : Nat) : Nat → Nat → State × Option (List Nat)
  | 0, _ => (s, some [])
  | n + 1, pos =>
    match s.censusAt lq .load pos with
    | (s1, none) => (s1, none)
    | (s1, some pa) =>
      match State.censusRead s1 lq n (pos + 16) with
      | (s2, some l) => (s2, some (s1.readN pa 16 :: l))
      | (s2, none) => (s2, none)

/-- The census of a recorded site unit. -/
def unitCensus (u : Nat) : Nat × Census :=
  let w := u / 2 ^ 64
  (u % 4096, { nan := w % 65536, inf := w / 2 ^ 16 % 65536, sat := w / 2 ^ 32 % 65536, under := w / 2 ^ 48 % 65536 })

/-- The first difference over the union of the sites, ascending in site and then counter: site, counter, recorded and actual value
(21 R375). -/
def firstDiff (a b : Tbl Census) : Option (Nat × Nat × Nat × Nat) :=
  let sites := b.foldl (fun (m : Tbl Census) e => m.set e.1 e.2) a
  let diffs := sites.flatMap (fun e => (List.range 4).filterMap (fun n =>
    let x := (a.get Census.zero e.1).get n
    let y := (b.get Census.zero e.1).get n
    if x = y then none else some (e.1, n, x, y)))
  diffs.head?

/-- COMPARE: read the entry at the position and look for the first difference; the position moves by the recorded size. -/
def State.censusCompare (s : State) (lq handle : Nat) : State :=
  let q := s.lquad lq
  match s.censusRead lq 1 q.cenPos with
  | (s1, some [h]) =>
    let k := h / 2 ^ 48 % 65536
    match s1.censusRead lq k (q.cenPos + 16) with
    | (s2, some us) =>
      let recorded : Tbl Census := us.foldl (fun m u => m.set (unitCensus u).1 (unitCensus u).2) []
      let s3 := if h % 2 ^ 32 ≠ q.cenSeq % 2 ^ 32 then s2.diverge lq 0xFFE 0 (h % 65536) q.cenSeq
        else if h / 2 ^ 32 % 65536 ≠ handle then s2.diverge lq 0xFFE 0 (h / 2 ^ 32) handle
        else match firstDiff recorded q.census with
          | some (site, n, x, y) => s2.diverge lq site n x y
          | none => s2
      s3.modLquad lq (fun x => { x with cenPos := q.cenPos + 16 + 16 * k })
    | (s2, none) => (s2.divergeFault lq).modLquad lq (fun x => { x with cenPos := q.cenPos + 16 + 16 * k })
  | (s1, _) => s1.divergeFault lq

/-- The checkpoint of one engine (21 R373). -/
def State.checkpoint (s : State) (lq handle : Nat) : State :=
  let q := s.lquad lq
  if q.cenMode = 0 ∨ !s.fw.features.getLsbD 3 then s
  else
    let s1 := if q.cenMode = 1 then
        (s.censusWrite lq q.cenPos (q.entry handle)).modLquad lq (fun x =>
          { x with cenPos := q.cenPos + 16 * (q.entry handle).length })
      else s.censusCompare lq handle
    s1.modLquad lq (fun x => { x with census := [], cenSeq := (x.cenSeq + 1) % 2 ^ 32 })

/-! ## Phases (06 R138) -/

/-- The records that wait for a flip of an object, with what each receives. -/
def State.barWaiters (s : State) (b : BarRef) : List (RecRef × Reply) :=
  let o := s.bar b
  s.lcores.flatMap (fun e => e.2.recs.filterMap (fun r => match r.want with
    | .barrier w phase aw tok =>
      if w = b ∧ r.st = .waiting ∧ phase ≠ o.phase then
        some ({ lc := e.1, id := r.id },
          if o.lerr ≠ 0 then { Reply.word_ tok with err := some (o.lerr, word (handleOf b)) }
          else if aw then Reply.word_ tok else Reply.none_)
      else none
    | _ => none))

/-- The acquire of a completed wait by a core: at the level's scope, and of the bytes the phase counted (06 R137). -/
def State.barAcquire (s : State) (c : Nat) (b : BarRef) : State :=
  if 2 ≤ levelScope b ∨ (s.bar b).counted then s.acquireL1 c else s

/-- The phase flips: the checkpoint, LERR, PHASE, the copies, the waiters (06 R138). -/
def State.flip (s : State) (b : BarRef) : State :=
  let o := s.bar b
  let s1 := s.modParts o.wblink (fun w => { w with acc := 0, flush := 0, ovf := false, torn := false })
  let s2 := if o.cen then (s.censusQuads b).foldl (fun st lq => st.checkpoint lq (handleOf b)) s1 else s1
  let s3 := s2.setBar b { o with lerr := o.err, err := 0, arr := 0, bexp := 0, bcnt := 0, phase := !o.phase,
                                 counted := o.bcnt != 0, wbHeld := false }
  let s4 := s3.tellCores b
  let ws := s4.barWaiters b
  let s5 := ws.foldl (fun st e => st.barAcquire (st.coreOf e.1) b) s4
  s5.readySiblings ws

/-- A phase that completes with more bytes than it expects and no error has ERR 29 (06 R138). -/
def State.extraBytes (s : State) (b : BarRef) : State :=
  let o := s.bar b
  if o.bexp < o.bcnt ∧ o.err = 0 then s.setBar b { o with err := 29 } else s

/-- Complete the phase where its conditions hold (06 R138). -/
def State.tryComplete (s : State) (b : BarRef) : State :=
  let o := s.bar b
  if o.exp = 0 ∨ o.arr ≠ o.exp ∨ o.bcnt < o.bexp ∨ o.wbHeld then s
  else
    let s1 := s.extraBytes b
    match s1.compareWeighs b with
    | (s2, true) => s2.setBar b { s2.bar b with wbHeld := true }
    | (s2, false) => s2.flip b

/-- The channels of an object are unlinked. -/
def State.unlinkAll (s : State) (b : BarRef) : State := s.modParts (s.bar b).wblink (fun w => { w with link := none, hold := false })

/-- A channel that is still linked to an object joins its WBLINK (09 R216). -/
def State.joinLink (s : State) (b : BarRef) (lc ch : Nat) : State :=
  if (s.weighOf lc ch).link = some b ∧ !(s.bar b).wblink.contains (lc, ch) then
    s.setBar b { s.bar b with wblink := (s.bar b).wblink ++ [(lc, ch)] }
  else s

/-- A `bar.init` applied at its object (06 R135). -/
def State.applyInit (s : State) (b : BarRef) (exp : Nat) (cen : Bool) : State :=
  let s1 := s.unlinkAll b
  (s1.setBar b { Barrier.reset with exp := exp, cen := cen, phase := (s.bar b).phase, counted := (s.bar b).counted }).tellCores b

/-- An arrival applied at its object (06 R136, R394); `err` is the error it brings, 0 for none. -/
def State.applyArrival (s : State) (b : BarRef) (bytes err : Nat) : State :=
  let o := s.bar b
  if o.exp = 0 then s
  else
    let o1 := if err ≠ 0 ∧ o.err = 0 then { o with err := err } else o
    let o2 := if o.arr = o.exp then (if o1.err = 0 then { o1 with err := 7 } else o1)
      else { o1 with arr := o.arr + 1, bexp := (o.bexp + bytes) % 2 ^ 48 }
    (s.setBar b o2).tryComplete b

/-- The sticky error of a quad's engine after another error (21 R372). -/
def stickyErr (old : Word) (kind site handle : Nat) : Word :=
  if old.getLsbD 63 then
    let more := field old 48 15
    if more = 0x7FFF then old else old + word (2 ^ 48)
  else word (2 ^ 63 + kind * 2 ^ 40 + site * 2 ^ 28 + handle)

/-- Enter an error in ENGERR or CPYERR of a logical quad's host (08 R197, 09 R207). -/
def State.stick (s : State) (lq : Nat) (copy : Bool) (kind site handle : Nat) : State :=
  s.modPquad (s.lquad lq).phys (fun p =>
    if copy then { p with cpyerr := stickyErr p.cpyerr kind 0 handle } else { p with engerr := stickyErr p.engerr kind site handle })

/-- A byte count applied at its object; one for a disabled object is discarded and recorded (06 R138, 08 R197, 09 R207). -/
def State.applyBytes (s : State) (b : BarRef) (bytes err lq site : Nat) (copy : Bool) : State :=
  let o := s.bar b
  if o.exp = 0 then s.stick lq copy 1 site (handleOf b)
  else
    let o1 := { o with bcnt := (o.bcnt + bytes) % 2 ^ 48, err := if err ≠ 0 ∧ o.err = 0 then err else o.err }
    (s.setBar b o1).tryComplete b

/-! ## The steps of barrier objects -/

/-- BARRIER_INIT_APPLY (06 R135). -/
def execBarrierInitApply (m : BarMsg) (exp : Nat) (cen : Bool) (s : State) : Outcome :=
  .next (s.applyInit m.bar exp cen)

/-- BARRIER_ARRIVAL_APPLY (06 R136). -/
def execBarrierArrivalApply (m : BarMsg) (bytes err : Nat) (s : State) : Outcome :=
  .next (s.applyArrival m.bar bytes err)

/-- BARRIER_BYTE_COUNT (06 R138, 08 R190, 09 R204). -/
def execBarrierByteCount (b : BarRef) (bytes err quad site : Nat) (copy : Bool) (s : State) : Outcome :=
  .next (s.applyBytes b bytes err quad site copy)

end Sys2Proof.Machine
end

