-- ==== Sys2Proof/Machine/Schedule.lean ====
section
/-!
DEFINITION. From queue to issue slot: filling slots, stealing, the governor, host queues and their arbiter, the dispatcher with its
range matcher, lock keys, and the watchdog (14 R274 to R299).
-/
namespace Sys2Proof.Machine

/-! ## Keys (14 R284) -/

/-- The node of the dispatcher of a key message. -/
def State.dispNode (s : State) (m : KeyMsg) : Nat := (s.lnode m.disp).phys

/-- A request is compatible with the holders of its key. -/
def KeyEnt.admits (e : KeyEnt) (shared : Bool) : Bool := if shared then e.holders.all (·.2) else e.holders.isEmpty

/-- Grant from the head of the FIFO while the head is compatible: the granted requests and the entry after. -/
def KeyEnt.pump : Nat → KeyEnt → List (Nat × Bool) × KeyEnt
  | 0, e => ([], e)
  | n + 1, e =>
    match e.fifo with
    | [] => ([], e)
    | r :: rest =>
      if e.admits r.2 then
        let x := KeyEnt.pump n { holders := e.holders ++ [r], fifo := rest }
        (r :: x.1, x.2)
      else ([], e)

/-- The entry of a key. -/
def State.keyEnt (s : State) (p key : Nat) : KeyEnt := (s.partOf p).keys.get { holders := [], fifo := [] } key

/-- Replace the entry of a key; one with neither holders nor waiters is not kept. -/
def State.setKey (s : State) (p key : Nat) (e : KeyEnt) : State :=
  s.modPart p (fun q => { q with keys := if e.holders.isEmpty && e.fifo.isEmpty then q.keys.erase key else q.keys.set key e })

/-- KEY_REQUEST (14 R283, R284). -/
def execKeyRequest (m : KeyMsg) (s : State) : Outcome :=
  .next (s.deliver (s.dispNode m) (s.keyHome m.part m.key) (fun s =>
    if (s.tasks.find m.task).isNone then s
    else
      let e := s.keyEnt m.part m.key
      if e.fifo.isEmpty ∧ e.admits m.shared then
        (s.setKey m.part m.key { e with holders := e.holders ++ [(m.task, m.shared)] }).push (.keyGrant m)
      else s.setKey m.part m.key { e with fifo := e.fifo ++ [(m.task, m.shared)] }))

/-- KEY_GRANT (14 R283, R285): the next key is requested, or the task is placed. A task that has been killed gives it back. -/
def execKeyGrant (m : KeyMsg) (s : State) : Outcome :=
  .next (if (s.tasks.find m.task).isNone then s.push (.keyRelease m)
    else s.deliver (s.keyHome m.part m.key) (s.dispNode m) (fun s =>
      (s.modTask m.task (fun t => { t with held := t.held ++ [(m.key, m.shared)], want := t.want.drop 1 })).requestNext m.task))

/-- The range entry of a task is freed; those that conflicted with it may go on, and so may the head of the inbound FIFO (14 R282). -/
def State.freeRanges (s : State) (key : Nat) : State :=
  (s.lnodes.filter (fun e => e.2.ranged.any (fun r => r.1 == key))).foldl (fun st e =>
    let s1 := st.modLnode e.1 (fun l => { l with ranged := l.ranged.filter (fun r => r.1 != key) })
    let s2 := s1.rangesFree e.1
    if (s2.lnode e.1).inbox.isEmpty then s2 else s2.pushOnce (.dispatcherTake e.1)) s

/-- KEY_RELEASE (14 R284, R285): waiters are granted in FIFO order; the grants that complete a task's keys go out in descending PRIO, for the tasks
are then placed, and the others in submission order (16 R323). The key 0 stands for the task's range entry. -/
def execKeyRelease (m : KeyMsg) (s : State) : Outcome :=
  .next (if m.key = 0 then s.freeRanges m.task
    else s.deliver (s.dispNode m) (s.keyHome m.part m.key) (fun s =>
      let e := s.keyEnt m.part m.key
      let e1 : KeyEnt := { holders := e.holders.filter (fun h => h.1 != m.task), fifo := e.fifo.filter (fun h => h.1 != m.task) }
      let x := KeyEnt.pump e1.fifo.length e1
      let last := fun (r : Nat × Bool) => (s.task r.1).want.length ≤ 1
      let order := (x.1.filter last).mergeSort (fun a b => s.placedBefore a.1 b.1) ++
        (x.1.filter (fun r => !last r)).mergeSort (fun a b => (s.task a.1).sub ≤ (s.task b.1).sub)
      (s.setKey m.part m.key x.2).pushAll (order.map (fun r =>
        .keyGrant { part := m.part, task := r.1, key := m.key, shared := r.2, disp := (s.task r.1).disp }))))

/-! ## The task record (05 R105) -/

/-- The keys of a record: ascending identity, each once, exclusive where both kinds appear. -/
def recordKeys (b : BitVec 1024) : List (Nat × Bool) :=
  let raw := (List.range 4).map (fun i => (field b (320 + 32 * i) 31, b.getLsbD (320 + 32 * i + 31)))
  let named := raw.filter (fun k => k.1 != 0)
  let once : Tbl Bool := named.foldl (fun m k => m.set k.1 (k.2 && m.get true k.1)) []
  once

/-- The ranges of a record: read, write, read; none where RANGES and VALID are not both 1. -/
def recordRanges (b : BitVec 1024) : List (Nat × Nat) :=
  if b.getLsbD (448 + 6) && b.getLsbD (896 + 63) then
    [(field b 704 64, field b 896 21), (field b 768 64, field b 917 21), (field b 832 64, field b 938 21)]
  else []

/-- The task that a record describes, in partition `p` taken by dispatcher `ln`. -/
def taskOfRecord (b : BitVec 1024) (p lcount ln tid : Nat) (smode : Bool) (args : List Word) (origin from_ : Option Nat) : Task :=
  let target := field b 464 16
  { Task.blank with
    tid := tid, part := p, entry := bits b 0 64 &&& ~~~1#64, smode := smode && b.getLsbD 0, args := args,
    fmt := bits b 512 64, scl := bits b 576 64, sscl := bits b 640 64, join := bits b 960 64, want := recordKeys b,
    ranges := recordRanges b, origin := origin, pinned := target < lcount || (smode && b.getLsbD 0), prio := field b 448 3,
    stage := field b 451 3, target := if target < lcount then target else 0xFFFF, from_ := from_, maker := from_, disp := ln }

/-- The initial a0 to a3 of a record. -/
def recordArgs (b : BitVec 1024) : List Word := [bits b 64 64, bits b 128 64, bits b 192 64, bits b 256 64]

/-! ## The launch descriptor (05 R106) -/

/-- The PA of a 4 KiB page of a launch's backing through the launcher's tables; none where the launch is rejected (11 R239). -/
def State.backPage (s : State) (smode : Bool) (satp : Word) (va : Word) : Option Nat :=
  let ok := fun (pa ty : Nat) (user : Bool) => ty == 0 && regionOf pa ≤ 1 && s.regionOk pa ty user
  if inSpadSpace va.toNat then none
  else if !kx57 satp then (if va.toNat < 2 ^ 52 ∧ ok va.toNat 0 false then some va.toNat else none)
  else if !canonical va then none
  else
    match s.walk satp va with
    | .error _ => none
    | .ok (e, _) =>
      if permOk e.pte .load smode && permOk e.pte .store smode && ok (e.pa va) (field e.pte 54 3) (bits e.pte 4 1 == 1) then
        some (e.pa va) else none

/-- A page joins the runs, the last of which it extends where it follows in memory. -/
def addRun (runs : List (Nat × Nat × Nat)) (page pa : Nat) : List (Nat × Nat × Nat) :=
  match runs.getLast? with
  | some (p0, a0, n) => if p0 + n = page ∧ a0 + 4096 * n = pa then runs.dropLast ++ [(p0, a0, n + 1)] else runs ++ [(page, pa, 1)]
  | none => [(page, pa, 1)]

/-- The runs of `n` pages from page `page` of the window space. -/
def State.backRuns (s : State) (smode : Bool) (satp base : Word) :
    Nat → Nat → List (Nat × Nat × Nat) → Option (List (Nat × Nat × Nat))
  | 0, _, acc => some acc
  | n + 1, page, acc =>
    match s.backPage smode satp (base + word (4096 * page)) with
    | none => none
    | some pa => s.backRuns smode satp base n (page + 1) (addRun acc page pa)

/-- The first launch id that no live launch of a partition has, from `n` on; 0 where every id is in use. -/
def State.freeLaunch (s : State) (p : Nat) : Nat → Nat → Nat
  | 0, _ => 0
  | k + 1, n =>
    let id := if n = 0 ∨ 65535 < n then 1 else n
    if (s.launches.find (launchKey p id)).isNone then id else s.freeLaunch p k (id + 1)

/-- A task id in the name of physical core 0 of a dispatcher's node (05 R103), unique in partition `p`. -/
def State.nodeTid (s : State) (ln p : Nat) : Nat × State := s.tidOf p ((s.lnode ln).phys * 16)

/-- The core offset of task `i` of a launch of `t` tasks on `c` cores (05 R106). -/
def launchCore (place t c i : Nat) : Nat := if place = 1 then i % c else i / ((t + c - 1) / c)

/-- Place the tasks `i` to `i + n - 1` of a launch: ids in ascending index, each at the top of its core's deque (14 R286). -/
def State.launchTasks (s : State) (ln p id t c first place : Nat) (base : Task) (arg : Word) : Nat → Nat → State
  | 0, _ => s
  | n + 1, i =>
    let (tid, s1) := s.nodeTid ln p
    let lcore := first + launchCore place t c i
    let lc := p * 4096 + lcore
    let key := taskKey p tid
    let tk : Task := { base with tid := tid, lcore := lcore, idx := word i, args := [word i, arg, 0, 0] }
    let s2 := (s1.setTask key tk).modLcore lc (fun l => { l with deque := key :: l.deque })
    State.launchTasks (s2.wakeCore (s2.physOf lc)) ln p id t c first place base arg n (i + 1)

/-- A launch waits while a node of the cores it names takes no work (17 R336). -/
def State.launchWaits (s : State) (own : Nat) (b : BitVec 1024) : Bool :=
  let p := if field b 96 16 = 0 then own else field b 96 16
  let first := field b 128 16
  let c := if field b 144 16 = 0 then s.lcount p - first else field b 144 16
  (s.partOf p).nodes.zipIdx.any (fun e => s.nodeAway e.1 && first < 16 * e.2 + 16 && 16 * e.2 < first + c)

/-- The windows of a launch hold the `.scratch` image from offset 0 and zeros beyond it (11 R239). -/
def State.fillWindows (s : State) (image : Tbl Byte) (first n : Nat) (runs : List (Nat × Nat × Nat)) : State :=
  let inRuns := fun (a : Nat) => runs.any (fun r => r.2.1 ≤ a && a < r.2.1 + r.2.2 * 4096)
  let cells := (List.range n).flatMap (fun k => image.filterMap (fun e =>
    (backRun runs ((first + k) * windowSize + e.1)).map (fun a => (a, e.2))))
  State.putCells { s with mem := s.mem.filter (fun e => !inRuns e.1) } cells

/-- LIVE of an origin. -/
def State.liveAt (s : State) (origin : Option Nat) : Nat := (origin.map s.liveOf).getD 0

/-- Tasks of an origin that had `n` live ones have come: its watchdog clock starts where `n` is 0 (14 R297). -/
def State.watchFrom (s : State) (origin : Option Nat) (n : Nat) : State :=
  match origin with
  | none => s
  | some q => if n = 0 ∧ s.liveOf q ≠ 0 ∧ (s.queue q).t1 ≠ 0 ∧ !(s.queue q).aboveT1 then s.pushOnce (.watchdogT1 q) else s

/-- A launch descriptor leaves the FIFO: the tasks are placed and the launch id is the reply, 0 where R106 rejects it. Where NCORES is 0 and FIRST is the
partition's core count no core is left, and where every launch id is in use none is left: the spec states neither case, and the model rejects the
descriptor (log 61). -/
def State.takeLaunch (s : State) (ln : Nat) (b : BitVec 1024) (lc : Nat) (smode : Bool) (satp : Word) (origin : Option Nat) (r : RecRef) :
    State :=
  let own := partOfLc lc
  let p := if field b 96 16 = 0 then own else field b 96 16
  let t := field b 64 32
  let first := field b 128 16
  let total := s.lcount p
  let c := if field b 144 16 = 0 then total - first else field b 144 16
  let place := field b 160 2
  let base := bits b 448 64
  let id := s.freeLaunch p 65535 (s.partOf p).nextLaunch
  let refuse := s.push (.recordReply r (Reply.word_ 0))
  if t = 0 ∨ total < first + c ∨ c = 0 ∨ 2 ≤ place ∨ b.getLsbD 1 ∨ field b 112 16 ≠ 0 ∨ field b 163 29 ≠ 0 ∨
      base.toNat % windowSize ≠ 0 ∨ (!smode ∧ p ≠ own) ∨ id = 0 then refuse
  else
    match s.backRuns smode satp base (512 * c) (512 * first) [] with
    | none => refuse
    | some runs =>
      let la : Launch := { count := t, first := first, ncores := c, ordered := b.getLsbD 162, turn := 0, turnAt := 0, runs := runs }
      let tk : Task := { Task.blank with
        part := p, launch := id, icnt := word t, entry := bits b 0 64 &&& ~~~3#64, smode := smode && b.getLsbD 0,
        fmt := bits b 192 64, scl := bits b 256 64, sscl := bits b 320 64, origin := origin, pinned := true, maker := some lc,
        disp := ln }
      let s1 := (s.setLaunch (launchKey p id) la).modPart p (fun q => { q with nextLaunch := id + 1 })
      (((s1.fillWindows (s1.partOf p).image first c runs).launchTasks ln p id t c first place tk (bits b 384 64) t 0).push
        (.recordReply r (Reply.word_ (word id)))).watchFrom origin (s.liveAt origin)

/-! ## The dispatcher (14 R278, R282) -/

/-- The entries of a range matcher. -/
abbrev rangeEntries : Nat := 1024

/-- A task with its id enters, in submission order: a range entry where it has ranges, then its keys once no predecessor conflicts (14 R282). -/
def State.enterTask (s : State) (ln key : Nat) (t : Task) : State :=
  let s1 := (s.setTask key { t with sub := s.nextId }).bumpId
  if t.ranges.isEmpty then s1.requestNext key
  else
    let before := (s.lnode ln).ranged
    let s2 := s1.modLnode ln (fun l => { l with ranged := before ++ [(key, t.ranges)] })
    if before.any (fun e => conflicts t.ranges e.2) then s2.modLnode ln (fun l => { l with blocked := l.blocked ++ [key] })
    else s2.requestNext key

/-- The entry at the head of an inbound FIFO is taken. -/
def State.takeInb (s : State) (ln : Nat) (e : Inb) : State :=
  let p := ln / 256
  let lcount := s.lcount p
  match e.src with
  | .core lc tid smode origin =>
    s.enterTask ln (taskKey p tid) (taskOfRecord e.body p lcount ln tid smode (recordArgs e.body) origin (some lc))
  | .port q smode =>
    let (tid, s1) := s.nodeTid ln p
    s1.enterTask ln (taskKey p tid) (taskOfRecord e.body p lcount ln tid smode (recordArgs e.body) (some q) none)
  | .mailbox a0 a1 origin =>
    let (tid, s1) := s.nodeTid ln p
    s1.enterTask ln (taskKey p tid)
      (taskOfRecord e.body p lcount ln tid true (a0 :: a1 :: (recordArgs e.body).drop 2) origin none)
  | .launch lc smode satp origin r => s.takeLaunch ln e.body lc smode satp origin r

/-- The ports that had stopped for a full FIFO go on (14 R278). -/
def State.portsGo (s : State) : State :=
  s.queues.foldl (fun st q => if q.2.st == .active && q.2.tail != q.2.head then st.pushOnce (.arbiterGrant q.2.fn) else st) s

/-- DISPATCHER_TAKE (14 R278): the head leaves the FIFO unless it waits for a range entry or, a launch, for a node that takes no work; what waits for
room enters, and the ports that had stopped go on. -/
def execDispatcherTake (ln : Nat) (s : State) : Outcome :=
  .next (match (s.lnode ln).inbox with
    | [] => (State.admitWaiters ln inboxSize s).portsGo
    | e :: rest =>
      let launch : Bool := match e.src with | .launch _ _ _ _ _ => true | _ => false
      let ranged := !launch && !(recordRanges e.body).isEmpty
      if ranged ∧ rangeEntries ≤ (s.lnode ln).ranged.length then s
      else if launch ∧ s.launchWaits (ln / 256) e.body then s
      else
        let s1 := State.admitWaiters ln inboxSize ((s.modLnode ln (fun l => { l with inbox := rest })).takeInb ln e)
        (if rest.isEmpty then s1 else s1.pushOnce (.dispatcherTake ln)).portsGo)

/-! ## Host queues (14 R274 to R281) -/

/-- Entries of a queue's ring. -/
def HQueue.size (h : HQueue) : Nat := 2 ^ h.log2n
/-- A queue has waiting work that a port may take. -/
def HQueue.hasWork (h : HQueue) : Bool := h.st == .active && h.tail != h.head
/-- How long a queue has waited, in us (14 R279). -/
def State.waited (s : State) (h : HQueue) : Nat := s.micros - max h.lastService h.workSince
/-- The effective priority of a queue (14 R279). -/
def State.eprio (s : State) (h : HQueue) : Nat :=
  if h.tail = h.head then h.prio else min 7 (h.prio + s.waited h / (s.die h.fn).ageing)

/-- The ports of a host die. -/
abbrev portCount : Nat := 128

/-- The queues of a die with waiting work. -/
def State.waitingQueues (s : State) (d : Nat) : List (Nat × HQueue) := s.queues.filter (fun e => e.2.fn == d && e.2.hasWork)

/-- A port that no queue with waiting work has. -/
def State.freePort (s : State) (d : Nat) : Option Nat :=
  (List.range portCount).find? (fun p => !(s.waitingQueues d).any (fun e => e.2.port == some p))

/-- Give queue `q` port `p`, which its earlier holder loses. -/
def State.givePort (s : State) (d q p : Nat) : State :=
  let s1 : State := { s with queues := s.queues.map (fun (e : Nat × HQueue) =>
    if e.2.fn == d && e.2.port == some p then (e.1, { e.2 with port := none }) else e) }
  s1.modQueue q (fun h => { h with port := some p })

/-- QUEUE_TAIL_WRITE (14 R275, R276): a write to the page of a queue that was never created is ignored, and one that overruns a killed queue leaves its STATE at 2
(log 71). -/
def execQueueTailWrite (q tail : Nat) (s : State) : Outcome :=
  .next (match s.queues.find q with
    | none => s
    | some h =>
      let t := BitVec.ofNat 32 tail
      let tooMuch := h.size < (t - h.head).toNat
      let h1 := { h with
        tail := t, ovr := h.ovr || tooMuch, st := if tooMuch && h.st == .active then .stopped else h.st,
        workSince := if h.tail = h.head ∧ t ≠ h.head then s.micros else h.workSince }
      let s1 := s.setQueue q h1
      if !h1.hasWork then s1
      else
        let s2 := if h1.port.isSome then s1
          else match s1.freePort h.fn with
            | some p => s1.givePort h.fn q p
            | none => s1.pushOnce (.portRemap h.fn)
        s2.pushOnce (.arbiterGrant h.fn))

/-- The record that a port reads from a ring in BAR 2 (14 R274): all 128 bytes as they stand at the grant (log 71). -/
def State.ringRecord (s : State) (h : HQueue) : BitVec 1024 :=
  let at_ := h.fn * 2 ^ 30 + h.ring + h.head.toNat % h.size * 128
  BitVec.ofNat 1024 (ofBytes ((List.range 128).map (fun i => s.bar2.get 0 (at_ + i))))

/-- The dispatcher of a queue's HOME. -/
def State.homeDispatcher (s : State) (h : HQueue) : Nat := s.dispatcherOf h.part h.home

/-- The queue that the arbiter of a die grants: the highest effective priority, round-robin in port number within it (14 R279). -/
def State.arbitrate (s : State) (d : Nat) : Option (Nat × HQueue × Nat) :=
  let l := (s.waitingQueues d).filterMap (fun e =>
    match e.2.port with
    | some p => if s.inboxRoom (s.homeDispatcher e.2) then some (e.1, e.2, p) else none
    | none => none)
  let top := l.foldl (fun m e => max m (s.eprio e.2.1)) 0
  let level := l.filter (fun e => s.eprio e.2.1 == top)
  let last := (s.die d).last.get (portCount - 1) top
  let dist := fun (p : Nat) => (p + portCount - last - 1) % portCount
  level.foldl (fun b e => match b with
    | none => some e
    | some x => if dist e.2.2 < dist x.2.2 then some e else b) none

/-- ARBITER_GRANT (14 R275, R279). -/
def execArbiterGrant (die : Nat) (s : State) : Outcome :=
  .next (match s.arbitrate die with
    | none => s
    | some (q, h, p) =>
      let level := s.eprio h
      let e : Inb := { body := s.ringRecord h, src := .port q h.sq }
      let ln := s.homeDispatcher h
      let s1 := s.inboxPut ln e
      let s2 := s1.setQueue q { h with head := h.head + 1, lastService := s.micros }
      let s3 := s2.modDie die (fun x => { x with last := x.last.set level p })
      if (s3.waitingQueues die).isEmpty then s3 else s3.pushOnce (.arbiterGrant die))

/-- PORT_REMAP (14 R280): the ports go to the queues with waiting work in descending EPRIO and, within one EPRIO, by longest wait; a
queue that keeps its place keeps its port. -/
def execPortRemap (die : Nat) (s : State) : Outcome :=
  .next (
    let order := (s.waitingQueues die).mergeSort (fun a b =>
      s.eprio b.2 < s.eprio a.2 || (s.eprio a.2 == s.eprio b.2 && s.waited b.2 ≤ s.waited a.2))
    let win := (order.take portCount).map (·.1)
    let s1 : State := { s with queues := s.queues.map (fun (e : Nat × HQueue) =>
      if e.2.fn == die && !(win.contains e.1) then (e.1, { e.2 with port := none }) else e) }
    let s2 := win.foldl (fun st q =>
      if (st.queue q).port.isSome then st
      else match st.freePort die with | some p => st.givePort die q p | none => st) s1
    let s3 := if portCount < order.length then s2.pushOnce (.portRemap die) else s2
    if order.isEmpty then s3 else s3.pushOnce (.arbiterGrant die))

/-! ## Stage rings and the governor (14 R287 to R289) -/

/-- OCC of a ring. -/
def PNode.occ (n : PNode) (r : Nat) : Nat := (n.rings.get [] r).length
/-- LOW and HIGH of a ring. -/
def PNode.low (n : PNode) (r : Nat) : Nat := field (n.govRing.get 256 r) 16 16
/-- HIGH of a ring. -/
def PNode.high (n : PNode) (r : Nat) : Nat := field (n.govRing.get 256 r) 0 16
/-- The stages that core `i` of a node serves. -/
def PNode.mask (n : PNode) (i : Nat) : Byte := n.masks.get 0xFF i

/-- The ring with the largest positive value of `f`, the lowest on a tie. -/
def bestRing (n : PNode) (f : Nat → Nat) : Option Nat :=
  (List.range 8).foldl (fun b r =>
    if f r = 0 ∨ n.high r ≤ n.low r then b
    else match b with
      | none => some r
      | some x => if f x < f r then some r else b) none

/-- The occupancy of a physical core. -/
def State.coreLoad (s : State) (c : Nat) : Nat := ((s.hosted c).map s.occupancy).sum

/-- The governor's move, where it has one (14 R289): a quad is eligible when each of its cores serves ring `t`. -/
def State.govern (s : State) (n : Nat) : State :=
  let p := s.pnode n
  match bestRing p (fun r => p.occ r - p.high r), bestRing p (fun r => p.low r - p.occ r) with
  | some to_, some t =>
    let quads := p.gov.getLsbD 1
    let units : List (List Nat) := if quads then (List.range 4).map (fun q => [4 * q, 4 * q + 1, 4 * q + 2, 4 * q + 3])
      else (List.range 16).map (fun i => [i])
    let load := fun (u : List Nat) => (u.map (fun i => s.coreLoad (16 * n + i))).sum
    let able := units.filter (fun u => u.all (fun i => (p.mask i).getLsbD t))
    match able with
    | [] => s
    | u0 :: us =>
      let u := us.foldl (fun b x => if load x < load b then x else b) u0
      let s1 := s.modPnode n (fun x => { x with masks := u.foldl (fun m i => m.set i (1#8 <<< to_)) x.masks })
      u.foldl (fun st i => st.wakeCore (16 * n + i)) s1
  | _, _ => s

/-- GOVERNOR_PERIOD (14 R289). -/
def execGovernorPeriod (node : Nat) (s : State) : Outcome :=
  .next (if (s.pnode node).govOn then (s.govern node).pushOnce (.governorPeriod node) else s)

/-! ## Filling a slot (14 R293) -/

/-- The core takes work now: it is not halted, stopped or fenced, and it belongs to a partition. -/
def PCore.fills (p : PCore) : Bool := !(p.halted || p.stopped || p.fenced)

/-- A task of an origin whose clock stands above T1 (14 R298). -/
def State.overT1 (s : State) (key : Nat) : Bool := match (s.task key).origin with | some q => (s.queue q).aboveT1 | none => false

/-- The core that deposited a moved record has not yet released its accesses (14 R295). -/
def State.notReleased (s : State) (lc : Nat) (x : Rec) : Bool :=
  match x.movedFrom with
  | some o => s.lags (s.physOf o) (scopeOf o lc)
  | none => false

/-- A deque entry whose turn has come (14 R296). -/
def State.turnCome (s : State) (key : Nat) : Bool :=
  let t := s.task key
  let l := s.launch (launchKey t.part t.launch)
  t.launch == 0 || !l.ordered || t.idx.toNat ≤ l.turn

/-- The bottommost deque entry that may start. -/
def State.dequeTake (s : State) (lc : Nat) : Option Nat := (s.lcore lc).deque.reverse.find? s.turnCome

/-- The task of a stage ring that core `c` takes: the first ring its MASK selects that holds one, highest PRIO first (14 R287). -/
def State.ringTake (s : State) (c : Nat) : Option (Nat × Nat) :=
  let n := s.pnode (c / 16)
  if !n.govOn then none
  else ((List.range 8).find? (fun r => (n.mask (c % 16)).getLsbD r && n.occ r != 0)).bind (fun r =>
    (n.rings.get [] r).foldl (fun (b : Option (Nat × Nat)) k => match b with
      | none => some (r, k)
      | some x => if (s.task x.2).prio < (s.task k).prio then some (r, k) else b) none)

/-- The kept slot takes only a pending S-mode task while one is pending (01 R16). -/
def State.pendingS (s : State) (c : Nat) : Bool := (s.hosted c).any (fun l => !(s.lcore l).pendS.isEmpty)

/-- Fill slot `i` of core `c` from logical core `lc`: steps 1 to 3. -/
def State.fillFrom (s : State) (c i lc : Nat) : Option State :=
  let l := s.lcore lc
  let kept := (s.csrs lc).kxrsv
  let keep := i == 7 && s.keeps c
  match (if !kept || i == 7 then l.pendS else []) with
  | k :: rest => some ((s.modLcore lc (fun x => { x with pendS := rest })).startThread c i k)
  | [] =>
    if keep then none
    else
      match l.ready.findSome? (fun id => match l.recs.find? (fun x => x.id == id) with
        | some x => if s.overT1 x.task || s.notReleased lc x || s.siloParked lc x.addr x.size then none else some x
        | none => none) with
      | some x => some (s.relaunch c i { lc := lc, id := x.id } x)
      | none =>
        match s.dequeTake lc with
        | some k => some ((s.modLcore lc (fun x => { x with deque := x.deque.filter (· != k) })).startThread c i k)
        | none =>
          match s.ringTake c with
          | some (r, k) =>
            let s1 := s.modPnode (c / 16) (fun n => { n with rings := n.rings.set r ((n.rings.get [] r).filter (· != k)) })
            let s2 := (s1.modTask k (fun t => { t with lcore := numOfLc lc })).startThread c i k
            let ln := (s.task k).disp
            some (State.drainPlacing ln (s2.lnode ln).placing.length s2)
          | none => none

/-- The logical cores of core `c` in the order in which they are served: the one not served last comes first (15 R320). -/
def State.servedOrder (s : State) (c : Nat) : List Nat :=
  let l := s.hosted c
  l.filter (· != (s.pcore c).served) ++ l.filter (· == (s.pcore c).served)

/-- Fill one slot, if it is free and a candidate exists. -/
def State.fillSlot (s : State) (c i : Nat) : State :=
  if (s.slot c i) != Slot.empty then s
  else
    match (s.servedOrder c).findSome? (fun lc => (s.fillFrom c i lc).map (fun st => (lc, st))) with
    | none => s
    | some (lc, st) => st.modPcore c (fun p => { p with served := lc })

/-- Slot 7 holds a held thread and a pending S-mode task can take no other slot (05 R116). -/
def State.mustPark (s : State) (c : Nat) : Bool :=
  let held := fun i => match (s.slot c i).thread with | some t => t.held | none => false
  held 7 && (s.keeps c || (s.pendingS c && (List.range 7).all held))

/-- Park the thread held in slot `i`: its whole record goes into the held area and the slot is free (05 R116). -/
def State.parkSlot (s : State) (c i : Nat) : State :=
  match (s.slot c i).thread with
  | none => s
  | some t =>
    let lc := (s.task t.task).lc
    match (s.lcore lc).recs.find? (fun x => x.task == t.task && x.heldSlot == some i && !x.parked) with
    | none => s
    | some x =>
      let mask := saveMask t true 0
      let size := recSize mask
      let r : RecRef := { lc := lc, id := x.id }
      if let some u := s.siloBad lc x.addr size then (s.killRec r x).logSilo c u
      else
        let body := (recBytes [0, 0, 0, 0, 0, 0, 0, 0] t mask).drop 64
        let head := (s.siloGet lc x.addr 64).getD []
        let s1 := (s.drainWc c t).siloPut lc x.addr (head.take 16 ++ toBytes 8 mask.toNat ++ (head.drop 24).take 40 ++ body)
        (s1.modRec r (fun y => { y with mask := mask, size := size, parked := true, lm := t.lm, sscratch := t.sscratch, vw := t.vw })).freeSlot c i

/-! ## Stealing (14 R290 to R292) -/

/-- Nodes `a` and `b` are neighbours in the 16 x 16 mesh (01 R9). -/
def meshAdjacent (a b : Nat) : Bool :=
  (a / 16 == b / 16 && (a % 16 == b % 16 + 1 || b % 16 == a % 16 + 1)) || (a % 16 == b % 16 && (a / 16 == b / 16 + 1 || b / 16 == a / 16 + 1))

/-- The adjacent node of its partition that a thief tries in this round: the next after the node last tried. -/
def State.stealTarget (s : State) (thief : Nat) : Option Nat :=
  let c := s.physOf thief
  let near := (s.partOf (partOfLc thief)).nodes.filter (fun n => meshAdjacent n (c / 16))
  match near.find? (fun n => (s.pcore c).stealNode < n) with
  | some n => some n
  | none => near.head?

/-- The victims of a round, in order (14 R292). -/
def State.victims (s : State) (thief : Nat) : List Nat :=
  let quad := (List.range 3).map (fun k => thief / 4 * 4 + (thief + k + 1) % 4)
  let node := ((List.range 15).map (fun k => thief / 16 * 16 + (thief + k + 1) % 16)).filter (fun v => v / 4 != thief / 4)
  let far := match s.stealTarget thief with
    | none => []
    | some n => match (s.lnodes.filter (fun e => e.1 / 256 == partOfLc thief && e.2.phys == n)).head? with
      | some e => coresOfNode e.1
      | none => []
  quad ++ node ++ far

/-- Slot `i` of core `c` is free for a stolen task. -/
def State.freeFor (s : State) (c : Nat) : Option Nat :=
  (List.range 8).find? (fun i => (s.slot c i) == Slot.empty && !(i == 7 && s.keeps c))

/-- The next request of a steal round, or the pause at its end. -/
def State.stealNext (s : State) (thief k : Nat) : State :=
  let c := s.physOf thief
  match (s.victims thief)[k]? with
  | some v => (s.modPcore c (fun p => { p with stealTry := some k })).push (.stealRequest thief v)
  | none =>
    let node := (s.stealTarget thief).getD (s.pcore c).stealNode
    (s.modPcore c (fun p => { p with stealTry := none, stealPause := true, stealNode := node })).push (.stealPauseEnd thief)

/-- A thief may take a task (14 R291). -/
def State.mayTake (s : State) (thief key : Nat) : Bool :=
  let t := s.task key
  let l := s.launch (launchKey t.part t.launch)
  t.part == partOfLc thief && !t.pinned && !t.smode && t.target == 0xFFFF &&
    (t.launch == 0 || (l.first ≤ numOfLc thief && numOfLc thief < l.first + l.ncores))

/-- SLOT_FILL (14 R293). -/
def execSlotFill (core : Nat) (s : State) : Outcome :=
  .next (if !(s.pcore core).fills then s
    else
      let s0 := if s.mustPark core then s.parkSlot core 7 else s
      let s1 := (List.range 8).foldl (fun st i => st.fillSlot core i) s0
      let worked := s1.servedOrder core != s0.servedOrder core || (s1.pcore core).slots != (s0.pcore core).slots
      let s2 := if worked ∧ (s1.pcore core).stealPause then
          (s1.modPcore core (fun p => { p with stealPause := false })).drop (fun i => match i with
            | .stealPauseEnd t => s1.physOf t == core
            | _ => false)
        else s1
      let p := s2.pcore core
      let later := (s2.hosted core).any (fun lc => (s2.lcore lc).recs.any (fun x => x.st == .ready && (s2.notReleased lc x || s2.siloParked lc x.addr x.size)))
      let s2 := if later then s2.pushOnce (.slotFill core) else s2
      match s2.servedOrder core with
      | [] => s2
      | thief :: _ =>
        if p.stealTry.isSome ∨ p.stealPause ∨ (s2.freeFor core).isNone then s2 else s2.stealNext thief 0)

/-- A task that a thief takes from a victim: its start acquires nothing from beyond the quad only where its maker and the victim share the thief's
quad (14 R295). -/
def Task.taken (t : Task) (victim thief : Nat) : Task :=
  { t with maker := t.maker.map (fun m => if m / 4 = thief / 4 then victim else m) }

/-- STEAL_REQUEST (14 R291, R292, R295): the victim releases before it hands the entry over. The answer is a message too: an entry whose answer cannot
be delivered stays (17 R332). -/
def execStealRequest (thief victim : Nat) (s : State) : Outcome :=
  let vc := s.physOf victim
  .next (s.deliver (s.nodeOfLc thief) (vc / 16) (fun s =>
    let none_ := s.deliver (vc / 16) (s.nodeOfLc thief) (fun s => s.push (.stealAnswer thief none))
    if s.nodeAway (vc / 16) then none_
    else
      match (s.lcore victim).deque.find? (s.mayTake thief) with
      | none => none_
      | some k =>
        if s.lags vc (scopeOf thief victim) then s.putBack (.stealRequest thief victim)
        else s.deliver (vc / 16) (s.nodeOfLc thief) (fun s =>
          ((s.modLcore victim (fun l => { l with deque := l.deque.filter (· != k) })).modTask k (fun t => t.taken victim thief)).push
            (.stealAnswer thief (some k)))))

/-- STEAL_ANSWER (14 R292): the next round goes on after the adjacent node last tried; the stolen task starts on the thief's logical core, or waits at the bottom of its deque where its free slot
has gone. -/
def execStealAnswer (thief : Nat) (task : Option Nat) (s : State) : Outcome :=
  let c := s.physOf thief
  .next (match task with
    | some k =>
      let far : Bool := match (s.pcore c).stealTry with | some n => decide (15 ≤ n) | none => false
      let node := (s.stealTarget thief).getD (s.pcore c).stealNode
      let s1 := s.modPcore c (fun p => { p with stealTry := none, stealNode := if far then node else p.stealNode })
      if (s1.tasks.find k).isNone then s1.wakeCore c
      else
        let s2 := s1.modTask k (fun t => { t with lcore := numOfLc thief })
        match (if (s2.pcore c).fills then s2.freeFor c else none) with
        | some i => (s2.startThread c i k).wakeCore c
        | none => s2.modLcore thief (fun l => { l with deque := l.deque ++ [k] })
    | none =>
      match (s.pcore c).stealTry with
      | none => s
      | some n =>
        if (s.freeFor c).isNone ∨ !(s.pcore c).fills then
          let node := if 15 ≤ n then (s.stealTarget thief).getD (s.pcore c).stealNode else (s.pcore c).stealNode
          s.modPcore c (fun p => { p with stealTry := none, stealNode := node })
        else s.stealNext thief (n + 1))

/-- STEAL_PAUSE_END (14 R292). -/
def execStealPauseEnd (thief : Nat) (s : State) : Outcome :=
  let c := s.physOf thief
  .next ((s.modPcore c (fun p => { p with stealPause := false })).wakeCore c)

/-! ## The watchdog (14 R297, R298) and kills -/

/-- A thread marked for a kill stays so; else the mark is the new one (14 R298, 22 R382). -/
def Mark.with (old new : Mark) : Mark := if old = .kill then .kill else new

/-- Mark the resident threads whose tasks satisfy `f`. -/
def State.markThreads (s : State) (f : Nat → Bool) (m : Mark) : State :=
  { s with pcores := s.pcores.map (fun (e : Nat × PCore) => (e.1, { e.2 with slots := e.2.slots.map (fun (x : Nat × Slot) =>
      (x.1, { x.2 with thread := x.2.thread.map (fun (t : Thread) => if f t.task then { t with mark := t.mark.with m } else t) })) })) }

/-- Tasks that stand in a slot as a running thread. -/
def State.resident (s : State) (key : Nat) : Bool :=
  s.pcores.any (fun e => e.2.slots.any (fun x => match x.2.thread with | some t => t.task == key && !t.held | none => false))

/-- Kill every task that satisfies `f`: records and queued tasks at once, resident threads at their next boundary; commands held with
the killed records are discarded, and an inbound FIFO that has lost entries goes on (14 R278, R298, 08 R176). -/
def State.killTasks (s : State) (f : Nat → Bool) (src : InbSrc → Bool) : State :=
  let s0 : State := { s with
    lnodes := s.lnodes.map (fun (e : Nat × LNode) => (e.1, { e.2 with
      inbox := e.2.inbox.filter (fun b => !src b.src)
      waiters := e.2.waiters.filter (fun w => match w with
        | .firing b => !src b.src
        | .record _ => true) }))
    pcores := s.pcores.map (fun (e : Nat × PCore) => (e.1, { e.2 with sb := e.2.sb.filter (fun x => match x.op with
      | .submit b _ => !src b.src
      | _ => true) })) }
  let rs := s0.lcores.flatMap (fun e => (e.2.recs.filter (fun r => f r.task)).map (fun r => (({ lc := e.1, id := r.id } : RecRef), r)))
  let s1 := rs.foldl (fun st r => st.killRec r.1 r.2) s0
  let rest := (s1.tasks.map (·.1)).filter (fun k => f k && !s1.resident k)
  let s2 := (rest.foldl (fun st k => st.endTask k) s1).markThreads f .kill
  s.lnodes.foldl (fun st e => if (st.lnode e.1).inbox == e.2.inbox then st else st.pushOnce (.dispatcherTake e.1)) s2

/-- The tasks of an origin. -/
def State.ofOrigin (s : State) (q : Nat) (key : Nat) : Bool := (s.task key).origin == some q

/-- LIVE of a queue: 0 once its tasks have been killed (14 R274, R298). -/
def State.qLive (s : State) (q : Nat) : Nat :=
  match (s.queue q).st with
  | .killed | .destroyed => 0
  | _ => s.liveOf q

/-- WATCHDOG_T1 -/
def execWatchdogT1 (q : Nat) (s : State) : Outcome :=
  .next (
    let h := s.queue q
    let s1 := (s.modQueue q (fun x => { x with aboveT1 := true })).markThreads (s.ofOrigin q) .yield
    let ln := s1.homeDispatcher h
    let lc := s1.leastOf (coresOfNode ln) (16 * ln)
    let s2 := s1.startHandler lc 51 0 (word q) 0 none none
    if h.t2 = 0 then s2 else s2.push (.watchdogT2 q))

/-- The slots that credits of an origin's children reserve: core, slot and child. -/
def State.creditsOf (s : State) (q : Nat) : List (Nat × Nat × Nat) :=
  s.pcores.flatMap (fun e => e.2.slots.filterMap (fun x => x.2.credit.bind (fun k => if s.ofOrigin q k then some (e.1, x.1, k) else none)))

/-- The watchdog ends the collectives that wait for a member and hold a post of an origin, and takes its posts out of the port processors (19 R354, log
41). -/
def State.endColls (s : State) (q : Nat) : State :=
  { s with
    colls := s.colls.filter (fun c => (c.group.isEmpty || c.posts.length == c.group.length) || !c.posts.any (fun e => e.2.origin == some q))
    pps := s.pps.map (fun (e : Nat × PortProc) => (e.1, { e.2 with fifo := e.2.fifo.filter (fun p => p.origin != some q) })) }

/-- WATCHDOG_T2: STATE becomes 2, a stopped queue's too (log 71). -/
def execWatchdogT2 (q : Nat) (s : State) : Outcome :=
  .next (
    let s1 := s.modQueue q (fun h => { h with st := .killed, reserved := s.creditsOf q })
    let s2 := (s1.endColls q).killTasks (s.ofOrigin q) (fun b => b.origin == some q)
    if (s.queue q).t3 = 0 then s2 else s2.push (.watchdogT3 q))

/-- WATCHDOG_T3: the cores on which a slot of the origin is still not free are fenced, one that the credit of a killed child reserves among them. -/
def execWatchdogT3 (q : Nat) (s : State) : Outcome :=
  .next { s with pcores := s.pcores.map (fun (e : Nat × PCore) =>
    if e.2.slots.any (fun x => (match x.2.thread with | some t => s.ofOrigin q t.task | none => false) ||
        (match x.2.credit with | some k => (s.queue q).reserved.contains (e.1, x.1, k) | none => false)) then
      (e.1, { e.2 with fenced := true })
    else e) }

end Sys2Proof.Machine
end

