-- ==== Sys2Proof/Machine/Mesh.lean ====
section
/-!
DEFINITION. The mesh of the package: links, dead routers, dimension-order paths, the network-select entries that firmware computes, and
the check of the entries that the host gives (17 R325 to R335). Node ids are 16 y + x (01 R9).
-/
namespace Sys2Proof.Machine

/-- The neighbour of a node in a direction: 0 north, 1 east, 2 south, 3 west. -/
def neighbour (n dir : Nat) : Option Nat :=
  match dir with
  | 0 => if 16 ≤ n then some (n - 16) else none
  | 1 => if n % 16 ≠ 15 then some (n + 1) else none
  | 2 => if n < 240 then some (n + 16) else none
  | _ => if n % 16 ≠ 0 then some (n - 1) else none

/-- The opposite direction. -/
abbrev opposite (dir : Nat) : Nat := (dir + 2) % 4

/-- The directions that face a node. -/
def facing (n : Nat) : List Nat := (List.range 4).filter (fun d => (neighbour n d).isSome)

/-- The bit of HARVEST that marks a failed link: mesh 0 in LNK0, 1 in LNK1, 2 in CTL (17 R335). -/
def harvestBit (mesh dir : Nat) : Nat := 20 + 4 * mesh + dir

/-- Where a link's state stands in its node's table. -/
def linkKey (mesh dir : Nat) : Nat := 4 * mesh + dir

/-- The state of the outgoing link of a node. -/
def State.linkState (s : State) (n mesh dir : Nat) : LinkState := (s.pnode n).links.get .active (linkKey mesh dir)

/-- A link is live: not failed at test, not failed in service. -/
def State.linkLive (s : State) (n mesh dir : Nat) : Bool :=
  !(s.pnode n).harvest.getLsbD (harvestBit mesh dir) && s.linkState n mesh dir != .failed

/-- A router is dead (17 R332): fenced in the clock phase, harvested without a route, or with every link marked failed. -/
def State.deadRouter (s : State) (n : Nat) : Bool :=
  let p := s.pnode n
  (p.st == .fenced && (p.fcode == 1 || p.fcode == 2)) ||
  (p.st == .harvested && !p.harvest.getLsbD 1) ||
  (facing n).all (fun d => [0, 1, 2].all (fun m => p.harvest.getLsbD (harvestBit m d)))

/-- The links of a row from column `a` to column `b` of row `y`. -/
def rowHops (y a b : Nat) : List (Nat × Nat) :=
  if a ≤ b then (List.range (b - a)).map (fun i => (16 * y + a + i, 1)) else (List.range (a - b)).map (fun i => (16 * y + a - i, 3))

/-- The links of a column from row `a` to row `b` of column `x`. -/
def colHops (x a b : Nat) : List (Nat × Nat) :=
  if a ≤ b then (List.range (b - a)).map (fun i => (16 * (a + i) + x, 2)) else (List.range (a - b)).map (fun i => (16 * (a - i) + x, 0))

/-- The links crossed from `a` to `b`: network 0 along the row first, network 1 along the column first (17 R325). -/
def hops (net a b : Nat) : List (Nat × Nat) :=
  if net = 0 then rowHops (a / 16) (a % 16) (b % 16) ++ colHops (b % 16) (a / 16) (b / 16)
  else colHops (a % 16) (a / 16) (b / 16) ++ rowHops (b / 16) (a % 16) (b % 16)

/-- The routers of a path, both ends among them. -/
def routers (net a b : Nat) : List Nat := a :: (hops net a b).filterMap (fun h => neighbour h.1 h.2)

/-- A data network reaches `b` from `a` over live routers and links (17 R331). -/
def State.netLive (s : State) (net a b : Nat) : Bool :=
  (routers net a b).all (fun n => !s.deadRouter n) && (hops net a b).all (fun h => s.linkLive h.1 net h.2)

/-- A path is usable: its links are live on the control mesh too (17 R332). -/
def State.pathUsable (s : State) (net a b : Nat) : Bool :=
  s.netLive net a b && (hops net a b).all (fun h => s.linkLive h.1 2 h.2)

/-- The network of a direct route, by rules 1 and 2 of 17 R332. -/
def State.direct (s : State) (a b : Nat) : Option Nat :=
  match s.pathUsable 0 a b, s.pathUsable 1 a b with
  | true, false => some 0
  | false, true => some 1
  | true, true => some ((a % 16 + a / 16 + b % 16 + b / 16) % 2)
  | false, false => none

/-- Hops between two nodes. -/
def distance (a b : Nat) : Nat := (hops 0 a b).length

/-- The relay of a pair without a direct route: fewest hops, then the lowest id (17 R332). -/
def State.relayOf (s : State) (a b : Nat) : Option Nat :=
  ((List.range 256).filter (fun r => r != a && r != b && (s.direct a r).isSome && (s.direct r b).isSome)).foldl (fun m r =>
    match m with
    | none => some r
    | some x => if distance a r + distance r b < distance a x + distance x b then some r else some x) none

/-- The entry that firmware computes (17 R332). -/
def State.computeEntry (s : State) (a b : Nat) : BitVec 32 :=
  if a = b then 0
  else
    match s.direct a b with
    | some n => BitVec.ofNat 32 n
    | none => match s.relayOf a b with
      | some r => BitVec.ofNat 32 (r * 4 + 2)
      | none => 3

/-- The table that firmware computes for a node; an entry of 0 is not listed. -/
def State.computeTable (s : State) (a : Nat) : Tbl (BitVec 32) :=
  (List.range 256).foldl (fun (t : Tbl (BitVec 32)) b => t.put 0 b (s.computeEntry a b)) []

/-- An entry of a node's table. -/
def State.entry (s : State) (a b : Nat) : BitVec 32 := (s.pnode a).nst.get 0 b

/-- An entry is 00 or 01. -/
def isDirect (e : BitVec 32) : Bool := bits e 1 1 == 0

/-- The entry of `a` for `b` keeps the rules of 17 R334. -/
def State.entryOk (s : State) (a b : Nat) : Bool :=
  let e := s.entry a b
  if a = b then field e 0 2 == 0
  else
    match field e 0 2 with
    | 0 => s.pathUsable 0 a b
    | 1 => s.pathUsable 1 a b
    | 2 =>
      let r := field e 2 8
      isDirect (s.entry a r) && isDirect (s.entry r b) && s.pathUsable (field (s.entry a r) 0 2) a r &&
        s.pathUsable (field (s.entry r b) 0 2) r b
    | _ => true

/-- A copy reaches `b` from `a`: the table does not mark it unreachable, whatever NET says (17 R330), and a forced network is live (17 R331, 09
R206). -/
def State.copyRoute (s : State) (net a b : Nat) : Bool :=
  !s.unreachable a b && (a == b || (match net with
    | 1 => s.netLive 0 a b
    | 2 => s.netLive 1 a b
    | _ => true))

end Sys2Proof.Machine
end

