-- ==== Sys2Proof/Machine/Scalar.lean ====
section
/-!
DEFINITION. The RISC-V base: loads and stores, integer arithmetic, control flow, ECALL, EBREAK and the fences of MISC-MEM
(04 R74 to R79, 05 R95, R109).
-/
namespace Sys2Proof.Machine

/-! ## Loads and stores -/

/-- The bytes a load reads, and whether its value is sign-extended. -/
def loadShape : LoadOp → Nat × Bool
  | .lb => (1, true) | .lh => (2, true) | .lw => (4, true) | .ld => (8, true)
  | .lbu => (1, false) | .lhu => (2, false) | .lwu => (4, false)

/-- The access of a scalar load of `n` bytes at `va`. -/
def scalarLoad (n : Nat) (signed : Bool) (va : Word) (scope : Option Nat) : Acc :=
  { Acc.plain .load [{ off := 0, va := va, size := n, data := 0 }] with
    signed := signed, aux := word (8 * n), scope := scope, mask := BitVec.allOnes 128 }

/-- A scalar load whose bytes the core holds completes at once. -/
def loadDone (a : Acc) (rd : Reg) : OnBytes := fun s t got => s.retire (t.setX rd ((accValue a got).setWidth 64))

/-- LOAD (04 R77): rd receives the bytes at x[rs1] + imm. -/
def execLoad (op : LoadOp) (rd rs1 : Reg) (imm : BitVec 12) (s : State) : Outcome :=
  .next (s.issue (fun t =>
    let va := t.getX rs1 + imm12 imm
    let a := scalarLoad (loadShape op).1 (loadShape op).2 va none
    s.readPath t t rd.toNat a denyNone va (loadDone a rd)))

/-- The bytes a store writes. -/
def storeSize : StoreOp → Nat
  | .sb => 1 | .sh => 2 | .sw => 4 | .sd => 8

/-- The access of a scalar store of the `n` low bytes of `v`. -/
def scalarStore (n : Nat) (va v : Word) (scope : Option Nat) : Acc :=
  { Acc.plain .store [{ off := 0, va := va, size := n, data := v.toNat % 2 ^ (8 * n) }] with scope := scope }

/-- STORE (04 R77): posted (01 R19). -/
def execStore (op : StoreOp) (rs2 rs1 : Reg) (imm : BitVec 12) (s : State) : Outcome :=
  .next (s.issue (fun t =>
    s.writePath t t (scalarStore (storeSize op) (t.getX rs1 + imm12 imm) (t.getX rs2) none) true false))

/-! ## Integer arithmetic (04 R76, 03 R54) -/

/-- The low 32 bits, sign-extended. -/
def sextW (w : Word) : Word := (w.setWidth 32).signExtend 64
/-- The low 32 bits, zero-extended. -/
def zextW (w : Word) : Word := (w.setWidth 32).setWidth 64
/-- 1 when `c` holds. -/
def boolW (c : Bool) : Word := if c then 1 else 0
/-- The low six bits as a shift amount. -/
def sh6 (w : Word) : Nat := w.toNat % 64
/-- The low five bits as a shift amount. -/
def sh5 (w : Word) : Nat := w.toNat % 32

/-- Signed division: by zero all ones, overflow wraps (03 R54). -/
def divS {n : Nat} (a b : BitVec n) : BitVec n := if b = 0 then BitVec.allOnes n else a.sdiv b
/-- Unsigned division: by zero all ones. -/
def divU {n : Nat} (a b : BitVec n) : BitVec n := if b = 0 then BitVec.allOnes n else a / b
/-- Signed remainder: by zero the dividend. -/
def remS {n : Nat} (a b : BitVec n) : BitVec n := if b = 0 then a else a.srem b
/-- Unsigned remainder: by zero the dividend. -/
def remU {n : Nat} (a b : BitVec n) : BitVec n := if b = 0 then a else a % b

/-- The high half of a product of integers. -/
def mulHigh (a b : Int) : Word := BitVec.ofInt 64 (a * b / 2 ^ 64)

/-- Register-register results. -/
def aluRR (op : AluRR) (a b : Word) : Word :=
  match op with
  | .add => a + b
  | .sub => a - b
  | .sll => a <<< sh6 b
  | .slt => boolW (a.slt b)
  | .sltu => boolW (a.ult b)
  | .xor => a ^^^ b
  | .srl => a >>> sh6 b
  | .sra => a.sshiftRight (sh6 b)
  | .or => a ||| b
  | .and => a &&& b
  | .addw => sextW (a + b)
  | .subw => sextW (a - b)
  | .sllw => sextW (a <<< sh5 b)
  | .srlw => ((a.setWidth 32) >>> sh5 b).signExtend 64
  | .sraw => ((a.setWidth 32).sshiftRight (sh5 b)).signExtend 64
  | .mul => a * b
  | .mulh => mulHigh a.toInt b.toInt
  | .mulhsu => mulHigh a.toInt b.toNat
  | .mulhu => mulHigh a.toNat b.toNat
  | .div => divS a b
  | .divu => divU a b
  | .rem => remS a b
  | .remu => remU a b
  | .mulw => sextW (a * b)
  | .divw => (divS (a.setWidth 32) (b.setWidth 32)).signExtend 64
  | .divuw => (divU (a.setWidth 32) (b.setWidth 32)).signExtend 64
  | .remw => (remS (a.setWidth 32) (b.setWidth 32)).signExtend 64
  | .remuw => (remU (a.setWidth 32) (b.setWidth 32)).signExtend 64
  | .adduw => zextW a + b
  | .sh1add => (a <<< 1) + b
  | .sh2add => (a <<< 2) + b
  | .sh3add => (a <<< 3) + b
  | .sh1adduw => (zextW a <<< 1) + b
  | .sh2adduw => (zextW a <<< 2) + b
  | .sh3adduw => (zextW a <<< 3) + b
  | .andn => a &&& ~~~b
  | .orn => a ||| ~~~b
  | .xnor => ~~~(a ^^^ b)
  | .max => if a.slt b then b else a
  | .maxu => if a.ult b then b else a
  | .min => if a.slt b then a else b
  | .minu => if a.ult b then a else b
  | .rol => a.rotateLeft (sh6 b)
  | .ror => a.rotateRight (sh6 b)

/-- Register-immediate results. -/
def aluImm (op : AluImm) (a : Word) (imm : BitVec 12) : Word :=
  match op with
  | .addi => a + imm12 imm
  | .slti => boolW (a.slt (imm12 imm))
  | .sltiu => boolW (a.ult (imm12 imm))
  | .xori => a ^^^ imm12 imm
  | .ori => a ||| imm12 imm
  | .andi => a &&& imm12 imm
  | .addiw => sextW (a + imm12 imm)

/-- Shifts by a 6-bit immediate. -/
def aluSh6 (op : AluSh6) (a : Word) (n : BitVec 6) : Word :=
  match op with
  | .slli => a <<< n.toNat
  | .srli => a >>> n.toNat
  | .srai => a.sshiftRight n.toNat
  | .rori => a.rotateRight n.toNat
  | .slliuw => zextW a <<< n.toNat

/-- Word shifts by a 5-bit immediate. -/
def aluSh5 (op : AluSh5) (a : Word) (n : BitVec 5) : Word :=
  match op with
  | .slliw => sextW (a <<< n.toNat)
  | .srliw => ((a.setWidth 32) >>> n.toNat).signExtend 64
  | .sraiw => ((a.setWidth 32).sshiftRight n.toNat).signExtend 64

/-- Leading zeros of the low `n` bits. -/
def clzN (n : Nat) (v : Nat) : Nat := if v = 0 then n else n - 1 - Nat.log2 v
/-- Trailing zeros of the low `n` bits. -/
def ctzN (n : Nat) (v : Nat) : Nat := ((List.range n).find? (fun i => v.testBit i)).getD n
/-- Set bits of the low `n` bits. -/
def popN (n : Nat) (v : Nat) : Nat := ((List.range n).filter (fun i => v.testBit i)).length

/-- One-operand results. -/
def aluUn (op : AluUn) (a : Word) : Word :=
  match op with
  | .clz => word (clzN 64 a.toNat)
  | .clzw => word (clzN 32 (a.toNat % 2 ^ 32))
  | .ctz => word (ctzN 64 a.toNat)
  | .ctzw => word (ctzN 32 (a.toNat % 2 ^ 32))
  | .cpop => word (popN 64 a.toNat)
  | .cpopw => word (popN 32 (a.toNat % 2 ^ 32))
  | .sextb => (a.setWidth 8).signExtend 64
  | .sexth => (a.setWidth 16).signExtend 64
  | .zexth => (a.setWidth 16).setWidth 64
  | .rev8 => word (ofBytes (toBytes 8 a.toNat).reverse)
  | .orcb => word (ofBytes ((toBytes 8 a.toNat).map (fun b => if b = 0 then 0 else 0xFF)))

/-- The destination and the result of an INTEGER_OP form. -/
def intResult (f : IntForm) (t : Thread) : Reg × Word :=
  match f with
  | .rr op rd rs1 rs2 => (rd, aluRR op (t.getX rs1) (t.getX rs2))
  | .imm op rd rs1 imm => (rd, aluImm op (t.getX rs1) imm)
  | .sh6 op rd rs1 n => (rd, aluSh6 op (t.getX rs1) n)
  | .sh5 op rd rs1 n => (rd, aluSh5 op (t.getX rs1) n)
  | .un op rd rs1 => (rd, aluUn op (t.getX rs1))

/-- INTEGER_OP (04 R76). -/
def execIntegerOp (f : IntForm) (s : State) : Outcome :=
  .next (s.issue (fun t => s.retire (t.setX (intResult f t).1 (intResult f t).2)))

/-- The immediate of `lui` and `auipc`: imm20 << 12, sign-extended. -/
def upper (imm : BitVec 20) : Word := (imm ++ 0#12).signExtend 64

/-- LUI -/
def execLui (rd : Reg) (imm : BitVec 20) (s : State) : Outcome := .next (s.issue (fun t => s.retire (t.setX rd (upper imm))))

/-- AUIPC -/
def execAuipc (rd : Reg) (imm : BitVec 20) (s : State) : Outcome :=
  .next (s.issue (fun t => s.retire (t.setX rd (t.pc + upper imm))))

/-! ## Control flow (04 R74, 05 R95, R109) -/

/-- A taken transfer: cause 0 with OBJ = the target when it is not a multiple of 4, else rd is written and the transfer made. -/
def State.transfer (s : State) (t : Thread) (rd : Reg) (target : Word) : State :=
  if bits target 0 2 ≠ 0 then s.trap t 0 target else s.putCur ((t.setX rd (t.pc + 4)).goto target)

/-- JAL -/
def execJal (rd : Reg) (imm : BitVec 20) (s : State) : Outcome :=
  .next (s.issue (fun t => s.transfer t rd (t.pc + jumpOff imm)))

/-- JALR: the target's bit 0 is cleared. -/
def execJalr (rd rs1 : Reg) (imm : BitVec 12) (s : State) : Outcome :=
  .next (s.issue (fun t => s.transfer t rd ((t.getX rs1 + imm12 imm) &&& ~~~1#64)))

/-- Whether a branch is taken. -/
def branchTaken (op : BranchOp) (a b : Word) : Bool :=
  match op with
  | .beq => a == b
  | .bne => a != b
  | .blt => a.slt b
  | .bge => !a.slt b
  | .bltu => a.ult b
  | .bgeu => !a.ult b

/-- BRANCH -/
def execBranch (op : BranchOp) (rs1 rs2 : Reg) (imm : BitVec 12) (s : State) : Outcome :=
  .next (s.issue (fun t =>
    if branchTaken op (t.getX rs1) (t.getX rs2) then s.transfer t 0 (t.pc + branchOff imm) else s.retire t))

/-! ## System words -/

/-- ECALL: cause 8 (01 R32, 15 R304). -/
def execEcall (s : State) : Outcome := .next (s.issue (fun t => s.trap t 8 0))

/-- EBREAK: cause 3, or a halt where the debugger has asked for one in this mode (01 R32, 21 R367). -/
def execEbreak (s : State) : Outcome :=
  .next (s.issue (fun t =>
    let p := s.pcore s.turn.1
    if (if t.smode then p.ebreaks else p.ebreaku) then s.haltAt s.turn.1 1 else s.trap t 3 0))

/-- A fence at `scope`: `acq` acquires for earlier loads and AMOs, with a marker behind the posted AMOs that are under way; `loads` and `stores` say what
the release must precede (06 R131). -/
def State.fenceAt (s : State) (t : Thread) (scope : Nat) (acq loads stores : Bool) : State :=
  let s1 := if loads || stores then s.releaseAt s.turn.1 s.turn.2 t scope loads stores else s
  let s2 := if acq then s1.acquireAt s.turn.1 scope else s1
  let s3 := if acq && !loads && scope != 0 && s.amoOut s.turn.1 t.task then s2.sbPush s.turn.1 s.turn.2 t.task (.acquire scope) else s2
  s3.retire (if loads || stores then t.released scope else t)

/-- FENCE executes as `fence.sc sys` (04 R78). -/
def execFence (_fm _pred _succ : BitVec 4) (s : State) : Outcome := .next (s.issue (fun t => s.fenceAt t 4 true true true))

/-- FENCE.I executes as `ic.inv core` (04 R78). -/
def execFenceI (s : State) : Outcome := .next (s.issue (fun t => (s.invIcache s.turn.1).retire t))

end Sys2Proof.Machine
end

