-- ==== Sys2Proof/Machine/Control.lean ====
section
/-!
DEFINITION. The control instructions of custom-0: creating and ending tasks, hardware loops and stream branches (05 R96 to R109, R119).
-/
namespace Sys2Proof.Machine

/-! ## Ending and giving up a slot -/

/-- The counters that a `quit` decrements; a JOIN of 0 names none. -/
def quitStores (t : Thread) (tk : Task) (rs1 : Reg) : List Word := (if rs1 = 0 then [] else [t.getX rs1]) ++ (if tk.join = 0 then [] else [tk.join])

/-- The alignment and translation checks of a `quit`; address 0 in rs1 is an address like any other. -/
def State.quitBad (s : State) (t : Thread) (rs1 : Reg) : Option (Word × Counter) :=
  let own := if rs1 = 0 then none else match s.counter t.task t.smode (t.getX rs1) with
    | .at_ _ => none
    | r => some (t.getX rs1, r)
  match own with
  | some r => some r
  | none => s.countersBad t.task t.smode [(s.task t.task).join]

/-- The decrements of a `quit` whose counters pass: rs1's at the named scope, the JOIN counter's at `pkg` (05 R97). -/
def State.quitDecs (s : State) (t : Thread) (rs1 : Reg) (scope : Nat) : List Decrement :=
  let join := (s.task t.task).join
  ((if rs1 = 0 then [] else [(t.getX rs1, scope)]) ++ (if join = 0 then [] else [(join, 3)])).filterMap (fun (e : Word × Nat) =>
    match s.counter t.task t.smode e.1 with
    | .at_ pa => some (pa, e.1, e.2)
    | _ => none)

/-- QUIT (05 R97): a trap, a halt at a counter that a trigger matches (21 R367), a deposit while a counter's walk runs, or the end of the task. -/
def execQuit (rs1 scope : Reg) (s : State) : Outcome :=
  .next (s.issue (fun t =>
    let c := s.turn.1
    if t.resv.isSome then s.trap t 25 0
    else if (quitStores t (s.task t.task) rs1).any (s.triggerHit c .store t.smode) then s.haltAt c 2
    else
      match s.quitBad t rs1 with
      | some (a, .fault cause) => s.trap t cause a
      | some (a, _) =>
        s.yieldAt t t 1 0 a (.quit (if rs1 = 0 then 1 else t.getX rs1) (s.task t.task).join scope.toNat)
          (fun s r => s.push (.tlbWalkComplete r))
      | none =>
        (((s.drainWc c t).retireTask c s.turn.2 t.task (s.quitDecs t rs1 scope.toNat)).freeSlot c s.turn.2).wakeCore c))

/-- The thread gives up its slot at an instruction boundary: every register is saved and the record is ready at once (01 R20, 05
R98). -/
def State.giveUp (s : State) (c i : Nat) (i0 t : Thread) : State :=
  let d : Dep := { st := .ready, flt := false, all := true, reply := 0, cause := 0, wait := 0, obj := 0, want := .nothing }
  (s.deposit c i i0 t d).1

/-- YIELD (05 R98): always a deposit; the resume PC is the following instruction. -/
def execYield (s : State) : Outcome :=
  .next (s.issue (fun t => if t.resv.isSome then s.trap t 25 0 else s.giveUp s.turn.1 s.turn.2 t t.next))

/-- FORCED_YIELD (01 R20, 14 R298, 15 R321): the thread of the slot deposits with the instruction at the boundary as its resume PC; a
thread marked for a kill is killed there instead. -/
def execForcedYield (core slot : Nat) (s : State) : Outcome :=
  .next (match (s.slot core slot).thread with
    | none => s
    | some t =>
      match t.mark with
      | .kill => s.killThread core slot t
      | _ => if t.resv.isSome then s else s.giveUp core slot t t)

/-! ## Creating tasks -/

/-- SPAWN (05 R99): rd is 0 when the child takes a slot credit and 1 when it queues at the top of the target's deque. -/
def execSpawn (rd rs1 rs2 : Reg) (s : State) : Outcome :=
  .next (s.issue (fun t =>
    let c := s.turn.1
    let tk := s.task t.task
    let n := (t.getX rs1).toNat % 65536
    let entry := t.getX rs2
    let lc := tk.part * 4096 + n
    if s.coresOfTask tk.part tk.launch ≤ n ∨ s.nodeAway (s.nodeOfLc lc) then s.trap t 30 (word n)
    else if bits entry 0 2 ≠ 0 then s.trap t 0 entry
    else
      let (tid, s1) := s.newTid tk.lc
      let key := taskKey tk.part tid
      let s2 := s1.setTask key (childOf tk t tid n entry true)
      let free := if lc / 16 = tk.lc / 16 then s2.creditSlots (s2.physOf lc) else []
      let scope := scopeOf tk.lc lc
      match free[s2.freeN % free.length]? with
      | some i =>
        let s3 := (s2.setSlot (s2.physOf lc) i { thread := none, credit := some key }).drew
        (s3.afterRelease c s.turn.2 t.task scope (.startIn key (s2.physOf lc) i)).retire (t.setX rd 0)
      | none => (s2.afterRelease c s.turn.2 t.task scope (.deliver key lc false)).retire (t.setX rd 1)))

/-- FORK (05 R100): the increment, then the arm at the bottom of the own deque, seen once the counter's home has acknowledged, for which a release at
`node` waits, and one at `sys` where the counter lies at a pod peer or the host. -/
def execFork (rs1 rs2 : Reg) (s : State) : Outcome :=
  .next (s.issue (fun t =>
    let c := s.turn.1
    let tk := s.task t.task
    let entry := t.getX rs1
    let a := t.getX rs2
    let arm := fun (s : State) (scope : Nat) =>
      let (tid, s1) := s.newTid tk.lc
      let key := taskKey tk.part tid
      ((s1.setTask key (childOf tk t tid tk.lcore entry false)).afterRelease c s.turn.2 t.task scope (.deliver key tk.lc true)).retire t
    if bits entry 0 2 ≠ 0 then s.trap t 0 entry
    else if rs2 = 0 then arm s 0
    else if s.triggerHit c .store t.smode a then s.haltAt c 2
    else if a.toNat % 8 ≠ 0 then s.trap t 6 a
    else if s.counter t.task t.smode a == .miss && s.walkHeld t .store [a] then s
    else
      let (s1, r) := match s.counter t.task t.smode a with
        | .miss =>
          let x := s.resolve c tk.lc tk.launch t.smode (s.csrs tk.lc).satp .store a
          (x.1, x.1.counterOf x.2)
        | r => (s, r)
      match r with
      | .fault cause => s1.trap t cause a
      | .miss => s1.trap t 15 a
      | .at_ pa => arm (s1.postAmo c s.turn.2 t.task 0 true pa a 1 7) (if farPa pa then 4 else 2)))

/-! ## Monitored words -/

/-- A wait on a monitored word by the thread whose turn it is (05 R101, 06 R129): in a resident frame of its core the condition is
judged at issue and, when it does not hold, the monitor is armed in the same action; everywhere else the home judges. -/
def State.waitPath (s : State) (t : Thread) (op : AccOp) (wait reply : Nat) (va value : Word) (ne : Bool) : State :=
  let c := s.turn.1
  let a := { Acc.plain op [{ off := 0, va := va, size := 8, data := 0 }] with arg := value, mask := BitVec.allOnes 128 }
  let deny : Nat → MemType → Option Nat := fun pa ty => if ty = 3 ∨ regionOf pa = 2 then some 5 else none
  if s.triggerHit c .load t.smode va then s.haltAt c 2
  else
    let r := s.scan t .load deny a.pieces
    match r.bad with
    | some (p, cause) => s.trap t cause p.va
    | none =>
      if r.miss then s.yieldAt t t wait reply va (.access a) (fun s r => s.push (.tlbWalkComplete r))
      else
        match r.ok with
        | [(_, .frame pa)] =>
          if s.heldBack c t.task false false ∨ s.lineBusy c pa t.task ∨ s.inPath c pa 8 ∨ s.isParked pa ∨ s.isPoisoned pa then
            s.yieldAt t t wait reply va (.access a) (fun s r => s.push (.homeRequest r))
          else
            let v := word (s.readN pa 8)
            let m := fun r => ({ pa := pa, value := value, ne := ne, r := r, fired := none } : Monitor)
            let s1 := s.touch (s.task t.task).lc [pa]
            if (m { lc := 0, id := 0 }).met v then (s1.acquireL1 c).retire (t.setX (BitVec.ofNat 5 reply) v)
            else s1.yieldAt t t wait reply va (.access a) (fun s r => { s with monitors := s.monitors ++ [m r] })
        | _ => s.yieldAt t t wait reply va (.access a) (fun s r => s.push (.homeRequest r))

/-- JOIN (05 R101): `join x0` completes at once; else it waits until the counter reads 0. -/
def execJoin (rs1 : Reg) (s : State) : Outcome :=
  .next (s.issue (fun t => if rs1 = 0 then s.retire t else s.waitPath t .join 5 0 (t.getX rs1) 0 false))

/-! ## Submitting through the dispatcher -/

/-- TASK_SUB (05 R102): a record in resident pages that finds a credit is submitted within the rotation; one that finds the FIFO full waits at kind 9
wherever its record lies, for the core knows at issue whether there is room (14 R278). -/
def execTaskSub (rd rs1 : Reg) (s : State) : Outcome :=
  .next (s.issue (fun t =>
    let va := t.getX rs1
    let ps := (List.range 2).map (fun i => ({ off := 64 * i, va := va + word (64 * i), size := 64, data := 0 } : Piece))
    let a := { Acc.plain .readTask ps with mask := BitVec.allOnes 128 }
    let ln := (s.task t.task).lc / 16
    s.readPath t t rd.toNat a denyNone va (fun s t got =>
      let body := BitVec.ofNat 1024 got
      if (s.lnode ln).waiters.isEmpty ∧ s.inboxRoom ln then
        let (tid, s1) := s.submitTask s.turn.1 s.turn.2 t.task t.smode body
        s1.retire (t.setX rd (word tid))
      else s.yieldAt t t 9 rd.toNat va (.dispatcher false body) (fun s r => s.waitInbox r false body))
      (kind := if s.inboxRoom ln then 1 else 9)))

/-- LAUNCH (05 R104): always a deposit; the descriptor is read, and the reply brings the launch id. -/
def execLaunch (rd rs1 : Reg) (s : State) : Outcome :=
  .next (s.issue (fun t =>
    let c := s.turn.1
    let va := t.getX rs1
    let a := { Acc.plain .readLaunch [{ off := 0, va := va, size := 64, data := 0 }] with mask := BitVec.allOnes 128 }
    if s.triggerHit c .load t.smode va then s.haltAt c 2
    else
      let r := s.scan t .load denyNone a.pieces
      let a1 := { a with fwd := if s.heldBack c t.task false false then [] else s.forwarded c t.wc r.ok }
      let full := !s.inboxRoom ((s.task t.task).lc / 16)
      match r.bad with
      | some (p, cause) => s.trap t cause p.va
      | none => s.yieldAt t t (if full then 9 else 1) rd.toNat va (.access a1) (fun s r' =>
          s.push (if r.miss then .tlbWalkComplete r' else .homeRequest r'))))

/-! ## Hardware loops (05 R107, R108) -/

/-- The thread after its loop instruction: loop `n` with `count` passes over the `len` following instructions; none is cause 26. -/
def loopStart (t : Thread) (n : Nat) (count : BitVec 32) (len : BitVec 12) : Option Thread :=
  let start := t.pc + 4
  let stop := t.pc + word (4 * len.toNat)
  let h : HLoop := { remaining := count, start := start, stop := stop }
  let on0 := t.hl0.remaining ≠ 0
  let on1 := t.hl1.remaining ≠ 0
  if n = 0 then
    if on0 ∨ on1 then none
    else if count = 0 then some { t with pc := stop + 4 }
    else some { t with pc := start, hl0 := h }
  else if ¬on0 ∨ on1 ∨ t.pc.toNat < t.hl0.start.toNat ∨ t.hl0.stop.toNat < stop.toNat then none
  else if count = 0 then
    if stop = t.hl0.stop then
      let r := advance stop t.hl0 t.hl1
      some { t with pc := r.1, hl0 := r.2.1, hl1 := r.2.2 }
    else some { t with pc := stop + 4 }
  else some { t with pc := start, hl1 := h }

/-- Issue a loop instruction (05 R108). -/
def State.loop (s : State) (n : Nat) (count : Thread → BitVec 32) (len : BitVec 12) : State :=
  s.issue (fun t => match loopStart t n (count t) len with
    | none => s.trap t 26 0
    | some t1 => s.putCur t1)

/-- HL0 -/
def execHl0 (rs1 : Reg) (len : BitVec 12) (s : State) : Outcome := .next (s.loop 0 (fun t => (t.getX rs1).setWidth 32) len)
/-- HL1 -/
def execHl1 (rs1 : Reg) (len : BitVec 12) (s : State) : Outcome := .next (s.loop 1 (fun t => (t.getX rs1).setWidth 32) len)
/-- HL0I -/
def execHl0i (uimm : Reg) (len : BitVec 12) (s : State) : Outcome := .next (s.loop 0 (fun _ => uimm.setWidth 32) len)
/-- HL1I -/
def execHl1i (uimm : Reg) (len : BitVec 12) (s : State) : Outcome := .next (s.loop 1 (fun _ => uimm.setWidth 32) len)

/-! ## Stream branches (05 R119) -/

/-- Branch when flag 4N + dim of `kxeod` equals `want`. -/
def State.streamBranch (s : State) (q : Reg) (dim : BitVec 2) (imm : BitVec 12) (want : Bool) : State :=
  s.issue (fun t =>
    if (s.task t.task).eod.getLsbD (4 * q.toNat + dim.toNat) == want then s.transfer t 0 (t.pc + branchOff imm) else s.retire t)

/-- B_EOD -/
def execBEod (q : Reg) (dim : BitVec 2) (imm : BitVec 12) (s : State) : Outcome := .next (s.streamBranch q dim imm true)
/-- B_NEOD -/
def execBNeod (q : Reg) (dim : BitVec 2) (imm : BitVec 12) (s : State) : Outcome := .next (s.streamBranch q dim imm false)

end Sys2Proof.Machine
end

