-- ==== Sys2Proof/Machine/Ordering.lean ====
section
/-!
DEFINITION. The ordering instructions of custom-1: scoped loads and stores, AMOs, waits, fences, barriers and reservation sections
(06 R120 to R142).
-/
namespace Sys2Proof.Machine

/-! ## Scoped loads and stores (06 R123, R124) -/

/-- A load followed by an acquire at its scope; `sc` marks a sequentially consistent one. -/
def State.acquireLoad (s : State) (f : Scoped) (sc : Bool) : State :=
  s.issue (fun t =>
    let va := t.getX f.rs1
    let scope := f.scope.toNat
    let a := { scalarLoad (2 ^ f.width.toNat) true va (some scope) with arg := if sc && scope != 0 then 1 else 0 }
    s.readPath t t f.rd.toNat a denyNone va (fun s t got => loadDone a f.rd (s.acquireAt s.turn.1 scope) t got))

/-- LDA -/
def execLda (f : Scoped) (s : State) : Outcome := .next (s.acquireLoad f false)
/-- LDSC -/
def execLdsc (f : Scoped) (s : State) : Outcome := .next (s.acquireLoad f true)

/-- The access of a scoped store. -/
def scopedStore (t : Thread) (f : Scoped) : Acc :=
  scalarStore (2 ^ f.width.toNat) (t.getX f.rs1) (t.getX f.rs2) (some f.scope.toNat)

/-- A release at the scope, then a posted store. -/
def State.releaseStore (s : State) (t : Thread) (f : Scoped) : State :=
  let t1 := t.released f.scope.toNat
  (s.releaseAt s.turn.1 s.turn.2 t f.scope.toNat false false).writePath t1 t1 (scopedStore t f) true true

/-- STL -/
def execStl (f : Scoped) (s : State) : Outcome := .next (s.issue (fun t => s.releaseStore t f))

/-- The entries of an SC store: the release that orders it, its bytes, and the acknowledgement that its record waits for. -/
def State.scStore (s : State) (c slot task scope : Nat) (va : Word) (cells : List (Nat × Byte)) (device : Bool) (r : RecRef) : State :=
  let w := s.writeOf c task va cells
  ((((s.markRelease c slot task scope).sbPush c slot task (.data w false device)).sbPush c slot task (.release scope false false)).sbPush
    c slot task (.notify r)).modRec r (fun x => { x with want := .nothing })

/-- STSC (06 R123, R124): outside the own window at `quad` and wider it deposits until the store is acknowledged. -/
def execStsc (f : Scoped) (s : State) : Outcome :=
  .next (s.issue (fun t =>
    let c := s.turn.1
    let a := { scopedStore t f with arg := 1 }
    let r := s.scan t .store (storeDeny t.smode) a.pieces
    let va := t.getX f.rs1
    match r.bad, r.ok with
    | none, [(p, .out pa ty)] =>
      if f.scope = 0 ∨ s.triggerHit c .store t.smode va then s.releaseStore t f
      else s.yieldAt t t 1 0 va (.access a) (fun s' r =>
        let cells := chunkCells pa (toBytes p.size p.data)
        let s2 := s'.weigh (s.task t.task).lc (chunkWrites true [{ va := va, data := (toBytes p.size p.data).mapIdx (fun i b => (i, b)), loc := .out pa ty, one := false, count := 1 }])
        if s'.sbUsed c < sbSize then s2.scStore c s.turn.2 t.task f.scope.toNat va cells (ty == 3) r
        else s'.pushOnce (.storeBufferLeave c))
    | none, [] => if r.miss then s.yieldAt t t 1 0 va (.access a) (fun s r => s.push (.tlbWalkComplete r)) else s.releaseStore t f
    | _, _ => s.releaseStore t f))

/-! ## Atomic memory operations (06 R125, R126) -/

/-- The access of an AMO with operation code `op` (04 R86). -/
def amoAcc (t : Thread) (f : AmoF) (op : Nat) : Acc :=
  { Acc.plain (.amo op) [{ off := 0, va := t.getX f.rs1, size := if f.dbl then 8 else 4, data := 0 }] with
    arg := t.getX f.rs2, cmp := if f.rd = 0 then 0 else t.getX f.rd, dbl := f.dbl, mask := BitVec.allOnes 128,
    scope := if f.scope.toNat ≤ 4 then some f.scope.toNat else none }

/-- The AMO that an access sends to `pa`. -/
def amoReqOf (a : Acc) (op c task pa : Nat) (va : Word) (by_ : Option Issuer) (reply : Option RecRef) : AmoReq :=
  { op := op, dbl := a.dbl, pa := pa, arg := a.arg, cmp := a.cmp, reply := reply, ack := none, src := c / 16, va := va, task := task, by_ := by_ }

/-- Send an AMO through the store buffer: a release before it and, for a posted one, an acquire behind it, which the later accesses of the thread
follow (06 R126). -/
def State.sendAmo (s : State) (c slot task : Nat) (scope : Option Nat) (a : AmoReq) : State :=
  match scope with
  | none => s.sbPush c slot task (.amo a)
  | some n =>
    let s1 := (s.markRelease c slot task n).sbPush c slot task (.amo a)
    if a.reply.isNone ∧ n ≠ 0 then (s1.acquireAt c n).sbPush c slot task (.acquire n) else s1

/-- The value an AMO writes, as a weighbridge of its core sees it (09 R215). -/
def amoWrites (va : Word) (dbl : Bool) (v : Option Nat) : List (List (Nat × Byte)) :=
  match v with
  | none => []
  | some x => [(toBytes (if dbl then 8 else 4) x).mapIdx (fun i b => (va.toNat + i, b))]

/-- A posted AMO meets a poisoned line in a frame of its core: it takes no effect, and makes an entry of kind 6 (15 R318). -/
def State.poisonedAmo (s : State) (c task pa : Nat) (va : Word) : State :=
  s.ringEntry (s.task task).part (lineOf pa) 6 false (c / 16) va task

/-- An AMO by the thread whose turn it is. In a resident page of the own window it is done within the rotation; where the line is reserved by
another task or an earlier AMO to the word is under way it waits at kind 2, which the spec does not state (06 R126, R142, log 55). -/
def State.amo (s : State) (f : AmoF) (op : Nat) : State :=
  s.issue (fun t =>
    let c := s.turn.1
    let tk := s.task t.task
    let a := amoAcc t f op
    let va := t.getX f.rs1
    let reply := f.rd.toNat
    let walk := fun (s : State) => s.yieldAt t t 1 reply va (.access a) (fun s r => s.push (.tlbWalkComplete r))
    if s.triggerHit c .store t.smode va then s.haltAt c 2
    else
      let r := s.scan t .store (amoDeny op) a.pieces
      match r.bad, r.ok with
      | some (p, cause), _ => s.trap t cause p.va
      | none, [(_, .frame pa)] =>
        let (s1, t1) := match a.scope with
          | some n => (s.releaseAt c s.turn.2 t n false false, t.released n)
          | none => (s, t)
        if s1.lineBusy c pa t.task ∨ s1.atomBusy c pa (if f.dbl then 8 else 4) s1.nextId ∨
            (s1.firesAt r.ok ∧ s1.outstanding c 3) ∨ s1.isParked pa ∨ (s1.isPoisoned pa ∧ reply ≠ 0) ∨ s1.heldBack c t.task true a.scope.isSome ∨
            s1.heldBack c t.task false false then
          s1.yieldAt t1 t1 2 reply va (.access a) (fun s _ => s.waitLine t.task [pa] (waitPage tk.lc tk.launch r.ok))
        else if s1.isPoisoned pa then (s1.poisonedAmo c t.task pa va).retire t1
        else
          let d := s1.doAmo (amoReqOf a op c t.task pa va (s.issuerOf t.task) none)
          let s2 := (d.2.2.weigh tk.lc (amoWrites va f.dbl d.2.1)).touch tk.lc [pa]
          let s3 := match a.scope with | some n => s2.acquireAt c n | none => s2
          s3.retire (t1.setX f.rd (amoReply f.dbl d.1))
      | none, [(_, .absent pg)] =>
        s.yieldAt t t 2 reply va (.access a) (fun s _ => s.pushOnce (.pageInComplete pg))
      | none, [(_, .out pa _)] =>
        if f.rd = 0 then
          if sbSize ≤ s.sbUsed c then s.yieldAt t t 1 0 va (.access a) (fun s _ => s.pushOnce (.storeBufferLeave c))
          else
            let s0 := match a.scope with
              | some 4 => (s.drainWc c t).putCur { t with wc := none }
              | _ => s
            (s0.sendAmo c s.turn.2 t.task a.scope (amoReqOf a op c t.task pa va (s.issuerOf t.task) none)).retire
              (match a.scope with | some n => t.released n | none => t)
        else
          s.yieldAt t t 1 reply va (.access a) (fun s' r =>
            s'.sendAmo c s.turn.2 t.task a.scope (amoReqOf a op c t.task pa va (s.issuerOf t.task) (some r)))
      | none, _ => walk s)

/-- AMO_ADD -/
def execAmoAdd (f : AmoF) (s : State) : Outcome := .next (s.amo f 0)
/-- AMO_AND -/
def execAmoAnd (f : AmoF) (s : State) : Outcome := .next (s.amo f 1)
/-- AMO_OR -/
def execAmoOr (f : AmoF) (s : State) : Outcome := .next (s.amo f 2)
/-- AMO_XOR -/
def execAmoXor (f : AmoF) (s : State) : Outcome := .next (s.amo f 3)
/-- AMO_MIN -/
def execAmoMin (f : AmoF) (s : State) : Outcome := .next (s.amo f 4)
/-- AMO_MAX -/
def execAmoMax (f : AmoF) (s : State) : Outcome := .next (s.amo f 5)
/-- AMO_MINU -/
def execAmoMinu (f : AmoF) (s : State) : Outcome := .next (s.amo f 6)
/-- AMO_MAXU -/
def execAmoMaxu (f : AmoF) (s : State) : Outcome := .next (s.amo f 7)
/-- AMO_SWAP -/
def execAmoSwap (f : AmoF) (s : State) : Outcome := .next (s.amo f 8)
/-- AMO_CAS -/
def execAmoCas (f : AmoF) (s : State) : Outcome := .next (s.amo f 9)
/-- AMO_FADD -/
def execAmoFadd (f : AmoF) (s : State) : Outcome := .next (s.amo f 10)
/-- AMO_FMAX -/
def execAmoFmax (f : AmoF) (s : State) : Outcome := .next (s.amo f 11)
/-- AMO_FMIN -/
def execAmoFmin (f : AmoF) (s : State) : Outcome := .next (s.amo f 12)

/-! ## Waits and fences (06 R129, R131) -/

/-- WAIT_NE -/
def execWaitNe (rd rs2 rs1 : Reg) (s : State) : Outcome :=
  .next (s.issue (fun t => s.waitPath t .waitNe 7 rd.toNat (t.getX rs1) (t.getX rs2) true))
/-- WAIT_EQ -/
def execWaitEq (rd rs2 rs1 : Reg) (s : State) : Outcome :=
  .next (s.issue (fun t => s.waitPath t .waitEq 7 rd.toNat (t.getX rs1) (t.getX rs2) false))

/-- FENCE_ACQ -/
def execFenceAcq (scope : Reg) (s : State) : Outcome := .next (s.issue (fun t => s.fenceAt t scope.toNat true false false))
/-- FENCE_REL -/
def execFenceRel (scope : Reg) (s : State) : Outcome := .next (s.issue (fun t => s.fenceAt t scope.toNat false false true))
/-- FENCE_AR -/
def execFenceAr (scope : Reg) (s : State) : Outcome := .next (s.issue (fun t => s.fenceAt t scope.toNat true false true))
/-- FENCE_SC -/
def execFenceSc (scope : Reg) (s : State) : Outcome := .next (s.issue (fun t => s.fenceAt t scope.toNat true true true))

/-! ## Barriers (06 R132 to R137) -/

/-- The token of a phase. -/
def tokenOf (b : BarRef) (phase : Bool) : Word := word ((if phase then 65536 else 0) + handleOf b)

/-- BAR_INIT (06 R135): posted. -/
def execBarInit (rs1 rs2 : Reg) (s : State) : Outcome :=
  .next (s.issue (fun t =>
    let h := t.getX rs1
    let v := t.getX rs2
    match s.barOf (s.task t.task).lc h with
    | none => s.trap t 7 h
    | some b =>
      if bits v 25 39 ≠ 0 then s.trap t 7 v
      else (s.sbPush s.turn.1 s.turn.2 t.task (.barInit b (field v 0 24) (v.getLsbD 24))).retire t))

/-- BAR_ARRIVE (06 R136): a release at the level's scope, then a posted arrival; rd receives the token. -/
def execBarArrive (rd rs1 rs2 : Reg) (s : State) : Outcome :=
  .next (s.issue (fun t =>
    let h := t.getX rs1
    let v := t.getX rs2
    let lc := (s.task t.task).lc
    match s.barOf lc h with
    | none => s.trap t 7 h
    | some b =>
      if bits v 48 16 ≠ 0 then s.trap t 7 v
      else if !s.enabledFor s.turn.1 t.task lc b then s.trap t 7 h
      else
        let s1 := s.releaseAt s.turn.1 s.turn.2 t (levelScope b) false false
        (s1.sbPush s.turn.1 s.turn.2 t.task (.barArrive b v.toNat)).retire
          ((t.released (levelScope b)).setX rd (tokenOf b (s.copyOf lc b).phase))))

/-- BAR_WAIT (06 R137); resumed after a cause of its phase it waits for the next flip (15 R304). -/
def execBarWait (rs1 rs2 : Reg) (s : State) : Outcome :=
  .next (s.issue (fun t =>
    let h := t.getX rs1
    let tok := t.getX rs2
    let lc := (s.task t.task).lc
    match s.barOf lc h with
    | none => s.trap t 7 h
    | some b =>
      if bits tok 0 16 ≠ bits h 0 16 ∨ bits tok 17 47 ≠ 0 then s.trap t 7 tok
      else if t.again.isSome then s.yieldAt t t 6 0 h (.barrier b (s.copyOf lc b).phase false tok) (fun s _ => s)
      else if (s.copyOf lc b).phase != tok.getLsbD 16 then
        let s1 := s.barAcquire s.turn.1 b
        if (s.bar b).lerr ≠ 0 then s1.trapWait s.turn.1 s.turn.2 t (s.bar b).lerr h tok else s1.retire t
      else s.yieldAt t t 6 0 h (.barrier b (tok.getLsbD 16) false tok) (fun s _ => s)))

/-- BAR_AW (06 R136): an arrival of no bytes, then a wait on its token, which is the reply; resumed after a cause of its phase it arrives at nothing
and waits for the next flip (15 R304). -/
def execBarAw (rd rs1 : Reg) (s : State) : Outcome :=
  .next (s.issue (fun t =>
    let h := t.getX rs1
    let lc := (s.task t.task).lc
    match s.barOf lc h with
    | none => s.trap t 7 h
    | some b =>
      if let some (_, tok) := t.again then
        s.yieldAt t t 6 rd.toNat h (.barrier b (s.copyOf lc b).phase true tok) (fun s _ => s)
      else if !s.enabledFor s.turn.1 t.task lc b then s.trap t 7 h
      else
        let ph := (s.copyOf lc b).phase
        s.yieldAt t t 6 rd.toNat h (.barrier b ph true (tokenOf b ph)) (fun s' _ =>
          (s'.markRelease s.turn.1 s.turn.2 t.task (levelScope b)).sbPush s.turn.1 s.turn.2 t.task (.barArrive b 0))))

/-! ## Reservation sections (06 R139 to R141) -/

/-- The access fault of `res.acq`: device memory, host memory, pod peers. -/
def resDeny : Nat → MemType → Option Nat := fun pa ty => if ty = 3 ∨ regionOf pa = 2 ∨ regionOf pa = 4 then some 5 else none

/-- RES_ACQ (06 R139): a free line in a resident frame of the own window is reserved within the rotation; else the home queues the
request. -/
def execResAcq (vd rs1 : Reg) (s : State) : Outcome :=
  .next (s.issue (fun t =>
    let c := s.turn.1
    let va := t.getX rs1
    let reply := 32 + vd.toNat
    let a := { Acc.plain .resAcq [{ off := 0, va := va, size := 64, data := 0 }] with mask := BitVec.allOnes 128 }
    if t.resv.isSome then s.trap t 25 0
    else if s.triggerHit c .load t.smode va then s.haltAt c 2
    else
      let r := s.scan t .load resDeny a.pieces
      match r.bad, r.ok with
      | some (p, cause), _ => s.trap t cause p.va
      | none, [(_, .frame pa)] =>
        if s.heldBack c t.task false false ∨ s.amoPending c pa ∨ s.atomBusy c pa 64 s.nextId ∨ s.resvs.any (fun x => x.pa == pa) ∨ s.isParked pa ∨ s.isPoisoned pa then
          s.yieldAt t t 8 reply va (.access a) (fun s r => s.push (.homeReservation r))
        else
          let t1 : Thread := { t.setV vd (BitVec.ofNat 1024 (s.readN pa 64)) with resv := some { va := va, pa := pa, count := 0 } }
          let s1 : State := { s with resvs := s.resvs ++ [{ pa := pa, holder := t.task, queue := [] }] }
          ((s1.acquireL1 c).touch (s.task t.task).lc [pa]).retire t1
      | none, _ =>
        s.yieldAt t t 8 reply va (.access a) (fun s r' => s.push (if r.miss then .tlbWalkComplete r' else .homeReservation r'))))

/-- RES_REL (06 R140): the bytes chosen by the mask, then the end of the section; posted, a release at `pkg`. -/
def execResRel (vs rs1 rs2 : Reg) (s : State) : Outcome :=
  .next (s.issueRel (fun t =>
    let c := s.turn.1
    let va := t.getX rs1
    match t.resv with
    | none => s.trap t 25 va
    | some r =>
      if va ≠ r.va then s.trap t 25 va
      else if s.triggerHit c .store t.smode va then s.haltAt c 2
      else
        let m := t.getX rs2
        let data := toBytes 64 (t.getV vs).toNat
        let cells := (data.mapIdx (fun i b => (i, b))).filterMap (fun e => if m.getLsbD e.1 then some (r.pa + e.1, e.2) else none)
        let t1 := { t with resv := none }
        let w := { s.writeOf c t.task va cells with rel := some r.pa }
        if regionOf r.pa = 5 ∧ r.pa / 2 ^ 40 % 256 * 16 + r.pa / 2 ^ 36 % 16 = c ∧ !s.outstanding c 3 then
          (((s.applyWrite cells (s.task t.task).origin true).unreserve r.pa)).retire t1
        else
          let s1 : State := { s with resvs := s.resvs.map (fun (x : LineResv) => if x.pa == r.pa then { x with holder := releasing } else x) }
          ((s1.markRelease c s.turn.2 t.task 3).sbPush c s.turn.2 t.task (.data w false false)).retire t1))

end Sys2Proof.Machine
end

