-- ==== Sys2Proof/Machine/Tile.lean ====
section
/-!
DEFINITION. Tile words: their fields, the checks of `mx.issue`, operand extents, NQ4 weights, the sums of a matrix product, drain
conversions and requantising, with the census events of each element (08 R172 to R190, 03 R61 to R71).
-/
namespace Sys2Proof.Machine

/-! ## Fields (08 R177) -/

namespace Tw

/-- The operation code. -/
abbrev op (w : Cmd256) : Nat := field w 0 6
/-- How an MMA combines the sub-arrays (08 R172). -/
abbrev fuse (w : Cmd256) : Nat := field w 6 2
/-- The guard slot. -/
abbrev guard (w : Cmd256) : Nat := field w 8 4
/-- The guard sense. -/
abbrev sense (w : Cmd256) : Bool := w.getLsbD 12
/-- A's format. -/
abbrev afmt (w : Cmd256) : Nat := field w 13 3
/-- B's format. -/
abbrev bfmt (w : Cmd256) : Nat := field w 16 3
/-- A is signed. -/
abbrev asgn (w : Cmd256) : Bool := w.getLsbD 19
/-- B is signed. -/
abbrev bsgn (w : Cmd256) : Bool := w.getLsbD 20
/-- The accumulator: 0 FP32, 1 INT32 wrap, 2 INT32 saturate. -/
abbrev acc (w : Cmd256) : Nat := field w 21 2
/-- Add to the ACS. -/
abbrev accum (w : Cmd256) : Bool := w.getLsbD 23
/-- M, or a member's rows for a group. -/
abbrev rows (w : Cmd256) : Nat := field w 24 8 + 1
/-- N, or a member's columns for a group. -/
abbrev cols (w : Cmd256) : Nat := field w 32 8 + 1
/-- K. -/
abbrev depth (w : Cmd256) : Nat := 8 * (field w 40 16 + 1)
/-- First ACS row. -/
abbrev row0 (w : Cmd256) : Nat := field w 56 8
/-- First ACS column. -/
abbrev col0 (w : Cmd256) : Nat := field w 64 8
/-- A's address. -/
abbrev aaddr (w : Cmd256) : Nat := field w 72 32
/-- A's stride in bytes. -/
abbrev astr (w : Cmd256) : Nat := 16 * field w 104 16
/-- B's address. -/
abbrev baddr (w : Cmd256) : Nat := field w 120 32
/-- B's stride in bytes. -/
abbrev bstr (w : Cmd256) : Nat := 16 * field w 152 16
/-- A is K-major. -/
abbrev akm (w : Cmd256) : Bool := w.getLsbD 168
/-- B is K-major. -/
abbrev bkm (w : Cmd256) : Bool := w.getLsbD 169
/-- The census site. -/
abbrev site (w : Cmd256) : Nat := field w 170 12
/-- The target: 0 own, 1 pool, 2 group. -/
abbrev tgt (w : Cmd256) : Nat := field w 182 2
/-- The completion barrier's handle. -/
abbrev bar (w : Cmd256) : Nat := field w 184 16
/-- Row sums. -/
abbrev rsum (w : Cmd256) : Bool := w.getLsbD 216
/-- Column sums. -/
abbrev csum (w : Cmd256) : Bool := w.getLsbD 217
/-- A field of OPX, by the bit numbers of the word. -/
abbrev opx (w : Cmd256) (lo len : Nat) : Nat := field w lo len
/-- An MMA carries a fused drain. -/
abbrev fused (w : Cmd256) : Bool := w.getLsbD 252
/-- The rows of the whole result. -/
def allRows (w : Cmd256) : Nat := if tgt w = 2 then 4 * rows w else rows w
/-- The columns of the whole result. -/
def allCols (w : Cmd256) : Nat := if tgt w = 2 then 4 * cols w else cols w
/-- A zero point, read with its operand's sign (03 R68). -/
def zero (w : Cmd256) (b : Bool) : Int :=
  let v := if b then field w 208 8 else field w 200 8
  if (if b then bsgn w else asgn w) then signedOf 8 v else v
/-- The format code of a drain: 0 FP32, 1 BF16, 2 FP16, 3 INT32. -/
def drainFmt (w : Cmd256) : Nat := if op w = 1 then opx w 250 2 else opx w 219 2

end Tw

/-- Half bytes of an element by format code (08 R174). -/
def halfBytes (fmt : Nat) : Nat := match fmt with | 0 | 1 => 4 | 5 => 1 | _ => 2

/-- Bytes of a drained element. -/
def drainSize (fmt : Nat) : Nat := if fmt = 1 ∨ fmt = 2 then 2 else 4

/-- The bytes from an operand's address to its last byte (08 R174). -/
def operandExtent (kmajor : Bool) (stride lines depth fmt : Nat) : Nat :=
  let n := fun (k : Nat) => (k * halfBytes fmt + 1) / 2
  if kmajor then (lines - 1) * stride + n depth else (depth - 1) * stride + n lines

/-- The line pitch of a fused drain (08 R186). -/
def fusedPitch (w : Cmd256) : Nat := (drainSize (Tw.drainFmt w) * Tw.allCols w + 15) / 16 * 16

/-- The operand addresses of a command with the bytes of their extents: those read, then the destination (08 R180). -/
def operands (w : Cmd256) : List (Nat × Nat) × Option (Nat × Nat) :=
  let m := Tw.allRows w
  let n := Tw.allCols w
  let a := (Tw.aaddr w, operandExtent (Tw.akm w) (Tw.astr w) m (Tw.depth w) (Tw.afmt w))
  let b := (Tw.baddr w, operandExtent (Tw.bkm w) (Tw.bstr w) n (Tw.depth w) (Tw.bfmt w))
  match Tw.op w with
  | 1 => ([a, b], if Tw.fused w then
      some (Tw.opx w 218 32, (m - 1) * fusedPitch w + drainSize (Tw.drainFmt w) * n) else none)
  | 3 => ([(Tw.aaddr w, (m - 1) * Tw.astr w + 4 * n)], none)
  | 4 => ([], if w.getLsbD 218 then none else some (Tw.aaddr w, (m - 1) * Tw.astr w + drainSize (Tw.drainFmt w) * n))
  | 5 => ([(Tw.baddr w, 8 * n)], some (Tw.aaddr w, (m - 1) * Tw.astr w + n))
  | 6 => ((if Tw.rsum w then [a] else []) ++ (if Tw.csum w then [b] else []), none)
  | _ => ([], none)

/-! ## The checks of `mx.issue` (08 R181) -/

/-- Check 1: the code and the target. -/
def check1 (w : Cmd256) : Bool :=
  Tw.op w ≤ 8 && Tw.tgt w != 3 && (Tw.tgt w == 0 || Tw.op w == 1 || (Tw.tgt w == 2 && (Tw.op w == 2 || Tw.op w == 4)))

/-- A run of bits is zero. -/
abbrev zeroBits (w : Cmd256) (lo len : Nat) : Bool := field w lo len == 0

/-- The runs of bits that R178 marks 0 for a command, and the reserved bits of OPX. -/
def zeroRuns (op : Nat) : List (Nat × Nat) :=
  match op with
  | 1 => [(200, 16), (253, 3)]
  | 2 => [(6, 2), (13, 8), (23, 1), (40, 16), (72, 48), (120, 48), (168, 2), (200, 16), (218, 38)]
  | 3 => [(6, 2), (13, 8), (23, 1), (40, 16), (120, 48), (168, 2), (200, 18), (218, 38)]
  | 4 => [(6, 2), (13, 8), (23, 1), (40, 16), (152, 16), (168, 2), (200, 18), (221, 35)]
  | 5 => [(6, 2), (23, 1), (152, 16), (168, 2), (216, 2), (219, 37)]
  | 6 => [(6, 2), (21, 2), (200, 16), (218, 38)]
  | 7 => [(6, 2), (13, 11), (24, 16), (40, 16), (56, 16), (72, 48), (120, 48), (168, 2), (200, 18), (220, 36)]
  | _ => [(6, 2), (13, 11), (24, 16), (40, 16), (56, 16), (72, 48), (120, 48), (168, 2), (200, 18), (218, 38)]

/-- Check 2: zero fields, reserved bits, the sense of an unguarded command. -/
def check2 (w : Cmd256) : Bool :=
  (zeroRuns (Tw.op w)).all (fun r => zeroBits w r.1 r.2) && !(Tw.guard w == 0 && Tw.sense w)

/-- The pairing and the accumulator of an MMA (03 R63, R64). -/
def pairing (w : Cmd256) : Bool :=
  let a := Tw.afmt w
  let b := Tw.bfmt w
  if a = 5 ∨ b = 5 then
    (if a = 5 then b != 5 && Tw.akm w else Tw.bkm w) && Tw.acc w == 0 && Tw.depth w % 64 == 0
  else if a = 4 ∨ b = 4 then a == b && (Tw.acc w == 1 || Tw.acc w == 2)
  else Tw.acc w == 0

/-- Check 3: formats, signs, pairing. -/
def check3 (w : Cmd256) : Bool :=
  Tw.afmt w ≤ 5 && Tw.bfmt w ≤ 5 &&
    (if Tw.op w = 1 ∨ Tw.op w = 6 then
      (!Tw.asgn w || Tw.afmt w == 4) && (!Tw.bsgn w || Tw.bfmt w == 4) && (Tw.op w == 6 || pairing w)
    else true)

/-- Check 4: the bounds of the ACS (08 R179). -/
def check4 (w : Cmd256) : Bool := Tw.row0 w + Tw.rows w ≤ 256 && Tw.col0 w + Tw.cols w ≤ 256

/-- An operand address and its extent keep 08 R180; `base` is 16 × the issuer's logical node and `lcnt` is `kxlcnt`. -/
def addrOk (a extent base lcnt : Nat) (group : Bool) : Bool :=
  let node := a / 2 ^ 28
  (node == 15 || (group && node ≤ 3)) && a / 2 ^ 21 % 8 == 0 && a % 16 == 0 &&
    (node != 15 || base + a / 2 ^ 24 % 16 < lcnt) && a % 2 ^ 21 + extent ≤ windowSize

/-- Check 5: the operand addresses. -/
def check5 (w : Cmd256) (base lcnt : Nat) : Bool :=
  ((operands w).1 ++ (operands w).2.toList).all (fun o => addrOk o.1 o.2 base lcnt (Tw.tgt w == 2))

/-- The virtual address of a global drain (08 R187). -/
def drainVa (w : Cmd256) : Nat := Tw.baddr w * 2 ^ 32 + Tw.aaddr w

/-- Check 7: the rules of the command's own entry (08 R182, R185 to R189). -/
def check7 (w : Cmd256) : Bool :=
  let f := Tw.drainFmt w
  match Tw.op w with
  | 1 =>
    (!(Tw.rsum w || Tw.csum w) || (Tw.afmt w == 4 && Tw.bfmt w == 4)) &&
      (if Tw.fused w then Tw.tgt w != 2 && ((f == 3) == (Tw.acc w != 0)) else Tw.tgt w != 1)
  | 2 | 3 => Tw.acc w != 3
  | 4 =>
    Tw.acc w != 3 && !(Tw.acc w != 0 && (f == 1 || f == 2)) &&
      (if w.getLsbD 218 then
        drainVa w % 16 == 0 && drainVa w + (Tw.allRows w - 1) * Tw.astr w + drainSize f * Tw.allCols w ≤ 2 ^ 57
      else Tw.baddr w == 0)
  | 5 => (Tw.acc w == 1 || Tw.acc w == 2) && Tw.afmt w == 0 && Tw.bfmt w == 0
  | 6 =>
    (Tw.rsum w || Tw.csum w) &&
      (if Tw.rsum w then Tw.afmt w == 4 else Tw.aaddr w == 0 && Tw.astr w == 0 && !Tw.akm w) &&
      (if Tw.csum w then Tw.bfmt w == 4 else Tw.baddr w == 0 && Tw.bstr w == 0 && !Tw.bkm w)
  | 8 => Tw.bar w != 0xFFFF
  | _ => true

/-- CheckWord (08 R181): the first check that fails, 0 for none; `barOk` says that the handle is valid. -/
def checkWord (w : Cmd256) (base lcnt : Nat) (barOk : Bool) : Nat :=
  if !check1 w then 1
  else if !check2 w then 2
  else if !check3 w then 3
  else if !check4 w then 4
  else if !check5 w base lcnt then 5
  else if Tw.bar w ≠ 0xFFFF ∧ !barOk then 6
  else if !check7 w then 7
  else 0

/-! ## Elements (03 R55, R61) -/

/-- The INT8 value of an NQ4 code. -/
def nq4 (code : Nat) : Int :=
  let ladder : List Nat := [0, 9, 19, 31, 45, 62, 84, 112]
  if code = 8 then 127 else if code < 8 then (ladder.getD code 0 : Nat) else -((ladder.getD (code - 8) 0 : Nat) : Int)

/-- The integer value of an INT8 or NQ4 code. -/
def intElem (fmt : Nat) (sgn : Bool) (c : Nat) : Int := if fmt = 5 then nq4 c else if sgn then signedOf 8 c else c

/-- An integer as an exact value. -/
def FVal.ofInt (n : Int) : FVal := .fin (decide (n < 0)) n.natAbs 0

/-- The value of an operand element. An INT8 value of zero has no sign of its own and is taken as +0, so that its product with a negative NQ4 code, like that
of the code 0 with a negative INT8, is -0, which the spec does not state (03 R66, log 63). -/
def elemVal (fmt : Nat) (sgn : Bool) (c : Nat) : FVal :=
  match fmt with
  | 0 => Fmt.bf16.decode c
  | 1 => Fmt.fp16.decode c
  | 2 => Fmt.e4m3.decode c
  | 3 => Fmt.e5m2.decode c
  | _ => FVal.ofInt (intElem fmt sgn c)

/-- The factor of an NQ4 block, from its superscale and scale byte (03 R62). -/
def nq4Factor (sup b : Nat) : Nat :=
  match Fmt.fp32.decode sup with
  | .nan _ => Fmt.fp32.nanBits
  | .inf n => if b = 0 then Fmt.fp32.nanBits else Fmt.fp32.signBit n + Fmt.fp32.infBits
  | .fin n m e =>
    let v := m * b * 2 ^ 64
    (roundTo Fmt.fp32 0 n (v / 32385) (e - 64) (v % 32385 != 0)).bits

/-! ## Events (03 R71) -/

/-- Which counters an element counts in: NaN, infinity, saturation, underflow from bit 0 up. -/
abbrev Events := BitVec 4

/-- A finite value. -/
def FVal.isFin : FVal → Bool | .fin _ _ _ => true | _ => false

/-- The events of a rounding to `f` from inputs `ins`. -/
def eventsOf (f : Fmt) (ins : List FVal) (r : FRes) : Events :=
  let out := f.decode r.bits
  (if out.isNan && !ins.any FVal.isNan then 1 else 0) |||
  (if (match out with | .inf _ => true | _ => false) && ins.all FVal.isFin then 2 else 0) |||
  (if (r.flags &&& flagUF) != 0 && r.bits % 2 ^ (f.eb + f.fb) < 2 ^ f.fb then 8 else 0)

/-- A saturation. -/
abbrev evSat : Events := 4

/-- Count the events of elements. -/
def countEvents (l : List Events) : Census :=
  let n := fun (i : Nat) => (l.filter (fun e => e.getLsbD i)).length
  { nan := n 0, inf := n 1, sat := n 2, under := n 3 }

/-- Add counts to a site; each counter stops at 0xFFFF. -/
def Census.plus (a b : Census) : Census :=
  let f := fun (x y : Nat) => min 0xFFFF (x + y)
  { nan := f a.nan b.nan, inf := f a.inf b.inf, sat := f a.sat b.sat, under := f a.under b.under }

/-! ## Sums (03 R65, R66) -/

/-- One update of an FP32 accumulator: acc + p, rounded once. -/
def accStep (acc : Nat) (p : FVal) (ins : List FVal) : Nat × Events :=
  let a := Fmt.fp32.decode acc
  let r := (FVal.add 0 a p).round Fmt.fp32 0
  (r.bits, eventsOf Fmt.fp32 (a :: ins) r)

/-- `n` lists of `k` consecutive elements. -/
def groupsOf {α : Type} (k : Nat) : Nat → List α → List (List α)
  | 0, _ => []
  | n + 1, l => l.take k :: groupsOf k n (l.drop k)

/-- The FP32 sum over K-steps of 8. -/
def sumFp (acc : Nat) (a b : List FVal) : Nat × Events :=
  ((groupsOf 8 (a.length / 8) (a.zip b))).foldl (fun (x : Nat × Events) ps =>
    let r := accStep x.1 (exactSum (ps.map (fun p => p.1.mul p.2))) (ps.map (·.1) ++ ps.map (·.2))
    (r.1, x.2 ||| r.2)) (acc, 0)

/-- The FP32 sum over NQ4 blocks of 64: `q` the weights, `x` the other operand, `fs` the superscale and the factor of each block. -/
def sumNq (acc : Nat) (q x : List FVal) (fs : List (Nat × Nat)) : Nat × Events :=
  ((groupsOf 64 (q.length / 64) (q.zip x)).zip fs).foldl (fun (r : Nat × Events) e =>
    let s := exactSum (e.1.map (fun p => p.1.mul p.2))
    let y := accStep r.1 (s.mul (Fmt.fp32.decode e.2.2)) (Fmt.fp32.decode e.2.1 :: e.1.map (·.2))
    (y.1, r.2 ||| y.2)) (acc, 0)

/-- An INT32 pattern. -/
def int32 (n : Int) : Nat := (n % 2 ^ 32).toNat

/-- The INT32 sum over K-steps of 8, wrapping or saturating. -/
def sumInt (sat : Bool) (acc : Nat) (a b : List Int) : Nat × Events :=
  let r := (groupsOf 8 (a.length / 8) (a.zip b)).foldl (fun (x : Int × Events) ps =>
    let v := x.1 + (ps.map (fun p => p.1 * p.2)).sum
    if !sat then (signedOf 32 (int32 v), x.2)
    else if v < -2 ^ 31 then (-2 ^ 31, x.2 ||| evSat)
    else if 2 ^ 31 - 1 < v then (2 ^ 31 - 1, x.2 ||| evSat)
    else (v, x.2)) (signedOf 32 acc, 0)
  (int32 r.1, r.2)

/-! ## Drains (03 R67, R68) -/

/-- A drain conversion of an ACS element: source INT32 or FP32, format code, mode. -/
def drainElem (int : Bool) (fmt : Nat) (rm : RMode) (v : Nat) : Nat × Events :=
  let narrow := fun (f : Fmt) =>
    let r := fCvt Fmt.fp32 f rm v
    (r.bits, eventsOf f [Fmt.fp32.decode v] r)
  match int, fmt with
  | false, 1 => narrow Fmt.bf16
  | false, 2 => narrow Fmt.fp16
  | false, 3 =>
    let r := fToInt Fmt.fp32 rm (-2 ^ 31) (2 ^ 31 - 1) 32 v
    (r.bits, if (r.flags &&& flagNV) != 0 then evSat else 0)
  | true, 0 => ((intToF Fmt.fp32 rm (signedOf 32 v)).bits, 0)
  | _, _ => (v, 0)

/-- y / 2^n, rounded half to even. -/
def roundHalfEven (y : Int) (n : Nat) : Int :=
  let q := y / 2 ^ n
  let r := y % 2 ^ n
  if 2 * r < 2 ^ n then q else if 2 ^ n < 2 * r then q + 1 else if q % 2 = 0 then q else q + 1

/-- Requantise one element: the output byte and whether it was clamped; `e` is the column's table entry (03 R68). -/
def requant (acc rowsum colsum k zA zB : Int) (e : Nat) (unsigned : Bool) : Nat × Events :=
  let mult := signedOf 32 (e % 2 ^ 32)
  let shift := e / 2 ^ 32 % 256
  let ozb : Nat := e / 2 ^ 40 % 256
  let ozp : Int := if unsigned then ozb else signedOf 8 ozb
  let a1 := acc - zB * rowsum - zA * colsum + k * zA * zB
  let v := roundHalfEven (a1 * mult) (31 + shift) + ozp
  let lo : Int := if unsigned then 0 else -128
  let hi : Int := if unsigned then 255 else 127
  let out := if v < lo then lo else if hi < v then hi else v
  ((out % 256).toNat, if out = v then 0 else evSat)

/-- A table entry is well formed (03 R68). -/
def columnOk (e : Nat) : Bool := e / 2 ^ 32 % 256 ≤ 31 && e / 2 ^ 48 % 65536 == 0

/-! ## Counts (08 R190) -/

/-- The bytes that a command, or one part of a group command, counts. -/
def tileBytes (w : Cmd256) (part : Bool) : Nat :=
  let m := Tw.allRows w
  let n := Tw.allCols w
  let side := (if Tw.rsum w then 4 * m else 0) + (if Tw.csum w then 4 * n else 0)
  let whole := match Tw.op w with
    | 1 => 4 * m * n + (if Tw.fused w then drainSize (Tw.drainFmt w) * m * n else 0)
    | 2 => 4 * m * n + side
    | 3 => 4 * m * n
    | 4 => drainSize (Tw.drainFmt w) * m * n
    | 5 => m * n
    | 6 => side
    | _ => 0
  if part then whole / 16 else whole

/-- The pattern that a fault leaves (08 R196). -/
def faultPattern (w : Cmd256) : BitVec 32 := if Tw.op w ≠ 6 ∧ Tw.acc w = 0 then 0x7FC00000 else 0x80000000

end Sys2Proof.Machine
end

