-- ==== Sys2Proof/Machine/Engine.lean ====
section
/-!
DEFINITION. The matrix engines: guards, the engine queue and its range matcher, the forwarding of pool and group commands, the eight
commands and their completion (08 R170 to R199).
-/
namespace Sys2Proof.Machine

/-! ## Where a command's operands lie (08 R173, R180) -/

/-- The command that a reference names. -/
def State.cmdOf (s : State) (r : CmdRef) : Option Cmd := (s.lquad r.lq).queue.find? (fun c => c.id == r.id)

/-- Change a command. -/
def State.modCmd (s : State) (r : CmdRef) (f : Cmd → Cmd) : State :=
  s.modLquad r.lq (fun q => { q with queue := q.queue.map (fun c => if c.id == r.id then f c else c) })

/-- The issuing logical quad of a command in the queue of `lq`. -/
def Cmd.issuer (c : Cmd) (lq : Nat) : Nat := match c.part with | some (_, _, p) => p.lq | none => lq

/-- A part of a group command. -/
def Cmd.inGroup (c : Cmd) : Bool := c.part.isSome && Tw.tgt c.w == 2

/-- The group row and column of a part; 0 of any other command. -/
def Cmd.member (c : Cmd) : Nat × Nat := match c.part with | some (gr, gc, _) => (gr, gc) | none => (0, 0)

/-- The logical core that an operand address names (08 R173). -/
def State.opCore (s : State) (lq : Nat) (c : Cmd) (a : Nat) : Option Nat :=
  let home := c.issuer lq
  let node := a / 2 ^ 28
  let ln := if node = 15 then some (home / 4) else ((s.lquad home).group).bind (fun g => g.1[node]?)
  match ln with
  | none => none
  | some n =>
    let lc := 16 * n + a / 2 ^ 24 % 16
    if s.coresOfTask (partOfLc lc) c.launch ≤ numOfLc lc then none else some lc

/-- The physical node of the issuing queue. -/
def State.issuerNode (s : State) (lq : Nat) (c : Cmd) : Nat := (s.lnode (c.issuer lq / 4)).phys

/-- The place of offset `off` of the window of logical core `lc` for a command; none is a tile fault: its node is away, or the table of the issuing
node marks the node or the byte's home unreachable (08 R196). The scratchpads of the engine's own node serve it to its end (08 R199). -/
def State.opAt (s : State) (lq : Nat) (c : Cmd) (lc off : Nat) : Option Nat :=
  let n := s.nodeOfLc lc
  if (s.nodeAway n ∧ n ≠ (s.lquad lq).phys / 4) ∨ s.unreachable (s.issuerNode lq c) n then none
  else (s.pageByte (pageAt lc c.launch off) (off % pageSize)).filter (fun pa => !s.noRoute (s.issuerNode lq c) pa)

/-- The place of the byte `delta` bytes after an operand address; none is a tile fault (08 R196). -/
def State.opPa (s : State) (lq : Nat) (c : Cmd) (a delta : Nat) : Option Nat :=
  (s.opCore lq c a).bind (fun lc => s.opAt lq c lc (a % 2 ^ 21 + delta))

/-- The name of the line of offset `off` of the window of logical core `lc`. -/
def lineKey (lc off : Nat) : Nat := lc * 2 ^ 21 + off / 64 * 64

/-- Every value of a list, or none when one is missing. -/
def allSome {α : Type} : List (Option α) → Option (List α)
  | [] => some []
  | some a :: l => (allSome l).map (a :: ·)
  | none :: _ => none

/-- A byte of an operand as the command has read its line, or as it stands where it has read none; none is a tile fault. -/
def State.opByte (s : State) (lq : Nat) (c : Cmd) (a delta : Nat) : Option Byte :=
  let off := a % 2 ^ 21 + delta
  (s.opCore lq c a).bind (fun lc => match c.cap.find (lineKey lc off) with
    | some l => l.map (fun x => bits x (8 * (off % 64)) 8)
    | none => ((s.opAt lq c lc off).filter (fun pa => !s.isPoisoned pa)).map s.byteAt)

/-- `n` bytes of an operand as a number; a poisoned line is a tile fault. -/
def State.opRead (s : State) (lq : Nat) (c : Cmd) (a delta n : Nat) : Option Nat :=
  (allSome ((List.range n).map (fun i => s.opByte lq c a (delta + i)))).map ofBytes

/-- The names of the operand lines that the command reads. -/
def State.opKeys (s : State) (lq : Nat) (c : Cmd) : List Nat :=
  (operands c.w).1.flatMap (fun o => match s.opCore lq c o.1 with
    | none => []
    | some lc => (List.range ((o.1 % 64 + o.2 + 63) / 64)).map (fun i => lineKey lc (o.1 % 2 ^ 21 + 64 * i)))

/-- The place of the line that a name names. -/
def State.keyPa (s : State) (lq : Nat) (c : Cmd) (k : Nat) : Option Nat := s.opAt lq c (k / 2 ^ 21) (k % 2 ^ 21)

/-- Cells that store bytes from an operand address on. -/
def State.opCells (s : State) (lq : Nat) (c : Cmd) (a delta : Nat) (b : List Byte) : Option (List (Nat × Byte)) :=
  allSome (b.zipIdx.map (fun e => (s.opPa lq c a (delta + e.2)).map (fun pa => (pa, e.1))))

/-- The virtual address by which the issuing thread names a byte of an operand (09 R214). -/
def State.opVa (s : State) (lq : Nat) (c : Cmd) (a delta : Nat) : Nat :=
  match s.opCore lq c a with
  | none => 0
  | some lc =>
    let off := a % 2 ^ 21 + delta
    if lc = c.lc then ownBase + off else peerBase + numOfLc lc * windowSize + off

/-- The home lines of an operand's extent. -/
def State.opLines (s : State) (lq : Nat) (c : Cmd) (o : Nat × Nat) : List Nat :=
  (List.range ((o.1 % 64 + o.2 + 63) / 64)).filterMap (fun i => (s.opPa lq c (o.1 / 64 * 64) (64 * i)).map lineOf)

/-! ## The range matcher (08 R191, R192) -/

/-- A range: a space, and one or two intervals. Space 0 is global memory, 1 the ACS, 2 and 3 the side vectors, 8 + L the window of
logical core L; space 7 is a window that a pending MGRP is still to name, and so may be any. -/
structure Rng where
  space : Nat
  lo : Nat
  hi : Nat
  lo2 : Nat
  hi2 : Nat
deriving DecidableEq, Repr

/-- Two ranges share something. -/
def Rng.meets (a b : Rng) : Bool :=
  (a.space == 7 && 7 ≤ b.space) || (b.space == 7 && 7 ≤ a.space) ||
  (a.space == b.space && a.lo < b.hi && b.lo < a.hi && a.lo2 < b.hi2 && b.lo2 < a.hi2)

/-- A byte range widened to 64-byte lines. -/
def lineRng (space lo n : Nat) : Rng := { space := space, lo := lo / 64 * 64, hi := (lo + n + 63) / 64 * 64, lo2 := 0, hi2 := 1 }

/-- The scratchpad range of an operand; `open_` says that an MGRP before the command is still to run. -/
def State.opRng (s : State) (lq : Nat) (c : Cmd) (open_ : Bool) (o : Nat × Nat) : List Rng :=
  if open_ ∧ Tw.tgt c.w = 2 ∧ c.part.isNone ∧ o.1 / 2 ^ 28 ≠ 15 then [{ space := 7, lo := 0, hi := 1, lo2 := 0, hi2 := 1 }]
  else match s.opCore lq c o.1 with
  | none => []
  | some lc => [lineRng (8 + lc) (o.1 % 2 ^ 21) o.2]

/-- The ranges of `n` bytes by virtual address: a scratchpad aperture by logical core and offset, every other address as global memory (08 R191, 11 R238). -/
def vaRngs (lc va n : Nat) : List Rng :=
  if !inSpadSpace va then [lineRng 0 va n]
  else if va < peerBase then [lineRng (8 + lc) (va - ownBase) n]
  else (List.range (n / windowSize + 2)).filterMap (fun i =>
    let w := (va - peerBase) / windowSize + i
    let lo := max va (peerBase + w * windowSize)
    let hi := min (va + n) (peerBase + (w + 1) * windowSize)
    if lo < hi then some (lineRng (8 + partOfLc lc * 4096 + w) ((lo - peerBase) % windowSize) (hi - lo)) else none)

/-- The read set and the write set of a command (08 R191). -/
def State.cmdSets (s : State) (lq : Nat) (c : Cmd) (open_ : Bool) : List Rng × List Rng :=
  let w := c.w
  let ops := operands w
  let region : Rng := { space := 1, lo := Tw.row0 w, hi := Tw.row0 w + Tw.rows w, lo2 := Tw.col0 w, hi2 := Tw.col0 w + Tw.cols w }
  let rowR : Rng := { space := 2, lo := Tw.row0 w, hi := Tw.row0 w + Tw.rows w, lo2 := 0, hi2 := 1 }
  let colR : Rng := { space := 3, lo := Tw.col0 w, hi := Tw.col0 w + Tw.cols w, lo2 := 0, hi2 := 1 }
  let side := (if Tw.rsum w then [rowR] else []) ++ (if Tw.csum w then [colR] else [])
  let src := ops.1.flatMap (s.opRng lq c open_)
  let dst := (ops.2.toList).flatMap (s.opRng lq c open_)
  let old := fun (l : List Rng) => if Tw.accum w then l else []
  match Tw.op w with
  | 1 => (src ++ old (region :: side), region :: side ++ dst)
  | 2 => ([], region :: side)
  | 3 => (src, [region])
  | 4 => ([region], if w.getLsbD 218 then
      vaRngs c.lc (drainVa w) ((Tw.allRows w - 1) * Tw.astr w + drainSize (Tw.drainFmt w) * Tw.allCols w) else dst)
  | 5 => ([region, rowR, colR] ++ src, dst)
  | 6 => (src ++ old side, side)
  | _ => ([], [])

/-- Two commands conflict, each with whether an MGRP before it is still to run. -/
def State.cmdsConflict (s : State) (lq : Nat) (a b : Cmd × Bool) : Bool :=
  let x := s.cmdSets lq a.1 a.2
  let y := s.cmdSets lq b.1 b.2
  x.2.any (fun r => (y.1 ++ y.2).any r.meets) || x.1.any (fun r => y.2.any r.meets)

/-! ## The queue (08 R192, R193) -/

/-- The command waits at its guard. -/
def Cmd.atGuard (c : Cmd) : Bool := Tw.guard c.w != 0 && c.st == .queued && !c.dropped

/-- The command has started or has been discarded. -/
def Cmd.begun (c : Cmd) : Bool := c.st == .started || c.st == .voted || c.dropped

/-- The command does not keep later ones from the head of the queue: it has begun, or is an MBAR past its guard (08 R185, R193). -/
def Cmd.passes (c : Cmd) : Bool := c.begun || (Tw.op c.w == 8 && !c.atGuard)

/-- A guarded command that has not started holds every later one of its queue (08 R193); a part on another engine has no guard any more. -/
def Cmd.holds (c : Cmd) : Bool :=
  Tw.guard c.w != 0 && !c.passes && (match c.part with | some (_, _, p) => p.id == c.id | none => true)

/-- The guarded command at the head, with what its resolved guard decides: it runs, or it is discarded. -/
def LQuad.atHead (q : LQuad) : Option (Cmd × Bool) :=
  match q.queue.find? (fun c => !c.passes) with
  | none => none
  | some c =>
    if !c.atGuard then none
    else match q.guards.get .unresolved (Tw.guard c.w) with
      | .unresolved => none
      | .resolved b => some (c, b == Tw.sense c.w)

/-- Resolve guarded commands at the head, one after another (08 R193). A discarded MBAR still arrives in its turn. -/
def State.resolveGuards (lq : Nat) : Nat → State → State
  | 0, s => s
  | n + 1, s =>
    match (s.lquad lq).atHead with
    | none => s
    | some (c, run) =>
      let r : CmdRef := { lq := lq, id := c.id }
      if run then s.modCmd r (fun x => { x with st := .resolved })
      else if Tw.op c.w = 8 then State.resolveGuards lq n (s.modCmd r (fun x => { x with st := .resolved, dropped := true }))
      else State.resolveGuards lq n
        ((s.modCmd r (fun x => { x with st := .started, dropped := true })).push (.tileCommandComplete r))

/-- The step that starts a command. -/
def startOf (op : Nat) (r : CmdRef) : Instr :=
  match op with
  | 0 => .mnop r | 1 => .mma r | 2 => .mzero r | 3 => .mload r | 4 => .mdrain r | 5 => .mdrq r | 6 => .msums r | 7 => .mgrp r
  | _ => .mbar r

/-- What a command may do now, given the commands before it: start, be forwarded, or nothing. -/
def State.mayGo (s : State) (lq : Nat) (before : List Cmd) (c : Cmd) : Option Instr :=
  let r : CmdRef := { lq := lq, id := c.id }
  let op := Tw.op c.w
  let own := fun (x : Cmd) => x.issuer lq == lq
  let mgrps := fun (l : List Cmd) => l.any (fun x => Tw.op x.w == 7 && !x.dropped)
  let clear := before.zipIdx.all (fun x => x.1.dropped || !s.cmdsConflict lq (x.1, mgrps (before.take x.2)) (c, mgrps before))
  if c.st = .started ∨ c.st = .voted ∨ c.atGuard ∨ before.any Cmd.holds ∨ (c.dropped ∧ op ≠ 8) then none
  else if op = 7 then
    (if before.all (fun x => x.dropped || !(Tw.tgt x.w == 2 && own x)) then some (.mgrp r) else none)
  else if op = 8 then (if before.isEmpty then some (.mbar r) else none)
  else if c.part.isNone ∧ Tw.tgt c.w ≠ 0 then
    if c.st = .forwarded then none
    else if !clear ∨ !before.all (fun x => x.passes || x.st == .forwarded) then none
    else if Tw.tgt c.w = 1 then some (.poolForward r)
    else if before.all (fun x => x.dropped || Tw.op x.w != 7) then some (.groupForward r)
    else none
  else if clear then some (startOf op r)
  else none

/-- Guard writes take effect (05 R118). -/
def State.takeGuards (s : State) (lq : Nat) : State :=
  s.modLquad lq (fun q => { q with guards := q.guardNew.foldl (fun (g : Tbl Guard) e => g.set e.1 e.2.1) q.guards, guardNew := [] })

/-- Look at a queue again: guard writes of an earlier cycle take effect, guards at its head resolve, and the commands that may start are due. -/
def State.kick (s : State) (lq : Nat) : State :=
  let s0 := if (s.lquad lq).guardAt < s.clock then s.takeGuards lq else s
  let s1 := State.resolveGuards lq (s0.lquad lq).queue.length s0
  let q := (s1.lquad lq).queue
  (q.zipIdx.filterMap (fun e => s1.mayGo lq (q.take e.2) e.1)).foldl (fun st i => st.pushOnce i) s1

/-- The entries of an engine queue (08 R170). -/
abbrev engineQueueSize : Nat := 32

/-- The step in which a queue sees the guard writes of a cycle: the completion of no command. -/
def guardLook (lq : Nat) : Instr := .tileCommandComplete { lq := lq, id := 0 }

/-- A core may still issue in the present cycle. -/
def State.issuesNow (s : State) : Bool := match s.nextPlace with
  | some p => turnCycles s.turn p == 0 && !s.firstLate p
  | none => false

/-- The queue sees the guard writes, once the cycle in which they were made is over. -/
def State.lookGuards (s : State) (lq : Nat) : State :=
  if (s.lquad lq).guardNew.isEmpty then s
  else if (s.lquad lq).guardAt = s.clock ∧ s.issuesNow then s.putBack (guardLook lq)
  else (s.takeGuards lq).kick lq

/-- Logical core `lc` writes a guard; of the writes of one cycle that of the highest core stands (05 R118). -/
def State.writeGuard (s : State) (lq g lc : Nat) (v : Guard) : State :=
  let s1 := s.kick lq
  (s1.modLquad lq (fun q => { q with
    guardAt := s.clock
    guardNew := match q.guardNew.find g with
      | some (_, c) => if lc < c then q.guardNew else q.guardNew.set g (v, lc)
      | none => q.guardNew.set g (v, lc) })).pushOnce (guardLook lq)

/-- G_SET (05 R118): the guard resolves true when rs1 is not 0. -/
def execGSet (g rs1 : Reg) (s : State) : Outcome :=
  .next (s.issue (fun t =>
    let lc := (s.task t.task).lc
    (s.writeGuard (lc / 4) g.toNat lc (.resolved (t.getX rs1 != 0))).retire t))

/-- G_CLR (05 R118): the guard is unresolved again. -/
def execGClr (g : Reg) (s : State) : Outcome :=
  .next (s.issue (fun t =>
    let lc := (s.task t.task).lc
    (s.writeGuard (lc / 4) g.toNat lc .unresolved).retire t))

/-- The 256-bit lane group of a register. -/
def laneGroup (v : VReg) (sel : BitVec 2) : Cmd256 := v.extractLsb' (256 * sel.toNat) 256

/-- MX_ISSUE (08 R175): the word is checked and appended; with 32 incomplete commands it is held with the record. -/
def execMxIssue (vs : Reg) (sel : BitVec 2) (s : State) : Outcome :=
  .next (s.issue (fun t =>
    let tk := s.task t.task
    let lq := tk.lc / 4
    let w := laneGroup (t.getV vs) sel
    let chk := checkWord w (16 * (numOfLc tk.lc / 16)) (s.coresOfTask tk.part tk.launch) (s.barOf tk.lc (word (Tw.bar w))).isSome
    if chk ≠ 0 then s.trap t 27 (word chk)
    else
      let cmd : Cmd :=
        { id := s.nextId, w := w, frm := t.frm, scl := tk.scl, sscl := tk.sscl, satp := (s.csrs tk.lc).satp, task := t.task,
          lc := tk.lc, launch := tk.launch, smode := t.smode, st := .queued, err := 0, dropped := false, part := none, parts := 0,
          seen := [], cen := Census.zero, after := s.nextId }
      if engineQueueSize ≤ (s.lquad lq).queue.length then
        (s.bumpId.drew).yieldAt t t 9 0 s.freeW (.engineQueue { lq := lq, id := cmd.id }) (fun s r =>
          s.modLquad lq (fun q => { q with heldCmds := q.heldCmds ++ [(cmd, r)] }))
      else ((s.bumpId.modLquad lq (fun q => { q with queue := q.queue ++ [cmd] })).kick lq).retire t))

/-- Append held commands while the queue has room; their records become ready (08 R176). -/
def State.appendHeld (lq : Nat) : Nat → State → State
  | 0, s => s
  | n + 1, s =>
    if engineQueueSize ≤ (s.lquad lq).queue.length then s
    else match (s.lquad lq).heldCmds with
      | [] => s
      | (c, r) :: rest =>
        State.appendHeld lq n ((s.modLquad lq (fun q => { q with heldCmds := rest, queue := q.queue ++ [c] })).makeReady r Reply.none_)

/-! ## Running a command -/

/-- What running a command gives: the state with its effects, the lines it touched, a fault, its writes, its events, and the place and address of a
drain write that is lost because a table marks its way unreachable. -/
structure TileRun where
  state : State
  lines : List Nat
  fault : Bool
  seen : List (List (Nat × Byte))
  cen : Census
  lost : Option (Nat × Word) := none
deriving DecidableEq, Repr

/-- A run that changes nothing. -/
def TileRun.none_ (s : State) (fault : Bool) : TileRun := { state := s, lines := [], fault := fault, seen := [], cen := Census.zero }

/-- The scope of a release that the command's engine and operands follow (08 R194). -/
def State.cmdScope (s : State) (lq : Nat) (c : Cmd) : Nat :=
  if Tw.tgt c.w = 2 then 3 else if Tw.tgt c.w = 1 then 2
  else if (operands c.w).1.all (fun o => match s.opCore lq c o.1 with | some lc => lc / 4 == c.lc / 4 | none => true) then 1 else 2

/-- The logical quads that a physical quad hosts. -/
def State.quadsOn (s : State) (q : Nat) : List Nat := (s.lquads.filter (fun e => e.2.phys == q)).map (·.1)

/-- The command runs on the engine of the queue it stands in. -/
def Cmd.here (c : Cmd) : Bool := c.part.isSome || Tw.tgt c.w == 0

/-- A command of queue `lq` that uses the engine is ready to start. -/
def State.readyCmd (s : State) (lq : Nat) : Bool :=
  let q := (s.lquad lq).queue
  q.zipIdx.any (fun e => Tw.op e.1.w != 8 && e.1.here && (s.mayGo lq (q.take e.2) e.1).isSome &&
    !s.unreleased e.1.lc e.1.task e.1.after (s.cmdScope lq e.1))

/-- The engine of queue `lq` has to finish first, or to serve the other logical quad that it hosts (15 R320); an MMA of fuse 00, 01 or 10 runs beside
no other MMA, and at most four of fuse 11 run together (08 R172). -/
def State.engineBusy (s : State) (lq : Nat) (c : Cmd) : Bool :=
  let running := fun (l : Nat) => (s.lquad l).queue.filter (fun x => x.st == .started && x.here)
  let others := (s.quadsOn (s.lquad lq).phys).filter (· != lq)
  let mmas := (running lq).filter (fun x => Tw.op x.w == 1)
  others.any (fun o => !(running o).isEmpty) ||
  ((s.pquad (s.lquad lq).phys).engLast == lq && others.any s.readyCmd) ||
  (Tw.op c.w == 1 && (mmas.any (fun x => Tw.fuse x.w != 3 || Tw.fuse c.w != 3) || 4 ≤ mmas.length))

/-- A command starts: a pool command starts with its copy on another engine (08 R182). -/
def State.tileBegin (s : State) (r : CmdRef) (c : Cmd) : State :=
  if c.st = .started then s
  else
    let s1 := (s.modCmd r (fun y => { y with st := .started })).modPquad (s.lquad r.lq).phys (fun p => { p with engLast := r.lq })
    let s2 := s1.kick r.lq
    match c.part with
    | some (_, _, p) => if p ≠ r ∧ Tw.tgt c.w = 1 then (s2.modCmd p (fun y => { y with st := .started })).kick p.lq else s2
    | none => s2

/-- The state after a run, its command complete; a lost drain write makes an entry of kind 7 (15 R315, log 59). -/
def TileRun.complete (x : TileRun) (r : CmdRef) : State :=
  let s := match x.lost, x.state.cmdOf r with
    | some (pa, va), some c => x.state.ringEntry (partOfLc c.lc) (lineOf pa) 7 false (x.state.issuerNode r.lq c) va c.task
    | _, _ => x.state
  (s.modCmd r (fun y => { y with st := .started, err := if x.fault then 28 else 0, seen := x.seen, cen := x.cen, cap := [] })).push
    (.tileCommandComplete r)

/-- The parts of a group command. -/
def State.partsOf (s : State) (p : CmdRef) : List (CmdRef × Cmd) :=
  s.lquads.flatMap (fun e => (e.2.queue.filter (fun c => match c.part with | some (_, _, q) => q == p | none => false)).map (fun c =>
    ({ lq := e.1, id := c.id }, c)))

/-- Every part of a group command runs, or, where one of them meets a fault, none changes anything (08 R196); the answer gives the lines
too. -/
def State.groupRun (s : State) (parts : List (CmdRef × Cmd)) (run : State → Nat → Cmd → TileRun) : State × List Nat :=
  let all := parts.foldl (fun (e : Option (State × List Nat)) p => e.bind (fun y =>
    let x := run y.1 p.1.lq p.2
    if x.fault then none else some (x.complete p.1, y.2 ++ x.lines))) (some (s, []))
  match all with
  | some y => y
  | none => (parts.foldl (fun st p => TileRun.complete { TileRun.none_ st true with lost := (run s p.1.lq p.2).lost } p.1) s, [])

/-- The addresses, a 64-byte line apart, of the NQ4 tables that a command reads (03 R62). -/
def tableVas (c : Cmd) : List Word :=
  let w := c.w
  let (gr, gc) := c.member
  let blocks := Tw.depth w / 64
  let span := fun (first lines : Nat) =>
    let lo := (if c.inGroup then first * lines else 0) * blocks
    let n := lines * blocks
    ((List.range (n / 64 + 2)).map (fun i => c.scl + word (lo + min (64 * i) (n - 1)))) ++
      ((List.range (n / 2048 + 2)).map (fun i => c.sscl + word (lo / 128 * 4 + min (64 * i) ((lo + n - 1) / 128 * 4 - lo / 128 * 4))))
  if Tw.op w ≠ 1 then [] else if Tw.afmt w = 5 then span gr (Tw.rows w) else if Tw.bfmt w = 5 then span gc (Tw.cols w) else []

/-- A line that an address of a command leads to, or that its walk reads, is repair-pending (15 R316). -/
def State.vaParked (s : State) (lq : Nat) (c : Cmd) (va : Word) : Option Nat :=
  let core := 4 * (s.lquad lq).phys
  match s.tableParked core c.satp .load va with
  | some a => some a
  | none =>
    let x := s.resolve core c.lc c.launch c.smode c.satp .load va
    ((x.1.trPa x.2).map (·.1)).filter s.isParked

/-- A table line of the command's own addresses, or a line of its NQ4 tables, is repair-pending: the command waits there (15 R316). -/
def State.cmdParked (s : State) (lq : Nat) (c : Cmd) : Option Nat :=
  let w := c.w
  let pages := fun (va n : Nat) => (List.range (n / 4096 + 2)).map (fun i => word (va / 4096 * 4096 + 4096 * i))
  let drain := if Tw.op w = 4 ∧ w.getLsbD 218 then
      pages (drainVa w) ((Tw.allRows w - 1) * Tw.astr w + drainSize (Tw.drainFmt w) * Tw.allCols w)
    else []
  drain.findSome? (s.tableParked (4 * (s.lquad lq).phys) c.satp .store) <|> (tableVas c).findSome? (s.vaParked lq c)

/-- A step of the command of a queue entry: it starts, once its quad is not stopped, its release is done and the engine is free; it reads its operands, a line
that a free value picks at a time, each behind a reservation of the line; and its effects take place in one action (08 R192, R194, R196, 12
R265, log 15), those of a group command in all its parts together, once the engine of each is free for it (08 R172). -/
def State.tileStart (s : State) (r : CmdRef) (ev : Instr) (run : State → Nat → Cmd → TileRun) : State :=
  match s.cmdOf r with
  | none => s
  | some c =>
    if c.st ≠ .started ∧ ((s.pcore (4 * (s.lquad r.lq).phys)).stopped ∨ s.unreleased c.lc c.task c.after (s.cmdScope r.lq c) ∨
        s.engineBusy r.lq c) then s.putBack ev
    else
      let s1 := s.tileBegin r c
      let left := (s.opKeys r.lq c).filter (fun k => (c.cap.find k).isNone)
      match left[s.freeN % left.length]? with
      | some k =>
        let take := fun (s : State) (l : Option Line) => (s.modCmd r (fun y => { y with cap := y.cap.set k l })).push ev
        match s1.drew.keyPa r.lq c k with
        | none => take s1.drew none
        | some pa => s1.drew.atLines [pa] ev (fun s => take s (if s.isPoisoned pa then none else some (BitVec.ofNat 512 (s.readN pa 64))))
      | none =>
        match s1.cmdParked r.lq c, c.inGroup, c.part with
        | some line, _, _ => (s1.skipHead ev).park line ev
        | none, true, some (_, _, p) =>
          let parts := s1.partsOf p
          let sv := s1.modCmd r (fun y => { y with st := .voted })
          if parts.any (fun e => e.1 != r && e.2.st != .voted) then sv
          else if parts.any (fun e => sv.engineBusy e.1.lq e.2) then s1.putBack ev
          else
            let x := s1.groupRun parts run
            s1.atLines x.2 ev (fun _ => x.1)
        | none, _, _ =>
          let x := run s1 r.lq c
          s1.atLines x.lines ev (fun _ => x.complete r)

/-- Every element of the command's region takes the fault pattern (08 R196); a part of a group command changes nothing. -/
def State.faultRegion (s : State) (lq : Nat) (c : Cmd) (acs side : Bool) : State :=
  let w := c.w
  let v := faultPattern w
  if c.inGroup then s
  else
    let idx := (List.range (Tw.rows w)).flatMap (fun m => (List.range (Tw.cols w)).map (fun n => 256 * (Tw.row0 w + m) + Tw.col0 w + n))
    s.modLquad lq (fun q => { q with
      acs := if acs then idx.foldl (fun (t : Tbl (BitVec 32)) i => t.put 0 i v) q.acs else q.acs
      rowsum := if side && Tw.rsum w then
        (List.range (Tw.rows w)).foldl (fun (t : Tbl (BitVec 32)) m => t.put 0 (Tw.row0 w + m) 0x80000000) q.rowsum else q.rowsum
      colsum := if side && Tw.csum w then
        (List.range (Tw.cols w)).foldl (fun (t : Tbl (BitVec 32)) n => t.put 0 (Tw.col0 w + n) 0x80000000) q.colsum else q.colsum })

/-- The codes of an operand: for each of `lines` lines from `line0` on, its `depth` elements (08 R174, 03 R62). -/
def State.opCodes (s : State) (lq : Nat) (c : Cmd) (a stride : Nat) (kmajor : Bool) (fmt line0 lines depth : Nat) :
    Option (List (List Nat)) :=
  let hb := halfBytes fmt
  let one := fun (l k : Nat) =>
    let d := if kmajor then l * stride + k * hb / 2 else k * stride + l * hb / 2
    (s.opRead lq c a d ((hb + 1) / 2)).map (fun v => if fmt = 5 then (if k % 2 = 0 then v % 16 else v / 16) else v)
  allSome ((List.range lines).map (fun l => allSome ((List.range depth).map (fun k => one (line0 + l) k))))

/-- Bytes by virtual address through the captured tables, for a table that an engine reads: not device memory. -/
def State.vaRead (s : State) (lq : Nat) (c : Cmd) (va : Word) : Nat → State × Option (List Byte)
  | 0 => (s, some [])
  | n + 1 =>
    match s.resolve (4 * (s.lquad lq).phys) c.lc c.launch c.smode c.satp .load va with
    | (s1, tr) =>
      match s1.trPa tr with
      | none => (s1, none)
      | some (pa, ty) =>
        if ty = 3 ∨ s1.isPoisoned pa ∨ s1.noRoute (s1.issuerNode lq c) pa then (s1, none)
        else match s1.vaRead lq c (va + 1) n with
          | (s2, some l) => (s2, some (s1.byteAt pa :: l))
          | (s2, none) => (s2, none)

/-- The superscale and the factor of blocks `β` of a list (03 R62). -/
def State.factors (s : State) (lq : Nat) (c : Cmd) : List Nat → State × Option (List (Nat × Nat))
  | [] => (s, some [])
  | b :: bs =>
    match s.vaRead lq c (c.scl + word b) 1 with
    | (s1, some x) =>
      match s1.vaRead lq c (c.sscl + word (4 * (b / 128))) 4 with
      | (s2, some y) =>
        match s2.factors lq c bs with
        | (s3, some l) => (s3, some ((ofBytes y, nq4Factor (ofBytes y) (ofBytes x)) :: l))
        | (s3, none) => (s3, none)
      | (s2, none) => (s2, none)
    | (s1, none) => (s1, none)

/-- The factors of the NQ4 operand's lines, a list for each line; empty where no operand is NQ4. -/
def State.lineFactors (s : State) (lq : Nat) (c : Cmd) (arow bcol : Nat) : State × Option (List (List (Nat × Nat))) :=
  let w := c.w
  let blocks := Tw.depth w / 64
  let go := fun (line0 lines : Nat) =>
    let l := (List.range lines).flatMap (fun i => (List.range blocks).map (fun j => (line0 + i) * blocks + j))
    match s.factors lq c l with
    | (s1, some fs) => (s1, some (groupsOf blocks lines fs))
    | (s1, none) => (s1, none)
  if Tw.afmt w = 5 then go arow (Tw.rows w) else if Tw.bfmt w = 5 then go bcol (Tw.cols w) else (s, some [])

/-- One element of a product (03 R65, R66). -/
def productElem (w : Cmd256) (acc : Nat) (a b : List Nat) (fs : List (Nat × Nat)) : Nat × Events :=
  let fa := Tw.afmt w
  let fb := Tw.bfmt w
  if fa = 4 ∧ fb = 4 then sumInt (Tw.acc w == 2) acc (a.map (intElem 4 (Tw.asgn w))) (b.map (intElem 4 (Tw.bsgn w)))
  else
    let x := a.map (elemVal fa (Tw.asgn w))
    let y := b.map (elemVal fb (Tw.bsgn w))
    if fa = 5 then sumNq acc x y fs else if fb = 5 then sumNq acc y x fs else sumFp acc x y

/-- An element of a sparse list of lists. -/
def nth2 {α : Type} (l : List (List α)) (i : Nat) : List α := l.getD i []

/-- The side sums of a command from the codes of an operand (08 R186, R189). -/
def addSide (t : Tbl (BitVec 32)) (at_ : Nat) (accum sgn : Bool) (codes : List (List Nat)) : Tbl (BitVec 32) :=
  codes.zipIdx.foldl (fun (u : Tbl (BitVec 32)) e =>
    let old : BitVec 32 := if accum then u.get 0 (at_ + e.2) else 0
    u.put 0 (at_ + e.2) (old + BitVec.ofInt 32 ((e.1.map (intElem 4 sgn)).sum))) t

/-- Side sums of A and B where the command asks for them. -/
def LQuad.sides (q : LQuad) (w : Cmd256) (a b : List (List Nat)) : LQuad :=
  { q with rowsum := if Tw.rsum w then addSide q.rowsum (Tw.row0 w) (Tw.accum w) (Tw.asgn w) a else q.rowsum
           colsum := if Tw.csum w then addSide q.colsum (Tw.col0 w) (Tw.accum w) (Tw.bsgn w) b else q.colsum }

/-- The rows of a drain as bytes, with each element's events: rows and columns of the region, converted. -/
def drainRow (q : LQuad) (w : Cmd256) (frm : BitVec 3) (m : Nat) : List (List Byte × Events) :=
  (List.range (Tw.cols w)).map (fun n =>
    let v := (q.acs.get 0 (256 * (Tw.row0 w + m) + Tw.col0 w + n)).toNat
    let r := drainElem (Tw.acc w != 0) (Tw.drainFmt w) frm.toNat v
    (toBytes (drainSize (Tw.drainFmt w)) r.1, r.2))

/-- Apply one write of a command and note it by virtual address. -/
def TileRun.write (x : TileRun) (va : Nat) (cells : List (Nat × Byte)) : TileRun :=
  { x with state := x.state.applyWrite cells none true, lines := x.lines ++ cells.map (fun e => lineOf e.1),
           seen := x.seen ++ [cells.mapIdx (fun i e => (va + i, e.2))] }

/-- MMA on an engine (08 R186). -/
def State.runMma (s : State) (lq : Nat) (c : Cmd) : TileRun :=
  let w := c.w
  let (gr, gc) := c.member
  let arow := if c.inGroup then gr * Tw.rows w else 0
  let bcol := if c.inGroup then gc * Tw.cols w else 0
  let a := s.opCodes lq c (Tw.aaddr w) (Tw.astr w) (Tw.akm w) (Tw.afmt w) arow (Tw.rows w) (Tw.depth w)
  let b := s.opCodes lq c (Tw.baddr w) (Tw.bstr w) (Tw.bkm w) (Tw.bfmt w) bcol (Tw.cols w) (Tw.depth w)
  let dst := Tw.opx w 218 32
  let dstOk := !Tw.fused w ||
    (List.range (Tw.rows w)).all (fun m => (s.opCells lq c dst (m * fusedPitch w)
      (List.replicate (drainSize (Tw.drainFmt w) * Tw.cols w) 0)).isSome)
  match a, b, s.lineFactors lq c arow bcol with
  | some ca, some cb, (s1, some fs) =>
    if !dstOk then TileRun.none_ (s1.faultRegion lq c true true) true
    else
      let q := s1.lquad lq
      let elems := (List.range (Tw.rows w)).flatMap (fun m => (List.range (Tw.cols w)).map (fun n =>
        let i := 256 * (Tw.row0 w + m) + Tw.col0 w + n
        let acc := if Tw.accum w then (q.acs.get 0 i).toNat else 0
        let f := if Tw.afmt w = 5 then fs.getD m [] else fs.getD n []
        (i, productElem w acc (nth2 ca m) (nth2 cb n) f)))
      let q0 : LQuad := { q with acs := elems.foldl (fun (t : Tbl (BitVec 32)) e => t.put 0 e.1 (BitVec.ofNat 32 e.2.1)) q.acs }
      let q1 := q0.sides w ca cb
      let s2 := s1.setLquad lq q1
      let evs := elems.map (fun e => e.2.2)
      let x : TileRun := { state := s2, lines := [], fault := false, seen := [], cen := countEvents evs }
      if !Tw.fused w then x
      else
        let rows := (List.range (Tw.rows w)).map (drainRow q1 w c.frm)
        let x1 := rows.zipIdx.foldl (fun (x : TileRun) e =>
          match x.state.opCells lq c dst (e.2 * fusedPitch w) (e.1.flatMap (·.1)) with
          | some cells => x.write (s.opVa lq c dst (e.2 * fusedPitch w)) cells
          | none => x) x
        { x1 with cen := countEvents ((evs.zip (rows.flatMap (fun r => r.map (fun (y : List Byte × Events) => y.2)))).map (fun (e : Events × Events) => e.1 ||| e.2)) }
  | _, _, (s1, _) => TileRun.none_ (s1.faultRegion lq c true true) true

/-- MZERO on an engine (08 R187). -/
def State.runMzero (s : State) (lq : Nat) (c : Cmd) : TileRun :=
  let w := c.w
  let idx := (List.range (Tw.rows w)).flatMap (fun m => (List.range (Tw.cols w)).map (fun n => 256 * (Tw.row0 w + m) + Tw.col0 w + n))
  TileRun.none_ (s.modLquad lq (fun q => { q with
    acs := idx.foldl (fun (t : Tbl (BitVec 32)) i => t.put 0 i 0) q.acs
    rowsum := if Tw.rsum w then (List.range (Tw.rows w)).foldl (fun (t : Tbl (BitVec 32)) m => t.put 0 (Tw.row0 w + m) 0) q.rowsum
      else q.rowsum
    colsum := if Tw.csum w then (List.range (Tw.cols w)).foldl (fun (t : Tbl (BitVec 32)) n => t.put 0 (Tw.col0 w + n) 0) q.colsum
      else q.colsum })) false

/-- MLOAD on an engine (08 R187). -/
def State.runMload (s : State) (lq : Nat) (c : Cmd) : TileRun :=
  let w := c.w
  match allSome ((List.range (Tw.rows w)).map (fun m => allSome ((List.range (Tw.cols w)).map (fun n =>
      s.opRead lq c (Tw.aaddr w) (m * Tw.astr w + 4 * n) 4)))) with
  | none => TileRun.none_ (s.faultRegion lq c true false) true
  | some rows =>
    let cells := rows.zipIdx.flatMap (fun r => r.1.zipIdx.map (fun e => (256 * (Tw.row0 w + r.2) + Tw.col0 w + e.2, e.1)))
    TileRun.none_ (s.modLquad lq (fun q => { q with
      acs := cells.foldl (fun (t : Tbl (BitVec 32)) e => t.put 0 e.1 (BitVec.ofNat 32 e.2)) q.acs })) false

/-- The cells of the elements of a row of a global drain, through the captured tables, in normal or write-combining memory; an error is a
tile fault, with the place and address of a write that a table marks unreachable (08 R187, R196). -/
def State.globalCells (s : State) (lq : Nat) (c : Cmd) (va : Nat) :
    List (List Byte) → State × Except (Option (Nat × Word)) (List (Nat × List (Nat × Byte)))
  | [] => (s, .ok [])
  | b :: bs =>
    match s.resolve (4 * (s.lquad lq).phys) c.lc c.launch c.smode c.satp .store (word va) with
    | (s1, tr) =>
      match s1.trPa tr with
      | none => (s1, .error none)
      | some (pa, ty) =>
        if ty ≠ 0 ∧ ty ≠ 2 then (s1, .error none)
        else if s1.noRoute (s1.issuerNode lq c) pa then (s1, .error (some (pa, word va)))
        else match s1.globalCells lq c (va + b.length) bs with
          | (s2, .ok l) => (s2, .ok ((va, b.mapIdx (fun i x => (pa + i, x))) :: l))
          | (s2, .error u) => (s2, .error u)

/-- The place and address of the first byte of a row of a drain to a scratchpad to which a table marks the way unreachable. -/
def State.rowLost (s : State) (lq : Nat) (c : Cmd) (a delta n : Nat) : Option (Nat × Word) :=
  (List.range n).findSome? (fun i => (s.opCore lq c a).bind (fun lc =>
    let off := a % 2 ^ 21 + delta + i
    if (s.opAt lq c lc off).isSome ∨ s.nodeAway (s.nodeOfLc lc) then none
    else (s.pageByte (pageAt lc c.launch off) (off % pageSize)).map (fun pa => (pa, word (s.opVa lq c a (delta + i))))))

/-- The rows of MDRAIN, from row `m` on, up to a faulting row (08 R187, R196). -/
def State.drainRows (lq : Nat) (c : Cmd) (q : LQuad) : Nat → Nat → TileRun → TileRun
  | 0, _, x => x
  | n + 1, m, x =>
    let w := c.w
    let e := drainSize (Tw.drainFmt w)
    let (gr, gc) := c.member
    let delta := if c.inGroup then (gr * Tw.rows w + m) * Tw.astr w + e * (gc * Tw.cols w) else m * Tw.astr w
    let row := drainRow q w c.frm m
    let cen := x.cen.plus (countEvents (row.map (·.2)))
    if w.getLsbD 218 then
      match x.state.globalCells lq c (drainVa w + delta) (row.map (·.1)) with
      | (s1, .error u) => { x with state := s1, fault := true, lost := u }
      | (s1, .ok l) =>
        let all := l.flatMap (·.2)
        let x1 := { x with state := s1.applyWrite all none true, lines := x.lines ++ all.map (fun y => lineOf y.1), cen := cen,
                           seen := x.seen ++ l.map (fun y => y.2.mapIdx (fun i z => (y.1 + i, z.2))) }
        State.drainRows lq c q n (m + 1) x1
    else
      let bytes := row.flatMap (·.1)
      match x.state.opCells lq c (Tw.aaddr w) delta bytes with
      | none => { x with fault := true, lost := x.state.rowLost lq c (Tw.aaddr w) delta bytes.length }
      | some cells =>
        State.drainRows lq c q n (m + 1) { x.write (x.state.opVa lq c (Tw.aaddr w) delta) cells with cen := cen }

/-- MDRAIN on an engine. -/
def State.runMdrain (s : State) (lq : Nat) (c : Cmd) : TileRun :=
  State.drainRows lq c (s.lquad lq) (Tw.rows c.w) 0 (TileRun.none_ s false)

/-- MDRQ on an engine (08 R188): a column whose table entry or destination faults is not written. -/
def State.runMdrq (s : State) (lq : Nat) (c : Cmd) : TileRun :=
  let w := c.w
  let q := s.lquad lq
  let side := fun (t : Tbl (BitVec 32)) (i : Nat) => (t.get 0 i).toInt
  let table := (List.range (Tw.cols w)).map (fun n =>
    match s.opRead lq c (Tw.baddr w) (8 * n) 8 with
    | some e =>
      if columnOk e ∧ (List.range (Tw.rows w)).all (fun m => (s.opPa lq c (Tw.aaddr w) (m * Tw.astr w + n)).isSome) then some e else none
    | none => none)
  let lines := ((operands w).2.toList).flatMap (s.opLines lq c)
  let x0 : TileRun := { TileRun.none_ s (table.any Option.isNone) with lines := lines }
  (List.range (Tw.rows w)).foldl (fun (x : TileRun) m =>
    let outs := table.zipIdx.filterMap (fun e => e.1.map (fun ent =>
      (e.2, requant (signedOf 32 (q.acs.get 0 (256 * (Tw.row0 w + m) + Tw.col0 w + e.2)).toNat) (side q.rowsum (Tw.row0 w + m))
        (side q.colsum (Tw.col0 w + e.2)) (Tw.depth w) (Tw.zero w false) (Tw.zero w true) ent (w.getLsbD 218))))
    let cells := outs.filterMap (fun o => (s.opPa lq c (Tw.aaddr w) (m * Tw.astr w + o.1)).map (fun pa => (pa, BitVec.ofNat 8 o.2.1)))
    { x with state := x.state.applyWrite cells none true, cen := x.cen.plus (countEvents (outs.map (fun o => o.2.2))),
             seen := x.seen ++ [outs.map (fun o => (s.opVa lq c (Tw.aaddr w) (m * Tw.astr w + o.1), BitVec.ofNat 8 o.2.1))] }) x0

/-- MSUMS on an engine (08 R189). -/
def State.runMsums (s : State) (lq : Nat) (c : Cmd) : TileRun :=
  let w := c.w
  let get := fun (on : Bool) (a st : Nat) (km : Bool) (n : Nat) => if on then s.opCodes lq c a st km 4 0 n (Tw.depth w) else some []
  match get (Tw.rsum w) (Tw.aaddr w) (Tw.astr w) (Tw.akm w) (Tw.rows w), get (Tw.csum w) (Tw.baddr w) (Tw.bstr w) (Tw.bkm w) (Tw.cols w) with
  | some a, some b => TileRun.none_ (s.modLquad lq (fun q => q.sides w a b)) false
  | _, _ => TileRun.none_ (s.faultRegion lq c false true) true

/-- The four logical nodes of the block of MGRP by position; none where it cannot be formed (08 R183). -/
def State.groupBlock (s : State) (ln sx sy : Nat) : Option (List Nat) :=
  let n := (s.lnode ln).phys
  let x := n % 16
  let y := n / 16
  if x < sx ∨ 15 < x - sx + 1 ∨ y < sy ∨ 15 < y - sy + 1 then none
  else
    allSome ((List.range 4).map (fun p =>
      let m := 16 * (y - sy + p / 2) + (x - sx + p % 2)
      if m = n then some ln
      else if (s.pnode m).st != .admitted then none
      else ((s.lnodes.filter (fun e => e.2.phys == m && e.1 / 256 == ln / 256)).head?).map (·.1)))

/-- MGRP on an engine: the group register, or undefined with a tile fault. -/
def State.runMgrp (s : State) (lq : Nat) (c : Cmd) : TileRun :=
  let sx := Tw.opx c.w 218 1
  let sy := Tw.opx c.w 219 1
  match (if (s.pnode (s.lnode (lq / 4)).phys).st = .admitted then s.groupBlock (lq / 4) sx sy else none) with
  | some l => TileRun.none_ (s.modLquad lq (fun q => { q with group := some (l, sx, sy) })) false
  | none => TileRun.none_ (s.modLquad lq (fun q => { q with group := none })) true

/-- MNOP -/
def execMnop (c : CmdRef) (s : State) : Outcome := .next (s.tileStart c (.mnop c) (fun s _ _ => TileRun.none_ s false))
/-- MMA -/
def execMma (c : CmdRef) (s : State) : Outcome := .next (s.tileStart c (.mma c) State.runMma)
/-- MZERO -/
def execMzero (c : CmdRef) (s : State) : Outcome := .next (s.tileStart c (.mzero c) State.runMzero)
/-- MLOAD -/
def execMload (c : CmdRef) (s : State) : Outcome := .next (s.tileStart c (.mload c) State.runMload)
/-- MDRAIN -/
def execMdrain (c : CmdRef) (s : State) : Outcome := .next (s.tileStart c (.mdrain c) State.runMdrain)
/-- MDRQ -/
def execMdrq (c : CmdRef) (s : State) : Outcome := .next (s.tileStart c (.mdrq c) State.runMdrq)
/-- MSUMS -/
def execMsums (c : CmdRef) (s : State) : Outcome := .next (s.tileStart c (.msums c) State.runMsums)
/-- MGRP -/
def execMgrp (c : CmdRef) (s : State) : Outcome := .next (s.tileStart c (.mgrp c) State.runMgrp)

/-- A tile command's byte count is still on its way to its object. -/
def State.countsDue (s : State) : Bool := s.agenda.any (fun i => match i with | .barrierByteCount _ _ _ _ _ cp => !cp | _ => false)

/-- MBAR (08 R185): one arrival, once the earlier commands have completed and their counts are made; at a disabled object
the count is discarded and recorded (08 R197). -/
def execMbar (c : CmdRef) (s : State) : Outcome :=
  .next (if s.countsDue then s.putBack (.mbar c)
    else s.tileStart c (.mbar c) (fun s lq x =>
      match s.barOf x.lc (word (Tw.bar x.w)) with
      | none => TileRun.none_ s false
      | some b =>
        TileRun.none_ (s.toObject ((s.lquad lq).phys / 4) b (fun s =>
          if (s.bar b).exp = 0 then s.stick lq false 1 (Tw.site x.w) (handleOf b) else s.applyArrival b 0 0)) false))

/-! ## Forwarding (08 R182, R184) -/

/-- The engine that a pool command goes to: fewest incomplete commands, then the issuing quad, then the lowest. -/
def State.poolChoice (s : State) (lq : Nat) : Nat :=
  let base := lq / 4 * 4
  (List.range 4).foldl (fun b i =>
    if (s.lquad (base + i)).queue.length < (s.lquad b).queue.length then base + i else b) lq

/-- POOL_FORWARD (08 R182). -/
def execPoolForward (c : CmdRef) (s : State) : Outcome :=
  .next (match s.cmdOf c with
    | none => s
    | some x =>
      let to_ := s.poolChoice c.lq
      if to_ = c.lq then
        (s.modCmd c (fun y => { y with st := .forwarded, part := some (0, 0, c), parts := 1 })).kick c.lq
      else
        let s1 := s.modCmd c (fun y => { y with st := .forwarded, parts := 1 })
        let cp : Cmd := { x with id := s1.nextId, st := .resolved, part := some (0, 0, c), parts := 0 }
        ((s1.bumpId.modLquad to_ (fun q => { q with queue := q.queue ++ [cp] })).kick to_).kick c.lq)

/-- The members of a group: row, column and logical quad. -/
def groupMembers (nodes : List Nat) : List (Nat × Nat × Nat) :=
  (List.range 16).map (fun i =>
    let gr := i / 4
    let gc := i % 4
    (gr, gc, 4 * nodes.getD (2 * (gr / 2) + gc / 2) 0 + (2 * (gr % 2) + gc % 2)))

/-- The operands of a group command can be reached; else the whole command is a tile fault. -/
def State.groupOperandsOk (s : State) (lq : Nat) (c : Cmd) : Bool :=
  ((operands c.w).1 ++ (operands c.w).2.toList).all (fun o => (s.opPa lq c o.1 0).isSome)

/-- GROUP_FORWARD (08 R184): 16 parts, the issuing engine's own staying in its place; the parts are handed out together once every
member queue has a free entry (log 15). -/
def execGroupForward (c : CmdRef) (s : State) : Outcome :=
  .next (match s.cmdOf c with
    | none => s
    | some x =>
      match (s.lquad c.lq).group with
      | none =>
        ((s.modCmd c (fun y => { y with st := .started, err := 28 })).push (.tileCommandComplete c)).kick c.lq
      | some (nodes, _, _) =>
        let ms := groupMembers nodes
        let others := ms.filter (fun m => m.2.2 != c.lq)
        if !s.groupOperandsOk c.lq x then
          ((s.modCmd c (fun y => { y with st := .started, err := 28 })).push (.tileCommandComplete c)).kick c.lq
        else if others.any (fun m => engineQueueSize ≤ (s.lquad m.2.2).queue.length) then s.putBack (.groupForward c)
        else
          let own := (ms.find? (fun m => m.2.2 == c.lq)).getD (0, 0, c.lq)
          let s1 := s.modCmd c (fun y => { y with st := .forwarded, part := some (own.1, own.2.1, c), parts := 16 })
          let s2 := others.foldl (fun (st : State) m =>
            let cp : Cmd := { x with id := st.nextId, st := .resolved, part := some (m.1, m.2.1, c), parts := 0 }
            st.bumpId.modLquad m.2.2 (fun q => { q with queue := q.queue ++ [cp] })) s1
          ms.foldl (fun st m => st.kick m.2.2) s2)

/-! ## Completion (08 R190, R197, R198) -/

/-- One part of a command is done: the command leaves its queue with its last part. -/
def State.partDone (s : State) (p : CmdRef) : State :=
  match s.cmdOf p with
  | none => s
  | some x =>
    if x.parts ≤ 1 then s.modLquad p.lq (fun q => { q with queue := q.queue.filter (fun y => y.id != p.id) })
    else s.modCmd p (fun y => { y with parts := y.parts - 1 })

/-- TILE_COMMAND_COMPLETE: for no command, the queue's look at its guards; else the census site, the weighbridges, the byte count on its way, the held commands and the queue. -/
def execTileCommandComplete (c : CmdRef) (s : State) : Outcome :=
  .next (match s.cmdOf c with
    | none => s.lookGuards c.lq
    | some x =>
      let s1 := if x.cen = Census.zero ∨ !x.counts then s
        else s.modLquad c.lq (fun q => { q with census := q.census.modify Census.zero (Tw.site x.w) (fun o => o.plus x.cen) })
      let s2 := s1.weigh x.lc x.seen
      let s3 := match (if Tw.bar x.w = 0xFFFF ∨ Tw.op x.w = 8 then none else s2.barOf x.lc (word (Tw.bar x.w))) with
        | some b => s2.toObject ((s2.lquad c.lq).phys / 4) b (·.push (.barrierByteCount b (tileBytes x.w x.inGroup) x.err c.lq (Tw.site x.w) false))
        | none => s2
      let s4 := match x.part with
        | some (_, _, p) =>
          if p = c then s3.partDone c
          else ((s3.modLquad c.lq (fun q => { q with queue := q.queue.filter (fun y => y.id != c.id) })).partDone p)
        | none => s3.modLquad c.lq (fun q => { q with queue := q.queue.filter (fun y => y.id != c.id) })
      let s4 := s4.dropLaunch (c.lq / 1024) x.launch
      let home := x.issuer c.lq
      let go := fun (st : State) (lq : Nat) => (State.appendHeld lq (st.lquad lq).heldCmds.length st).kick lq
      if home = c.lq then go s4 c.lq else go (go s4 c.lq) home)

end Sys2Proof.Machine
end

