-- ==== Sys2Proof/Machine/Copies.lean ====
section
/-!
DEFINITION. The copy engines: descriptors and their checks, the queue, pieces, faults and completion (09 R200 to R207).
-/
namespace Sys2Proof.Machine

/-! ## Descriptors (09 R201, R202) -/

namespace Cd

/-- 0 copy, 1 fill32. -/
abbrev kind (d : Cmd256) : Nat := field d 0 3
/-- Which network a transfer takes. -/
abbrev net (d : Cmd256) : Nat := field d 4 2
/-- The release scope at completion. -/
abbrev scope (d : Cmd256) : Nat := field d 6 3
/-- Source address. -/
abbrev src (d : Cmd256) : Nat := field d 16 57
/-- The pattern of a fill. -/
abbrev pattern (d : Cmd256) : Nat := field d 16 32
/-- Destination address. -/
abbrev dst (d : Cmd256) : Nat := field d 73 57
/-- Bytes of a row. -/
abbrev rowBytes (d : Cmd256) : Nat := field d 130 32
/-- Rows, less one. -/
abbrev rows (d : Cmd256) : Nat := field d 162 16
/-- Source stride. -/
abbrev sstr (d : Cmd256) : Nat := field d 178 24
/-- Destination stride. -/
abbrev dstr (d : Cmd256) : Nat := field d 202 24
/-- The completion barrier's handle. -/
abbrev bar (d : Cmd256) : Nat := field d 226 16
/-- The bytes from the first to the last byte of a side. -/
abbrev extent (d : Cmd256) (stride : Nat) : Nat := rows d * stride + rowBytes d

end Cd

/-- CheckCopy (09 R202): the first check that fails, 0 for none. -/
def checkCopy (d : Cmd256) (barOk : Bool) : Nat :=
  let fill := Cd.kind d = 1
  let se := Cd.extent d (Cd.sstr d)
  let de := Cd.extent d (Cd.dstr d)
  if 1 < Cd.kind d ∨ Cd.net d = 3 ∨ 4 < Cd.scope d then 1
  else if !zeroBits d 9 7 ∨ !zeroBits d 242 14 ∨ (fill ∧ !zeroBits d 48 25) then 2
  else if Cd.rowBytes d = 0 ∨ (fill ∧ (Cd.rowBytes d % 4 ≠ 0 ∨ Cd.dst d % 4 ≠ 0)) then 3
  else if 2 ^ 57 < Cd.dst d + de ∨ (!fill ∧ (2 ^ 57 < Cd.src d + se ∨ (Cd.src d < Cd.dst d + de ∧ Cd.dst d < Cd.src d + se))) then 4
  else if Cd.bar d ≠ 0xFFFF ∧ !barOk then 5
  else 0

/-! ## The queue (09 R200, R203) -/

/-- The entries of a copy queue. -/
abbrev copyQueueSize : Nat := 64

/-- Descriptors that run at once. -/
abbrev copiesAtOnce : Nat := 8

/-- The descriptor that a reference names. -/
def State.copyOfRef (s : State) (r : CmdRef) : Option Copy := (s.lquad r.lq).copies.find? (fun c => c.id == r.id)

/-- Change a descriptor. -/
def State.modCopy (s : State) (r : CmdRef) (f : Copy → Copy) : State :=
  s.modLquad r.lq (fun q => { q with copies := q.copies.map (fun c => if c.id == r.id then f c else c) })

/-- Every piece of a descriptor has been sent, or a fault has ended it. -/
def Copy.sent (c : Copy) : Bool := decide (Cd.rows c.d < c.row)

/-- Start descriptors in queue order while fewer than eight run and the quad is not being vacated. -/
def State.kickCopies (lq : Nat) : Nat → State → State
  | 0, s => s
  | n + 1, s =>
    let q := s.lquad lq
    if copiesAtOnce ≤ (q.copies.filter (·.started)).length ∨ (s.pcore (4 * q.phys)).stopped then s
    else match q.copies.find? (fun c => !c.started) with
      | none => s
      | some c =>
        let r : CmdRef := { lq := lq, id := c.id }
        State.kickCopies lq n ((s.modCopy r (fun x => { x with started := true })).push (.copyStart r))

/-- CP_ISSUE (09 R200): the descriptor is checked and appended; with 64 incomplete descriptors it is held with the record. -/
def execCpIssue (vs : Reg) (sel : BitVec 2) (s : State) : Outcome :=
  .next (s.issue (fun t =>
    let tk := s.task t.task
    let lq := tk.lc / 4
    let d := laneGroup (t.getV vs) sel
    let chk := checkCopy d (s.barOf tk.lc (word (Cd.bar d))).isSome
    if chk ≠ 0 then s.trap t 27 (word chk)
    else
      let cp : Copy :=
        { id := s.nextId, d := d, satp := (s.csrs tk.lc).satp, task := t.task, lc := tk.lc, launch := tk.launch, smode := t.smode,
          started := false, row := 0, pos := 0, err := 0, seen := [], cells := [], after := s.nextId }
      if copyQueueSize ≤ (s.lquad lq).copies.length then
        (s.bumpId.drew).yieldAt t t 9 0 s.freeW (.copyQueue { lq := lq, id := cp.id }) (fun s r =>
          s.modLquad lq (fun q => { q with heldCopies := q.heldCopies ++ [(cp, r)] }))
      else
        (State.kickCopies lq 1 (s.bumpId.modLquad lq (fun q => { q with copies := q.copies ++ [cp] }))).retire t))

/-! ## Pieces (09 R203, R206) -/

/-- The place of an address of a copy, through the captured tables; none is a copy fault (09 R206, 17 R330). A write to a place that the tables mark
unreachable is lost, and the issuing node makes an entry of kind 7 (15 R315, log 59). -/
def State.copyPa (s : State) (lq : Nat) (c : Copy) (k : Kind) (va : Nat) : State × Option Nat :=
  let p := (s.lquad lq).phys
  let (s1, tr) := s.resolve (4 * p) c.lc c.launch c.smode c.satp k (word va)
  let away : Bool := match tr with
    | .spad pg _ => s1.nodeAway (s1.nodeOfLc pg.lc)
    | .mem pa _ => regionOf pa == 5 && s1.nodeAway (s1.homeNode pa)
    | _ => false
  match s1.trPa tr with
  | none => (s1, none)
  | some (pa, ty) =>
    let home := s1.homeNode pa
    let s2 := if k = .store ∧ s1.noRoute (p / 4) pa then s1.ringEntry (partOfLc c.lc) (lineOf pa) 7 false (p / 4) (word va) c.task else s1
    let route : Bool := !s1.noRoute (p / 4) pa && s1.copyRoute (Cd.net c.d) (p / 4) home &&
      (Cd.net c.d == 0 || k == .store || s1.copyRoute (Cd.net c.d) home (p / 4))
    (s2, if away ∨ ty = 3 ∨ !route ∨ (k = .load ∧ s1.isPoisoned pa) then none else some pa)

/-- The places of `n` bytes from an address on, translated at each aligned 64-byte boundary. -/
def State.copyPas (s : State) (lq : Nat) (c : Copy) (k : Kind) (va n : Nat) : State × Option (List Nat) :=
  let cut := min n (64 - va % 64)
  match s.copyPa lq c k va with
  | (s1, none) => (s1, none)
  | (s1, some pa) =>
    let head := (List.range cut).map (pa + ·)
    if n ≤ cut then (s1, some head)
    else match s1.copyPa lq c k (va + cut) with
      | (s2, none) => (s2, none)
      | (s2, some pb) => (s2, some (head ++ (List.range (n - cut)).map (pb + ·)))

/-- Add a piece to what a copy has written: a row is one write. -/
def addSeen (seen : List (List (Nat × Byte))) (new : Bool) (l : List (Nat × Byte)) : List (List (Nat × Byte)) :=
  if new then seen ++ [l] else seen.dropLast ++ [(seen.getLastD []) ++ l]

/-- The copy has met a fault at its next piece: no later piece is sent, and it is complete when the pieces before have been performed (09 R204, R206). -/
def State.copyFault (s : State) (r : CmdRef) : State :=
  let s1 := s.modCopy r (fun x => { x with err := 29, row := Cd.rows x.d + 1 })
  if ((s.copyOfRef r).map (·.flying)).getD 0 = 0 then s1.push (.copyComplete r) else s1

/-- The step by which a piece of a copy reaches its home: by the table's route, or straight over the network that NET forces (09 R203, 17 R331, 18 R343). -/
def State.sendPiece (s : State) (net : Nat) (w : WriteReq) : State := s.push (if net = 0 then s.routeWrite w else .homeWrite w)

/-- The scope of a release that a copy follows where it reads a source at `va`, with its bytes at `pas` (09 R205). -/
def State.sourceScope (s : State) (c : Copy) (va : Nat) (pas : List Nat) : Nat :=
  match pas with
  | [] => 5
  | pa :: _ =>
    if inSpadSpace va then
      if va < peerBase then 1 else max 1 (scopeOf c.lc (partOfLc c.lc * 4096 + (va - peerBase) / windowSize))
    else if regionOf pa = 5 then
      (if coreOfPa pa / 4 = s.physOf c.lc / 4 then 1 else if s.homeNode pa = s.nodeOfLc c.lc then 2 else 3)
    else if regionOf pa = 2 ∨ regionOf pa = 4 then 4 else 2

/-- A table line of the next piece's addresses is repair-pending: the walk waits there (15 R316). -/
def State.copyParked (s : State) (lq : Nat) (x : Copy) (sva dva n : Nat) : Option Nat :=
  let c := 4 * (s.lquad lq).phys
  (if Cd.kind x.d = 1 then [] else [sva, sva + n - 1]).findSome? (fun a => s.tableParked c x.satp .load (word a)) <|>
    s.tableParked c x.satp .store (word dva)

/-- COPY_START (09 R203, 18 R343): the source of the next piece of a running descriptor is read at its home, behind a reservation of its line (06 R142), and the
piece leaves as a posted write; then comes the piece after it. -/
def execCopyStart (c : CmdRef) (s : State) : Outcome :=
  let ev : Instr := .copyStart c
  .next (match s.copyOfRef c with
    | none => s.skipHead ev
    | some x =>
      let d := x.d
      let sva := Cd.src d + x.row * Cd.sstr d + x.pos
      let dva := Cd.dst d + x.row * Cd.dstr d + x.pos
      let n := min (64 - dva % 64) (Cd.rowBytes d - x.pos)
      if let some line := s.copyParked c.lq x sva dva n then (s.skipHead ev).park line ev else
      let (s1, src) := if Cd.kind d = 1 then (s, some []) else s.copyPas c.lq x .load sva n
      match src with
      | none => (s1.skipHead ev).copyFault c
      | some sp =>
        match s1.copyPas c.lq x .store dva n with
        | (s2, none) => (s2.skipHead ev).copyFault c
        | (s2, some dp) =>
          if s2.unreleased x.lc x.task x.after (s2.sourceScope x sva sp) then s2.stepAside ev
          else s2.atLines sp ev (fun s2 =>
            let bytes := if Cd.kind d = 1 then (List.range n).map (fun i => BitVec.ofNat 8 (Cd.pattern d / 2 ^ (8 * ((x.pos + i) % 4))))
              else sp.map s2.byteAt
            let cells := dp.zip bytes
            let s3 := s2.sendPiece (Cd.net d) { cells := cells, ack := none, src := (s2.lquad c.lq).phys / 4, va := word dva, task := x.task,
                                                rel := none, copy := some c }
            let endRow : Bool := x.pos + n == Cd.rowBytes d
            let s4 := s3.modCopy c (fun y => { y with
              row := if endRow then y.row + 1 else y.row, pos := if endRow then 0 else y.pos + n, flying := y.flying + 1
              seen := addSeen y.seen (y.pos == 0) (bytes.mapIdx (fun i b => (dva + i, b))) })
            if endRow ∧ x.row = Cd.rows d then s4 else s4.push ev))

/-- Append held descriptors while the queue has room; their records become ready (08 R176). -/
def State.appendHeldCopies (lq : Nat) : Nat → State → State
  | 0, s => s
  | n + 1, s =>
    if copyQueueSize ≤ (s.lquad lq).copies.length then s
    else match (s.lquad lq).heldCopies with
      | [] => s
      | (c, r) :: rest =>
        State.appendHeldCopies lq n
          ((s.modLquad lq (fun q => { q with heldCopies := rest, copies := q.copies ++ [c] })).makeReady r Reply.none_)

/-- COPY_COMPLETE (09 R204, R206, R207, R215, R233): mailboxes fire, the weighbridges see the writes, the byte count is on its way. -/
def execCopyComplete (c : CmdRef) (s : State) : Outcome :=
  .next (match s.copyOfRef c with
    | none => s
    | some x =>
      let s1 := (s.fireMailboxes x.cells none).weigh x.lc x.seen
      let s2 := if Cd.bar x.d = 0xFFFF then (if x.err = 0 then s1 else s1.stick c.lq true 2 0 0xFFFF)
        else match s1.barOf x.lc (word (Cd.bar x.d)) with
          | some b => s1.toObject ((s1.lquad c.lq).phys / 4) b (·.push (.barrierByteCount b (Cd.rowBytes x.d * (Cd.rows x.d + 1)) x.err c.lq 0 true))
          | none => s1
      let s3 := s2.modLquad c.lq (fun q => { q with copies := q.copies.filter (fun y => y.id != c.id) })
      let s3 := s3.dropLaunch (c.lq / 1024) x.launch
      let s4 := State.appendHeldCopies c.lq (s3.lquad c.lq).heldCopies.length s3
      State.kickCopies c.lq copiesAtOnce s4)

end Sys2Proof.Machine
end

