-- ==== Sys2Proof/Machine/Streams.lean ====
section
/-!
DEFINITION. Streams and channels: binding, walks, pushes and pops, credits, closing, and the steps that carry a channel's elements,
credits and closes (06 R143 to R150).
-/
namespace Sys2Proof.Machine

/-! ## Descriptors (06 R143, R150) -/

/-- Elements of a walk. -/
def Stream.total (st : Stream) : Nat := st.cnt.foldl (fun n c => n * (c + 1)) 1

/-- The index of element `n` in each dimension, i0 first. -/
def indices : List Nat → Nat → List Nat
  | [], _ => []
  | c :: cs, n => n % (c + 1) :: indices cs (n / (c + 1))

/-- The address of element `n` of a walk (06 R145). -/
def Stream.addr (st : Stream) (n : Nat) : Word :=
  let k : Int := ((indices st.cnt n).zip st.str).foldl (fun (a : Int) e => a + e.1 * e.2) 0
  st.base + BitVec.ofInt 64 (st.esize * k)

/-- The `kxeod` bits of a walk after element `n` moved: bit d when i0 to id are at their last values (06 R147). -/
def Stream.eodOf (st : Stream) (n : Nat) : Nat :=
  let l := (indices st.cnt n).zip st.cnt
  ((List.range l.length).map (fun d => if (l.take (d + 1)).all (fun e => e.1 == e.2) then 2 ^ d else 0)).sum

/-- A descriptor read from memory as a binding of a task of logical core `lc`; none where R150 gives cause 52. The peer window of the own core is
its own window (11 R238). -/
def Stream.ofBits (desc : Word) (d : BitVec 256) (lc kxlcnt : Nat) : Option Stream :=
  let kind := field d 0 2
  let esize := 2 ^ field d 2 2
  let ndim := field d 4 3
  let peer := field d 16 16
  let tag := field d 32 16
  let base := if kind = 1 then ownVa lc (field d 64 57) else field d 64 57
  let cnt := (List.range 4).map (fun i => field d (128 + 16 * i) 16)
  let str := (List.range 4).map (fun i => (bits d (192 + 16 * i) 16).toInt)
  let st : Stream :=
    { desc := desc, kind := kind, esize := esize, ndim := ndim, base := word base, cnt := cnt.take ndim, str := str.take ndim,
      peer := peer, tag := tag, pos := 0, dir := none }
  if field d 7 9 ≠ 0 ∨ field d 48 16 ≠ 0 ∨ field d 121 7 ≠ 0 ∨ kind = 3 ∨ ndim = 0 ∨ 4 < ndim then none
  else if (cnt.drop ndim).any (· != 0) ∨ (str.drop ndim).any (· != 0) then none
  else if kind = 0 then (if peer ≠ 0 ∨ tag ≠ 0 then none else some st)
  else if kxlcnt ≤ peer ∨ ndim ≠ 1 ∨ base % esize ≠ 0 then none
  else if kind = 1 then
    let c := cnt.headD 0 + 1
    if str.headD 0 ≠ 1 ∨ base < ownBase ∨ ownBase + windowSize < base + esize * c then none else some st
  else if base ≠ 0 ∨ cnt.headD 0 ≠ 0 ∨ str.headD 0 ≠ 0 then none
  else some st

/-! ## Channels (06 R146) -/

/-- The channel of a stream of a task. -/
def chanOf (t : Task) (st : Stream) : ChanRef :=
  if st.kind = 1 then { part := t.part, src := st.peer, dst := t.lcore, tag := st.tag }
  else { part := t.part, src := t.lcore, dst := st.peer, tag := st.tag }

/-- A channel neither of whose ends is bound. -/
def Chan.new (r : ChanRef) : Chan :=
  { ref := r, inEnd := none, outBound := false, inSize := 0, outSize := 0, credits := 0, inRing := 0, head := 0, closed := false,
    inClosed := false }

/-- The task that produces for a channel. -/
def State.producer (s : State) (r : ChanRef) : Option Task :=
  (s.tasks.find? (fun e => e.2.streams.any (fun q => q.2.kind == 2 && chanOf e.2 q.2 == r))).map (·.2)

/-- A channel. -/
def State.chan (s : State) (r : ChanRef) : Chan := (s.chans.find? (fun c => c.ref == r)).getD (Chan.new r)

/-- Change a channel. -/
def State.modChan (s : State) (r : ChanRef) (f : Chan → Chan) : State :=
  if s.chans.any (fun c => c.ref == r) then { s with chans := s.chans.map (fun c => if c.ref == r then f c else c) }
  else { s with chans := s.chans ++ [f (Chan.new r)] }

/-- The logical core at an end of a channel. -/
def chanCore (r : ChanRef) (dst : Bool) : Nat := r.part * 4096 + (if dst then r.dst else r.src)

/-! ## Binding (06 R144) -/

/-- Set the flags of stream `q` of a task. -/
def setEod (e : BitVec 32) (q bits_ : Nat) : BitVec 32 :=
  (e &&& ~~~(0xF#32 <<< (4 * q))) ||| (BitVec.ofNat 32 (bits_ % 16) <<< (4 * q))

/-- Bind stream `q` of a task to a descriptor that has been read: any earlier binding closes first; none is cause 52 (06 R144, R150). -/
def State.bindStream (s : State) (key q : Nat) (desc : Word) (d : BitVec 256) : Option State :=
  let t := s.task key
  match Stream.ofBits desc d t.lc (s.coresOfTask t.part t.launch) with
  | none => none
  | some st =>
    let r := chanOf t st
    let own : Bool := match t.streams.find q with | some o => o.kind == 1 && chanOf t o == r | none => false
    if st.kind = 1 ∧ (s.chan r).inEnd.isSome ∧ !own then none
    else
      let s1 := s.closeStream key q
      let s2 := s1.modTask key (fun x => { x with streams := x.streams.set q st, eod := setEod x.eod q 0 })
      if st.kind = 1 then
        let cap := st.cnt.headD 0 + 1
        let emptied := (s2.chan r).inClosed
        let s3 := (s2.drop (fun i => match i with
          | .channelCreditReturn c _ => c == r
          | .channelElementsArrive c _ => emptied && c == r
          | .channelCloseArrives c => emptied && c == r
          | _ => false)).modChan r (fun c =>
          { c with inEnd := some (key, q, cap), inSize := st.esize, credits := 0, inRing := 0, head := 0, inClosed := false,
                   outBound := if emptied then (s2.producer r).isSome else c.outBound, closed := c.closed && !c.outBound })
        some (s3.push (.channelCreditReturn r cap))
      else if st.kind = 2 then
        some (s2.modChan r (fun c => { c with outBound := true, outSize := st.esize, closed := c.closed && c.inEnd.isSome,
                                              inClosed := c.inClosed && c.inEnd.isSome, origin := t.origin }))
      else some s2

/-- The task has its 256-byte stream context, or is given one; else the silo address that faulted, or none where the silo has no room (01 R22, 05
R117). The spec gives the block no layout: the bindings stand in the task, and the block's bytes stay what they were (log 60). -/
def State.streamContext (s : State) (key : Nat) : Except (Option Word) State :=
  let t := s.task key
  if t.sctx.isSome then .ok s
  else
    match s.siloAlloc t.lc sctxSize with
    | none => .error none
    | some (a, s1) =>
      match s1.siloBad t.lc a sctxSize with
      | some u => .error (some u)
      | none =>
        let s2 := s1.modTask key (fun x => { x with sctx := some a.toNat })
        .ok (s2.modLcore t.lc (fun l => { l with blocks := l.blocks ++ [(a.toNat, sctxSize)] }))

/-- Q_BIND (06 R144). -/
def execQBind (q rs1 : Reg) (s : State) : Outcome :=
  .next (s.issue (fun t =>
    let va := t.getX rs1
    if va.toNat % 32 ≠ 0 then s.trap t 4 va
    else
      match s.streamContext t.task with
      | .error u => s.hold s.turn.1 s.turn.2 t u
      | .ok s1 =>
        let a := { Acc.plain .readStream [{ off := 0, va := va, size := 32, data := 0 }] with arg := q.setWidth 64 }
        s1.readPath t t 0 a denyNone va (fun s t got =>
          match s.bindStream t.task q.toNat va (BitVec.ofNat 256 got) with
          | none => s.trap t 52 va
          | some s2 => s2.retire t)))

/-! ## Moving elements -/

/-- The walk of stream `q` of a task has moved `n` elements in a direction (06 R145, R147). -/
def State.streamMoved (s : State) (key q n : Nat) (pop : Bool) : State :=
  match (s.task key).streams.find q with
  | none => s
  | some st =>
    let s1 := s.modTask key (fun x => { x with streams := x.streams.set q { st with pos := st.pos + n, dir := some pop } })
    if n = 0 then s1
    else s1.modTask key (fun x => { x with eod := setEod x.eod q (st.eodOf (st.pos + n - 1)) })

/-- What a walk access notes for its completion: the stream, the count and the direction. -/
def streamNote (q n : Nat) (pop : Bool) : Word := word (1 + q + 64 * n + (if pop then 32 else 0))

/-- A walk access of a task has completed from a record: its stream moves. -/
def State.streamDone (s : State) (key : Nat) (note : Word) : State :=
  if note = 0 then s
  else
    let n := note.toNat - 1
    s.streamMoved key (n % 32) (n / 64) (n / 32 % 2 == 1)

/-- The ring position `i` of a channel's consumer: a byte address in its own window. -/
def Stream.ringVa (st : Stream) (i : Nat) : Nat := st.base.toNat + st.esize * (i % (st.cnt.headD 0 + 1))

/-- The page of a ring position. -/
def ringPage (t : Task) (st : Stream) (i : Nat) : PageRef := pageAt t.lc t.launch (st.ringVa i - ownBase)

/-- The homes of the bytes of ring position `i`. -/
def State.ringPas (s : State) (t : Task) (st : Stream) (i : Nat) : List Nat :=
  (List.range st.esize).filterMap (fun j => s.pageByte (ringPage t st i) ((st.ringVa i + j) % pageSize))

/-- How many elements a pop of up to `n` takes now: none while it must wait (06 R146, R147). -/
def Chan.ready (c : Chan) (n : Nat) : Option Nat :=
  if n ≤ c.inRing then some n else if c.closed then some c.inRing else none

/-- Take `n` elements from the ring of stream `q`, whose pages it touches (11 R239): the elements, and the state with the credits on their way back, the flags
set and, beyond the quad, the pusher's release acquired (06 R146, R147). -/
def State.takeRing (s : State) (key q n : Nat) : List Nat × State :=
  let t := s.task key
  match t.streams.find q with
  | none => ([], s)
  | some st =>
    let r := chanOf t st
    let c := s.chan r
    let vals := (List.range n).map (fun i => ofBytes ((s.ringPas t st (c.head + i)).map s.byteAt))
    let s1 := s.modChan r (fun x => { x with inRing := x.inRing - n, head := (x.head + n) % (st.cnt.headD 0 + 1) })
    let s2 := if n = 0 then s1 else s1.push (.channelCreditReturn r n)
    let s2 := s2.touch t.lc ((List.range n).flatMap (fun i => s.ringPas t st (c.head + i)))
    let s3 := s2.modTask key (fun x => { x with eod := setEod x.eod q (if c.closed && c.inRing == n then 1 else 0) })
    let far := 2 ≤ scopeOf (chanCore r false) (chanCore r true)
    (vals, if far ∧ n ≠ 0 then s3.acquireL1 (s3.physOf t.lc) else s3)

/-- The first page of the ring that a pop of `n` elements needs and that is not resident. -/
def State.ringAbsent (s : State) (t : Task) (st : Stream) (n : Nat) : Option PageRef :=
  ((List.range n).map (fun i => ringPage t st ((s.chan (chanOf t st)).head + i))).find? (fun p => (s.frameOf p).isNone)

/-- The bytes that a pop of `n` elements reads. -/
def State.popPas (s : State) (t : Task) (st : Stream) (n : Nat) : List Nat :=
  (List.range n).flatMap (fun i => s.ringPas t st ((s.chan (chanOf t st)).head + i))

/-- The page of the first element of a ring. -/
def State.headPage (s : State) (t : Task) (st : Stream) : PageRef := ringPage t st (s.chan (chanOf t st)).head

/-- A pop of `n` elements waits for a line of its ring: one that another task has reserved, or that is being repaired; `due` says that the pop has
waited, and stands for its step at the head of the line's queue (06 R142, 15 R316). -/
def State.ringBusy (s : State) (key : Nat) (st : Stream) (n : Nat) (due : Bool) : Bool :=
  let t := s.task key
  let c := s.physOf t.lc
  (s.popPas t st n).any (fun pa =>
    (if due then s.lineBusyAt c pa key (.pageInComplete (s.headPage t st)) else s.lineBusy c pa key) || s.isParked pa)

/-- The address of the first poisoned element that a pop of `n` elements reads (15 R318). -/
def State.ringPoison (s : State) (t : Task) (st : Stream) (n : Nat) : Option Word :=
  let h := (s.chan (chanOf t st)).head
  ((List.range n).find? (fun i => (s.ringPas t st (h + i)).any s.isPoisoned)).map (fun i => word (st.ringVa (h + i)))

/-- Elements as a register, element `i` at byte esize × (at + i). -/
def packElems (esize at_ : Nat) (vals : List Nat) : VReg :=
  BitVec.ofNat 1024 ((vals.zipIdx.map (fun e => e.1 * 2 ^ (8 * esize * (at_ + e.2)))).sum)

/-- The bytes of a register from byte `n` upward. -/
def bytesFrom (n : Nat) : PReg := BitVec.allOnes 128 <<< n

/-- Send `vals` over a channel: the credits go, and the elements follow the pusher's release at the smallest scope that contains both
ends (06 R146). -/
def State.sendElems (s : State) (c slot key q : Nat) (r : ChanRef) (vals : List Word) : State :=
  let s1 := s.modChan r (fun x => { x with credits := x.credits - vals.length })
  let s2 := s1.modTask key (fun x => { x with eod := setEod x.eod q 0 })
  s2.afterRelease c slot key (scopeOf (chanCore r false) (chanCore r true)) (.send (.channelElementsArrive r vals))

/-! ## Records that wait on a channel -/

/-- The waiting records of a task on stream `q`. -/
def State.streamWaiter (s : State) (key q : Nat) (push : Bool) : Option (RecRef × Rec × Bool × List Word) :=
  let lc := (s.task key).lc
  (s.lcore lc).recs.findSome? (fun x => match x.want with
    | .stream n p v vals =>
      if x.task = key ∧ n = q ∧ p = push ∧ x.st = .waiting then some ({ lc := lc, id := x.id }, x, v, vals) else none
    | _ => none)

/-- The elements a waiting vector pop asks for are kept as its count and first element in `vals`; a scalar pop asks for one. -/
def popShape (vector : Bool) (vals : List Word) : Nat × Nat :=
  match vector, vals with
  | true, [n, at_] => (n.toNat, at_.toNat)
  | _, _ => (1, 0)

/-- Serve the waiting pop of stream `q` of a task where it can be served. -/
def State.servePop (s : State) (key q : Nat) : State :=
  match s.streamWaiter key q false, (s.task key).streams.find q with
  | some (r, _, vector, vals), some st =>
    let shape := popShape vector vals
    match (s.chan (chanOf (s.task key) st)).ready shape.1 with
    | none => s
    | some n =>
      match s.ringAbsent (s.task key) st n with
      | some pg => s.pushOnce (.pageInComplete pg)
      | none =>
        if s.ringBusy key st n true then s.waitLine key (s.popPas (s.task key) st n) (s.headPage (s.task key) st)
        else if let some va := s.ringPoison (s.task key) st n then s.makeReady r (Reply.trap_ 31 va)
        else
        let (got, s1) := s.takeRing key q n
        s1.makeReady r (if vector then { val := packElems st.esize shape.2 got, mask := bytesFrom (st.esize * shape.2), err := none }
          else Reply.word_ (word (got.headD 0)))
  | _, _ => s

/-- Serve the waiting push of stream `q` of a task where its credits suffice; a closed consumer ends it with cause 52. -/
def State.servePush (s : State) (key q : Nat) : State :=
  match s.streamWaiter key q true, (s.task key).streams.find q with
  | some (r, _, _, vals), some st =>
    let ref := chanOf (s.task key) st
    let c := s.chan ref
    if c.inClosed ∨ (c.inEnd.isSome ∧ c.inSize ≠ c.outSize) then s.makeReady r (Reply.trap_ 52 st.desc)
    else if c.credits < vals.length then s
    else (s.sendElems (s.coreOf r) 0 key q ref vals).makeReady r Reply.none_
  | _, _ => s

/-- Serve the pushes that wait on a channel. -/
def State.servePushes (s : State) (r : ChanRef) : State :=
  let ends := s.tasks.flatMap (fun e => (e.2.streams.filter (fun q => q.2.kind == 2 && chanOf e.2 q.2 == r)).map (fun q => (e.1, q.1)))
  ends.foldl (fun st e => st.servePush e.1 e.2) s

/-! ## Pops and pushes by a thread -/

/-- OBJ of cause 52 for an unbound stream, which has no address: a free value (log 13). -/
def State.unbound (s : State) (t : Thread) : State := s.drew.trap t 52 s.freeW

/-- A pop of `n` elements into byte esize × `at_` of the reply; one of an out stream has cause 52 (log 42). -/
def State.pop (s : State) (t : Thread) (q : Reg) (reply : Nat) (vector : Bool) (n at_ : Nat) (st : Stream) : State :=
  let key := t.task
  let after := if vector then t.vdone else t
  let give := fun (s : State) (v : VReg) => s.retire (after.putReply reply v (if vector then bytesFrom (st.esize * at_) else BitVec.allOnes 128))
  if st.kind = 2 then s.trap t 52 st.desc
  else if st.kind = 0 then
    let left := st.total - st.pos
    let k := min n left
    if left = 0 ∨ st.dir = some false then s.trap t 52 (if left = 0 then st.desc else st.addr st.pos)
    else
      let ps := (List.range k).map (fun i =>
        ({ off := st.esize * (at_ + i), va := st.addr (st.pos + i), size := st.esize, data := 0 } : Piece))
      let a := { Acc.plain .load ps with
        mask := if vector then bytesFrom (st.esize * at_) else BitVec.allOnes 128, cmp := streamNote q.toNat k true,
        vec := vector, first := at_ }
      s.readPath t after reply a denyNone (st.addr st.pos)
        (fun s _ got => give (s.streamMoved key q.toNat k true) (BitVec.ofNat 1024 got))
        (fun m s => s.streamMoved key q.toNat m true)
  else
    let want : Want := .stream q.toNat false vector (if vector then [word n, word at_] else [])
    match (s.chan (chanOf (s.task key) st)).ready n with
    | none => s.yieldAt t after 4 reply st.desc want (fun s _ => s)
    | some k =>
      match s.ringAbsent (s.task key) st k with
      | some pg => s.yieldAt t after 2 reply st.desc want (fun s _ => s.pushOnce (.pageInComplete pg))
      | none =>
        if s.ringBusy key st k false ∨ (s.ringPoison (s.task key) st k).isSome then
          s.yieldAt t after 2 reply st.desc want (fun s _ =>
            s.waitLine key (s.popPas (s.task key) st k) (s.headPage (s.task key) st))
        else
        let (got, s1) := s.takeRing key q.toNat k
        give s1 (packElems st.esize at_ got)

/-- A push of elements, the first of them element `at_` of its register; one to an in stream has cause 52 (log 42). -/
def State.pushElems (s : State) (t : Thread) (q : Reg) (vector : Bool) (vals : List Word) (at_ : Nat) (st : Stream) : State :=
  let key := t.task
  let after := if vector then t.vdone else t
  if st.kind = 1 then s.trap t 52 st.desc
  else if st.kind = 0 then
    let left := st.total - st.pos
    let k := min vals.length left
    if left = 0 ∨ st.dir = some true then s.trap t 52 (if left = 0 then st.desc else st.addr st.pos)
    else
      let ps := (vals.take k).zipIdx.map (fun e =>
        ({ off := st.esize * (at_ + e.2), va := st.addr (st.pos + e.2), size := st.esize,
           data := e.1.toNat % 2 ^ (8 * st.esize) } : Piece))
      s.writePath t after { Acc.plain .store ps with cmp := streamNote q.toNat k false, vec := vector, first := at_ } false false
        (fun m s => s.streamMoved key q.toNat m false)
  else
    let r := chanOf (s.task key) st
    let c := s.chan r
    let send := vals.map (fun v => word (v.toNat % 2 ^ (8 * st.esize)))
    if s.nodeAway (s.nodeOfLc (chanCore r true)) then s.trap t 30 (word r.dst)
    else if c.inClosed ∨ (c.inEnd.isSome ∧ c.inSize ≠ c.outSize) then s.trap t 52 st.desc
    else if c.credits < send.length then s.yieldAt t after 4 0 st.desc (.stream q.toNat true vector send) (fun s _ => s)
    else (s.sendElems s.turn.1 s.turn.2 key q.toNat r send).retire after

/-- Q_POP (06 R144): one element, zero-extended. -/
def execQPop (rd q : Reg) (s : State) : Outcome :=
  .next (s.issue (fun t => match (s.task t.task).streams.find q.toNat with
    | none => s.unbound t
    | some st => s.pop t q rd.toNat false 1 0 st))

/-- Q_PUSH -/
def execQPush (q rs1 : Reg) (s : State) : Outcome :=
  .next (s.issue (fun t => match (s.task t.task).streams.find q.toNat with
    | none => s.unbound t
    | some st => s.pushElems t q false [t.getX rs1] 0 st))

/-- The elements of a vector form: how many are left from `kxvstart` on, and the first (06 R144, R145). -/
def vecSpan (t : Thread) (st : Stream) : Nat × Nat := (t.vl.toNat / st.esize - t.vstart.toNat, t.vstart.toNat)

/-- VQ_POP: with `kxvl` = 0 it does nothing. -/
def execVqPop (vd q : Reg) (s : State) : Outcome :=
  .next (s.issue (fun t =>
    if t.vl = 0 then s.retire t.vdone
    else match (s.task t.task).streams.find q.toNat with
      | none => s.unbound t
      | some st =>
        let n := vecSpan t st
        if n.1 = 0 then s.retire t.vdone else s.pop t q (32 + vd.toNat) true n.1 n.2 st))

/-- VQ_PUSH: with `kxvl` = 0 it does nothing. -/
def execVqPush (q vs : Reg) (s : State) : Outcome :=
  .next (s.issue (fun t =>
    if t.vl = 0 then s.retire t.vdone
    else match (s.task t.task).streams.find q.toNat with
      | none => s.unbound t
      | some st =>
        let n := vecSpan t st
        let vals := (List.range n.1).map (fun i => word (field (t.getV vs) (8 * st.esize * (n.2 + i)) (8 * st.esize)))
        if n.1 = 0 then s.retire t.vdone else s.pushElems t q true vals n.2 st))

/-- The status word of a bound stream (06 R148). -/
def State.streamStat (s : State) (t : Task) (st : Stream) : Word :=
  let c := s.chan (chanOf t st)
  let avail := if st.kind = 0 then st.total - st.pos else if st.kind = 1 then c.inRing else c.credits
  let done : Bool := if st.kind = 0 then st.total ≤ st.pos else st.kind == 1 && c.closed && c.inRing == 0
  let closed : Bool := if st.kind = 1 then c.closed else st.kind == 2 && c.inClosed
  word (avail % 2 ^ 32 * 256 + (if done then 16 else 0) + (if closed then 8 else 0) + st.kind * 2 + 1)

/-- Q_STAT -/
def execQStat (rd q : Reg) (s : State) : Outcome :=
  .next (s.issue (fun t =>
    let tk := s.task t.task
    s.retire (t.setX rd (match tk.streams.find q.toNat with | none => 0 | some st => s.streamStat tk st))))

/-- Q_CLOSE (06 R149) -/
def execQClose (q : Reg) (s : State) : Outcome := .next (s.issue (fun t => (s.closeStream t.task q.toNat).retire t))

/-! ## The steps of a channel -/

/-- A step of a channel waits behind elements that a store buffer still holds for it. -/
def State.elemsHeld (s : State) (r : ChanRef) : Bool :=
  s.pcores.any (fun e => e.2.sb.any (fun x => match x.op with | .send (.channelElementsArrive c _) => c == r | _ => false))

/-- A step carries elements of a channel. -/
def carriesElems (r : ChanRef) : Instr → Bool
  | .channelElementsArrive c _ => c == r
  | _ => false

/-- Elements of a channel, other than those of the step `ev`, wait at a home for a line of the ring. -/
def State.elemsQueued (s : State) (r : ChanRef) (ev : Instr) : Bool :=
  s.resvs.any (fun x => x.queue.any (fun i => carriesElems r i && i != ev)) || s.parked.any (fun x => carriesElems r x.2 && x.2 != ev)

/-- CHANNEL_ELEMENTS_ARRIVE (06 R146): the elements land in the ring, in push order, behind a reservation of a line they go to (R142); those for a
consumer that has closed are lost. -/
def execChannelElementsArrive (c : ChanRef) (elems : List Word) (s : State) : Outcome :=
  let ev : Instr := .channelElementsArrive c elems
  .next (match (s.chan c).inEnd with
    | none => s.skipHead ev
    | some (key, q, _) =>
      match (s.task key).streams.find q with
      | none => s.skipHead ev
      | some st =>
        let ch := s.chan c
        let pas := fun (x : State) (i : Nat) => x.ringPas (x.task key) st (ch.head + ch.inRing + i)
        if s.elemsQueued c ev then s.putBack ev
        else s.atLines ((List.range elems.length).flatMap (pas s)) ev (fun s =>
          let s1 := elems.zipIdx.foldl (fun (x : State) e =>
            x.applyWrite ((pas x e.2).zip (toBytes st.esize e.1.toNat)) ch.origin true) s
          (s1.modChan c (fun x => { x with inRing := x.inRing + elems.length })).servePop key q))

/-- CHANNEL_CREDIT_RETURN (06 R146): the producer's waiting push is sent when it has its credits. -/
def execChannelCreditReturn (c : ChanRef) (n : Nat) (s : State) : Outcome :=
  .next ((s.modChan c (fun x => { x with credits := x.credits + n })).servePushes c)

/-- CHANNEL_CLOSE_ARRIVES (06 R149): the channel is closed after the elements already pushed; where the consumer has closed its end too, it is over, and a later
pair of binds makes a new one. -/
def execChannelCloseArrives (c : ChanRef) (s : State) : Outcome :=
  .next (if s.elemsHeld c ∨ s.elemsQueued c (.channelCloseArrives c) then s.putBack (.channelCloseArrives c)
    else
      let again := (s.producer c).isSome
      let s1 := s.modChan c (fun x => { x with
        closed := x.inEnd.isSome || !x.inClosed, inClosed := false, outBound := again, credits := if again then x.credits else 0 })
      match (s1.chan c).inEnd with
      | none => s1
      | some (key, q, _) => s1.servePop key q)

end Sys2Proof.Machine
end

