-- ==== Sys2Proof/Machine/System.lean ====
section
/-!
DEFINITION. The system instructions of custom-3: weighbridges, census, I-caches, scratchpad pages, TLBs, continuation records,
mailboxes and trace marks (09 R212 to R234).
-/
namespace Sys2Proof.Machine

/-! ## Weighbridges (09 R212 to R219) -/

/-- The channel operand, none where a bit outside [1:0], and outside the item field when `item`, is set (09 R212). -/
def channelOf (v : Word) (item : Bool) : Option Nat :=
  if bits v 2 2 ≠ 0 ∨ bits v 8 56 ≠ 0 ∨ (!item ∧ bits v 4 4 ≠ 0) then none else some (field v 0 2)

/-- A channel is unlinked from its barrier; a phase that it held completes (log 21). -/
def State.unlinkWeigh (s : State) (lc ch : Nat) : State :=
  let w := s.weighOf lc ch
  match w.link with
  | none => s
  | some b =>
    let s1 := s.modWeigh lc ch (fun x => { x with link := none, hold := false })
    let o := s1.bar b
    let s2 := s1.setBar b { o with wblink := o.wblink.filter (· != (lc, ch)), wbHeld := o.wbHeld && !w.hold }
    if o.wbHeld ∧ w.hold then (s2.extraBytes b).flip b else s2

/-- The number of fields of a window (09 R213). -/
def fieldCount (len foff stride size : Nat) : Nat :=
  if len < foff + size then 0 else if stride = 0 then 1 else (len - foff - size) / stride + 1

/-- Configure a channel of a task on core `c` from a descriptor that has been read; none where R216 raises cause 7. A `bar.init` of the object that is on its way
from the core counts as applied where `bar.arrive` would find it so (06 R134, 13 R272); behind the core's barrier operations on the object that are on their way the
channel joins WBLINK when they have been applied. A field address is checked where the field lies wholly inside the window (log 69). -/
def State.cfgWeigh (s : State) (c task lc ch : Nat) (d : BitVec 512) : Option State :=
  let base := field d 0 57
  let len := field d 64 64
  let foff := field d 128 16
  let stride := field d 144 16
  let fmt := field d 160 8
  let mode := field d 168 8
  let size := wbSize fmt
  let n := fieldCount len foff stride size
  match s.barOf lc (word (field d 320 16)) with
  | none => none
  | some b =>
    if field d 57 7 ≠ 0 ∨ field d 176 16 ≠ 0 ∨ field d 336 48 ≠ 0 ∨ field d 384 128 ≠ 0 ∨ 3 < fmt ∨ 1 < mode ∨ len = 0 ∨
        2 ^ 57 < len ∨ (stride ≠ 0 ∧ stride < foff + size) ∨ (n ≠ 0 ∧ (base + foff) % size ≠ 0) ∨ (1 < n ∧ stride % size ≠ 0) then none
    else
      let inits := s.initsFrom c b
      let other := fun (k : Nat) => k != ch && (s.weighOf lc k).link == some b && (inits.isEmpty || !(s.bar b).wblink.contains (lc, k))
      if !s.enabledFor c task lc b ∨ (List.range 4).any other then none
      else
      let s1 := s.unlinkWeigh lc ch
      let w : Weigh := { Weigh.reset with link := some b, base := base, len := len, foff := foff, stride := stride, fmt := fmt,
                                          mode := mode == 1, ref := bits d 192 64, bound := bits d 256 64 }
      let s2 := s1.modWeigh lc ch (fun _ => w)
      some (if s2.opsFrom c b then s2.sbPush c 0 task (.link b lc ch) else s2.joinLink b lc ch)

/-- WB_CFG (09 R216). -/
def execWbCfg (rs1 rs2 : Reg) (s : State) : Outcome :=
  .next (s.issue (fun t =>
    let v := t.getX rs1
    let va := t.getX rs2
    match channelOf v false with
    | none => s.trap t 7 v
    | some ch =>
      let a := { Acc.plain .readWb [{ off := 0, va := va, size := 64, data := 0 }] with arg := word ch }
      s.readPath t t 0 a denyNone va (fun s t got =>
        match s.cfgWeigh s.turn.1 t.task (s.task t.task).lc ch (BitVec.ofNat 512 got) with
        | none => s.trap t 7 va
        | some s1 => s1.retire t)))

/-- Item `n` of a channel, none for items 7 to 15 (09 R218). -/
def Weigh.item (w : Weigh) (n : Nat) : Option Word :=
  let acc := BitVec.ofInt 192 w.acc
  let b := fun (x : Bool) (k : Nat) => if x then 2 ^ k else 0
  match n with
  | 0 => some (word (w.compares * 2 ^ 32 + b w.mode 5 + b w.event 4 + b w.hold 3 + b w.torn 2 + b w.ovf 1 + b w.link.isSome 0))
  | 1 => some (bits acc 0 64)
  | 2 => some (bits acc 64 64)
  | 3 => some (bits acc 128 64)
  | 4 => some (word w.flush)
  | 5 => some w.lastt
  | 6 => some (match w.link with | some b => word (handleOf b) | none => 0xFFFF)
  | _ => none

/-- WB_RD -/
def execWbRd (rd rs1 : Reg) (s : State) : Outcome :=
  .next (s.issue (fun t =>
    let v := t.getX rs1
    match channelOf v true with
    | none => s.trap t 7 v
    | some ch => match (s.weighOf (s.task t.task).lc ch).item (field v 4 4) with
      | none => s.trap t 7 v
      | some x => s.retire (t.setX rd x)))

/-- WB_CLR (09 R219): the descriptor, the link and HOLD stay. -/
def execWbClr (rs1 : Reg) (s : State) : Outcome :=
  .next (s.issue (fun t =>
    let v := t.getX rs1
    match channelOf v false with
    | none => s.trap t 7 v
    | some ch => (s.modWeigh (s.task t.task).lc ch (fun w =>
        { w with acc := 0, flush := 0, ovf := false, torn := false, event := false, lastt := 0, compares := 0 })).retire t))

/-- WB_ACK (09 R217): the held phase completes without a second comparison. -/
def execWbAck (rs1 : Reg) (s : State) : Outcome :=
  .next (s.issue (fun t =>
    let v := t.getX rs1
    let lc := (s.task t.task).lc
    match channelOf v false with
    | none => s.trap t 7 v
    | some ch =>
      let w := s.weighOf lc ch
      match (if w.hold then w.link else none) with
      | none => s.retire t
      | some b =>
        let s1 := s.modWeigh lc ch (fun x => { x with hold := false })
        ((s1.extraBytes b).flip b).retire t))

/-! ## Census (09 R220 to R222) -/

/-- CEN_MODE (09 R220): the mode is that of the commands that start after it; events of those that have started go into no counter. -/
def execCenMode (rs1 : Reg) (s : State) : Outcome :=
  .next (s.issue (fun t =>
    let v := t.getX rs1
    if bits v 3 61 ≠ 0 ∨ field v 0 2 = 3 then s.trap t 7 v
    else (s.modLquad ((s.task t.task).lc / 4) (fun q =>
      { q with cenMode := field v 0 2, cenTrap := v.getLsbD 2, census := [], cenSeq := 0, diverged := false,
               queue := q.queue.map (fun c => if c.st = .started then { c with counts := false } else c) })).retire t))

/-- CEN_BUF: the tables of the issuing thread are captured (21 R374). -/
def execCenBuf (rs1 : Reg) (s : State) : Outcome :=
  .next (s.issue (fun t =>
    let v := t.getX rs1
    let tk := s.task t.task
    if v.toNat % 64 ≠ 0 then s.trap t 4 v
    else (s.modLquad (tk.lc / 4) (fun q =>
      { q with cenBuf := v, cenPos := 0, cenSatp := (s.csrs tk.lc).satp, cenLc := tk.lc, cenLaunch := tk.launch,
               cenSmode := t.smode })).retire t))

/-- CEN_RD -/
def execCenRd (rd rs1 : Reg) (s : State) : Outcome :=
  .next (s.issue (fun t =>
    let v := t.getX rs1
    if bits v 14 50 ≠ 0 then s.trap t 7 v
    else
      let c := (s.lquad ((s.task t.task).lc / 4)).census.get Census.zero (field v 0 12)
      s.retire (t.setX rd (word (c.get (field v 12 2))))))

/-! ## Ranges (09 R223) -/

/-- A range wraps past 2^57; bits [63:57] of an address are copies of bit 56 (09 R223, 15 R307). -/
def rangeWraps (start len : Word) : Bool := 2 ^ 57 < va57 start + len.toNat

/-- The first addresses, within a range, of the aligned units of `u` bytes that it touches. -/
def unitsIn (start len u : Nat) : List Nat :=
  if len = 0 then [] else (List.range ((start + len - 1) / u - start / u + 1)).map (fun i => if i = 0 then start else (start / u + i) * u)

/-! ## I-caches (09 R224, R225) -/

/-- IC_INV (09 R224): pinned lines are fetched anew. The own core's I-cache is invalidated at once; the invalidation follows the thread's earlier stores to
the other I-caches of the scope, and later releases wait for it. -/
def execIcInv (scope : Reg) (s : State) : Outcome :=
  .next (s.issue (fun t =>
    let lc := (s.task t.task).lc
    let c := s.turn.1
    ((s.invScope c lc 0).afterRelease c s.turn.2 t.task (min scope.toNat 3) (.icInv lc scope.toNat)).retire t))

/-- Where an address leads for a fetch by the thread, walking where its TLB has no entry. -/
def State.fetchTr (s : State) (t : Thread) (va : Nat) : State × Except Nat Nat :=
  let tk := s.task t.task
  let c := s.turn.1
  match s.resolve c tk.lc tk.launch t.smode (s.csrs tk.lc).satp .fetch (word va) with
  | (s1, .mem pa _) => (s1, .ok pa)
  | (s1, .bad cause) => (s1, .error cause)
  | (s1, _) => (s1, .error 1)

/-- The lines of a range by PA, or the first address that does not translate for execution. -/
def State.fetchLines (s : State) (t : Thread) : List Nat → State × Except (Nat × Nat) (List Nat)
  | [] => (s, .ok [])
  | va :: l =>
    match s.fetchTr t va with
    | (s1, .error cause) => (s1, .error (cause, va))
    | (s1, .ok pa) =>
      match s1.fetchLines t l with
      | (s2, .ok ps) => (s2, .ok (lineOf pa :: ps))
      | (s2, .error e) => (s2, .error e)

/-- The pin limits of the two levels, in lines (09 R225). -/
def pinLimit (level : Reg) : Nat := if level = 0 then 256 else 2048

/-- Put lines into a level of the I-cache of core `c`; with `pin` they stay. -/
def State.icFetch (s : State) (c : Nat) (level : Reg) (l : List Nat) (pin : Bool) : State :=
  let fill := fun (m : Tbl Line) => l.foldl (fun (m : Tbl Line) a => if (m.find a).isSome then m else m.set a (s.seenLine c a)) m
  if level = 0 then s.modPcore c (fun p => { p with icache := fill p.icache, ipins := if pin then (p.ipins ++ l).eraseDups else p.ipins })
  else s.modPquad (c / 4) (fun p => { p with icache := fill p.icache, ipins := if pin then (p.ipins ++ l).eraseDups else p.ipins })

/-- IC_PIN (09 R225) -/
def execIcPin (rs1 rs2 level : Reg) (s : State) : Outcome :=
  .next (s.issue (fun t =>
    let start := t.getX rs1
    let len := t.getX rs2
    let c := s.turn.1
    if len = 0 then s.retire t
    else if rangeWraps start len then s.trap t 7 start
    else if s.walkHeld t .fetch ((unitsIn start.toNat len.toNat 64).map word) then s
    else
      match s.fetchLines t (unitsIn start.toNat len.toNat 64) with
      | (s1, .error (cause, va)) => s1.trap t cause (word va)
      | (s1, .ok l) =>
        let pins := if level = 0 then (s1.pcore c).ipins else (s1.pquad (c / 4)).ipins
        if pinLimit level < (pins ++ l).eraseDups.length then s1.retire t else (s1.icFetch c level l true).retire t))

/-- The lines of the pages of a range that translate. -/
def State.someLines (s : State) (t : Thread) (l : List Nat) : List Nat :=
  l.filterMap (fun va => match (s.fetchTr t va).2 with | .ok pa => some (lineOf pa) | .error _ => none)

/-- IC_UNPIN (09 R225) -/
def execIcUnpin (rs1 rs2 : Reg) (s : State) : Outcome :=
  .next (s.issue (fun t =>
    let start := t.getX rs1
    let len := t.getX rs2
    let c := s.turn.1
    if len = 0 then s.retire t
    else if rangeWraps start len then s.trap t 7 start
    else if s.walkHeld t .fetch ((unitsIn start.toNat len.toNat 64).map word) then s
    else
      let l := s.someLines t (unitsIn start.toNat len.toNat 64)
      let s1 := s.modPcore c (fun p => { p with ipins := p.ipins.filter (fun a => !(l.contains a)) })
      (s1.modPquad (c / 4) (fun p => { p with ipins := p.ipins.filter (fun a => !(l.contains a)) })).retire t))

/-- IC_PF (09 R225): never traps. -/
def execIcPf (rs1 rs2 level : Reg) (s : State) : Outcome :=
  .next (s.issue (fun t =>
    let start := t.getX rs1
    let len := t.getX rs2
    if len = 0 ∨ rangeWraps start len then s.retire t
    else if s.walkHeld t .fetch ((unitsIn start.toNat len.toNat 64).map word) then s
    else (s.icFetch s.turn.1 level (s.someLines t (unitsIn start.toNat len.toNat 64)) false).retire t))

/-! ## Scratchpad pages (09 R226) -/

/-- The most frames that may be pinned on a core. -/
abbrev maxPinned : Nat := 28

/-- A page instruction: the checks of R223 and R226, then `f` on the pages that the range touches; the peer window of the own core is the own window
(11 R238). -/
def State.pagesDo (s : State) (rs1 rs2 : Reg) (f : State → Thread → List PageRef → State) : State :=
  s.issue (fun t =>
    let start := t.getX rs1
    let len := t.getX rs2
    let tk := s.task t.task
    if len = 0 then s.retire t
    else if rangeWraps start len then s.trap t 7 start
    else if ownVa tk.lc start.toNat < ownBase ∨ ownBase + windowSize < ownVa tk.lc start.toNat + len.toNat then s.trap t 5 start
    else f s t ((unitsIn (ownVa tk.lc start.toNat - ownBase) len.toNat pageSize).map (fun o => pageAt tk.lc tk.launch o)))

/-- Set or clear the pin of a page where it is resident. -/
def State.pinPage (s : State) (on : Bool) (p : PageRef) : State :=
  s.modPcore (s.physOf p.lc) (fun x => { x with frames := x.frames.map (fun (e : Nat × Frame) =>
    if e.2.page == p then (e.1, { e.2 with pinned := on }) else e) })

/-- SP_PIN: the pages that are not resident arrive at once (log 4). -/
def execSpPin (rs1 rs2 : Reg) (s : State) : Outcome :=
  .next (s.pagesDo rs1 rs2 (fun s t ps =>
    let pinned := ((s.pcore s.turn.1).frames.filter (fun e => e.2.pinned)).map (fun e => e.2.page)
    if maxPinned < (pinned ++ ps).eraseDups.length then s.trap t 7 (t.getX rs1)
    else
      let s1 := ps.foldl (fun st p => st.pinPage true p) s
      (ps.foldl (fun st p => (st.pageIn p).pinPage true p) s1).retire t))

/-- SP_UNPIN -/
def execSpUnpin (rs1 rs2 : Reg) (s : State) : Outcome :=
  .next (s.pagesDo rs1 rs2 (fun s t ps => (ps.foldl (fun st p => st.pinPage false p) s).retire t))

/-- SP_FLUSH -/
def execSpFlush (rs1 rs2 : Reg) (s : State) : Outcome :=
  .next (s.pagesDo rs1 rs2 (fun s t ps =>
    let c := s.turn.1
    (((s.pcore c).frames.filter (fun e => ps.contains e.2.page)).foldl (fun st e => st.writeBack c e.1 e.2) s).retire t))

/-! ## TLBs (09 R227) -/

/-- TLB_INV (09 R227): the own core's TLBs act at once; those of the scope act behind the thread's earlier stores and releases, and later releases wait for
them (12 R271). -/
def execTlbInv (rs1 scope : Reg) (s : State) : Outcome :=
  .next (s.issue (fun t =>
    if !t.smode then s.illegal t (.tlbInv rs1 scope)
    else
      let v := t.getX rs1
      let lc := (s.task t.task).lc
      let asid := field (s.csrs lc).satp 44 16
      let s1 := s.invTlbs v asid lc 0
      (if s1.lags s.turn.1 1 then s1.sbPush s.turn.1 s.turn.2 t.task (.tlbInv v asid lc scope.toNat)
       else s1.invTlbs v asid lc scope.toNat).retire t))

/-! ## Continuation records (09 R228 to R231) -/

/-- The record that a handler of logical core `lc` names by address. -/
def State.recAt (s : State) (lc : Nat) (a : Word) : Option (RecRef × Rec) :=
  ((s.lcore lc).recs.find? (fun x => x.addr == a)).map (fun x => ({ lc := lc, id := x.id }, x))

/-- An S-mode action on a record in one of the states `ok`. -/
def State.contDo (s : State) (i : Instr) (rs1 : Reg) (ok : List RecState) (f : State → Thread → RecRef → Rec → State) : State :=
  s.issue (fun t =>
    let a := t.getX rs1
    if !t.smode then s.illegal t i
    else match s.recAt (s.task t.task).lc a with
      | none => s.trap t 7 a
      | some (r, x) => if ok.contains x.st then f s t r x else s.trap t 7 a)

/-- The header of a record with FLT := 0 and, for a skip, the resume PC and loops after its instruction (09 R229). -/
def resumeHeader (h : List Byte) (skip : Bool) : List Byte :=
  let w := fun o => ofBytes ((h.drop o).take 8)
  let w0 := w 0
  let pc := word (w0 / 4 * 4)
  let h0 := loopOf (w 40 % 2 ^ 32) (w 48 % 65536) (w 48 / 2 ^ 16 % 65536) pc
  let h1 := loopOf (w 40 / 2 ^ 32) (w 48 / 2 ^ 32 % 65536) (w 48 / 2 ^ 48 % 65536) pc
  let n := advance pc h0 h1
  let d := fun (x : HLoop) (a : Word) => loopDist n.1 x a 0
  if skip then
    toBytes 8 (n.1.toNat + w0 % 4 / 2 * 2) ++ (h.drop 8).take 32 ++
      toBytes 8 (n.2.1.remaining.toNat + n.2.2.remaining.toNat * 2 ^ 32) ++
      toBytes 8 (d n.2.1 n.2.1.start + d n.2.1 n.2.1.stop * 2 ^ 16 + d n.2.2 n.2.2.start * 2 ^ 32 + d n.2.2 n.2.2.stop * 2 ^ 48) ++
      h.drop 56
  else toBytes 8 (w0 / 2 * 2) ++ h.drop 8

/-- `cont.resume` and `cont.skip` (09 R229). A header that cannot be read back ends the task as a relaunch would (05 R117). -/
def State.contGo (s : State) (r : RecRef) (x : Rec) (skip : Bool) : State :=
  let c := s.coreOf r
  match s.siloGet r.lc x.addr 64 with
  | none => (s.killRec r x).logSilo c x.addr
  | some h =>
    let s1 := s.siloPut r.lc x.addr (resumeHeader h skip)
    match x.heldSlot, x.parked with
    | some i, false =>
      match (s1.slot c i).thread with
      | none => s1.dropRec r.lc r.id
      | some t =>
        let n := restore x (resumeHeader h skip)
        ((s1.putRecState r x .free).dropRec r.lc r.id).goesOn c i
          { t with pc := n.pc, frm := n.frm, fflags := n.fflags, vl := n.vl, vstart := n.vstart, lsel := n.lsel, hl0 := n.hl0,
                   hl1 := n.hl1, held := false }
    | _, _ =>
      let s2 := (s1.putRecState r x .ready).modRec r (fun y => { y with st := .ready, err := none, want := .nothing })
      (s2.modLcore r.lc (fun l => { l with ready := l.ready ++ [r.id] })).wakeCore c

/-- CONT_RESUME -/
def execContResume (rs1 : Reg) (s : State) : Outcome :=
  .next (s.contDo (.contResume rs1) rs1 [.faulted, .held] (fun s t r x => (s.retire t).contGo r x false))

/-- CONT_SKIP -/
def execContSkip (rs1 : Reg) (s : State) : Outcome :=
  .next (s.contDo (.contSkip rs1) rs1 [.faulted, .held] (fun s t r x => (s.retire t).contGo r x true))

/-- CONT_KILL (09 R230) -/
def execContKill (rs1 : Reg) (s : State) : Outcome :=
  .next (s.contDo (.contKill rs1) rs1 [.waiting, .ready, .faulted, .held] (fun s t r x => (s.retire t).killRec r x))

/-- A reference to a record that has moved to logical core `lc`. -/
def movedRef (r : RecRef) (lc : Nat) (x : RecRef) : RecRef := if x = r then { x with lc := lc } else x

/-- The awaited event of a record that moves to logical core `lc` is redirected to it (09 R231). -/
def State.redirect (s : State) (r : RecRef) (lc : Nat) : State :=
  let g := movedRef r lc
  let fi := fun (i : Instr) => match i with
    | .recordReply x v => .recordReply (g x) v
    | .homeRequest x => .homeRequest (g x)
    | .homeReservation x => .homeReservation (g x)
    | .icacheFill x => .icacheFill (g x)
    | .tlbWalkComplete x => .tlbWalkComplete (g x)
    | .homeAmo a => .homeAmo { a with reply := a.reply.map g }
    | j => j
  let fb := fun (e : Inb) => match e.src with
    | .launch l m p o x => { e with src := .launch l m p o (g x) }
    | _ => e
  let fe := fun (e : SbEnt) => match e.op with
    | .amo a => { e with op := .amo { a with reply := a.reply.map g } }
    | .notify x => { e with op := .notify (g x) }
    | .send i => { e with op := .send (fi i) }
    | .submit b n => { e with op := .submit (fb b) n }
    | _ => e
  { s with
    agenda := s.agenda.map fi
    pcores := s.pcores.map (fun (e : Nat × PCore) => (e.1, { e.2 with sb := e.2.sb.map fe }))
    monitors := s.monitors.map (fun (m : Monitor) => { m with r := g m.r })
    resvs := s.resvs.map (fun (v : LineResv) => { v with queue := v.queue.map fi })
    parked := s.parked.map (fun (e : Nat × Instr) => (e.1, fi e.2))
    lnodes := s.lnodes.map (fun (e : Nat × LNode) => (e.1, { e.2 with
      waiters := e.2.waiters.map (fun w => match w with | .record x => .record (g x) | w => w), inbox := e.2.inbox.map fb }))
    lquads := s.lquads.map (fun (e : Nat × LQuad) => (e.1, { e.2 with
      heldCmds := e.2.heldCmds.map (fun h => (h.1, g h.2)), heldCopies := e.2.heldCopies.map (fun h => (h.1, g h.2)) })) }

/-- Move a block of the silo of `from_` to a new place on logical core `to_`: its new address and the state, none where there is no room. -/
def State.moveBlock (s : State) (from_ to_ : Nat) (a : Word) (n : Nat) : Option (Word × State) :=
  match s.siloAlloc to_ n with
  | none => none
  | some (b, s1) =>
    if (s1.siloBad to_ b n).isSome then none
    else some (b, s1.siloPut to_ b (((s1.siloGet from_ a n).getD []).take n))

/-- A block that a task may have moves with it. -/
def State.moveBlock? (s : State) (from_ to_ : Nat) (a : Option Nat) (n : Nat) : Option (Option Nat × State) :=
  match a with
  | none => some (none, s)
  | some x =>
    match s.moveBlock from_ to_ (word x) n with
    | none => none
    | some (b, s1) => some (some b.toNat, s1.modLcore to_ (fun l => { l with blocks := l.blocks ++ [(b.toNat, n)] }))

/-- What a waiting record that has moved to logical core `to_` waits for comes to it there: a page of its own window, which is now the target's, or an
entry of the target's store buffer (09 R231). -/
def State.waitThere (s : State) (r : RecRef) (x : Rec) (to_ : Nat) : State :=
  let launch := (s.task x.task).launch
  if x.st ≠ .waiting then s
  else match x.want with
    | .access a =>
      if x.wait = 2 then (s.modRec { r with lc := to_ } (fun y => { y with want := .access { a with fwd := [] } })).pushOnce
        (.pageInComplete (pageAt to_ launch (((a.pieces.head?).map (fun p => windowOff to_ p.va.toNat)).getD 0)))
      else s.pushOnce (.storeBufferLeave (s.physOf to_))
    | .stream _ false _ _ => if x.wait = 2 then s.pushOnce (.pageInComplete (pageAt to_ launch 0)) else s
    | .collQueue _ => s.pushOnce (.collStart (s.portAt (s.nodeOfLc to_)))
    | _ => s

/-- Move a record to logical core `to_` (09 R231); none where its silo lacks room. -/
def State.moveRec (s : State) (r : RecRef) (x : Rec) (to_ : Nat) : Option State :=
  let c := s.coreOf r
  let tk := s.task x.task
  let s0 := s.modLcore r.lc (fun l => { l with
    recs := l.recs.filter (fun y => y.id != r.id), ready := l.ready.filter (· != r.id),
    blocks := l.blocks.filter (fun b => some b.1 != tk.ctx && some b.1 != tk.sctx) })
  match s0.moveBlock r.lc to_ x.addr x.size with
  | none => none
  | some (a, s1) =>
    let seq := (s1.pcore (s1.physOf to_)).seq
    let y : Rec := { x with addr := a, seq := seq, movedFrom := some r.lc }
    let s2 := (s1.modLcore to_ (fun l => { l with recs := l.recs ++ [y] })).modPcore (s1.physOf to_) (fun p => { p with seq := p.seq + 1 })
    match s2.moveBlock? r.lc to_ tk.ctx 64 with
    | none => none
    | some (ctx, s3) =>
      match s3.moveBlock? r.lc to_ tk.sctx sctxSize with
      | none => none
      | some (sctx, s4) =>
        let tc := s4.physOf to_
        let s5 := s4.modTask x.task (fun t => { t with lcore := numOfLc to_, ctx := ctx, sctx := sctx })
        let h := ((s5.siloGet to_ a 64).getD [])
        let s6 := s5.siloPut to_ a (h.take 12 ++ toBytes 4 seq.toNat ++ (h.drop 16).take 16 ++
          toBytes 8 (tk.tid + tk.launch * 2 ^ 32 + numOfLc to_ * 2 ^ 48) ++ h.drop 40)
        let s7 := match ctx with | some b => s6.siloPut to_ (word b) (ctxBytes (s6.task x.task)) | none => s6
        let s8 := s7.redirect r to_
        let s9 := if x.st = .ready then s8.modLcore to_ (fun l => { l with ready := l.ready ++ [r.id] }) else s8
        some (((s9.waitThere r x to_).wakeCore tc).wakeCore c)

/-- CONT_MOVE -/
def execContMove (rs1 rs2 : Reg) (s : State) : Outcome :=
  .next (s.contDo (.contMove rs1 rs2) rs1 [.waiting, .ready, .faulted] (fun s t r x =>
    let p := (s.task t.task).part
    let n := (t.getX rs2).toNat % 65536
    let to_ := p * 4096 + n
    if s.coresOfTask p (s.task t.task).launch ≤ n ∨ (s.pnode (s.nodeOfLc to_)).st ≠ .admitted then s.trap t 30 (word n)
    else match s.moveRec r x to_ with
      | none => s.trap t 24 (word n)
      | some s1 => s1.retire t))

/-! ## Mailboxes (09 R232) -/

/-- The bindings that a home keeps. -/
abbrev homeBinds : Nat := 256

/-- The home of a word for its bindings: a node, or the core that holds its frame. -/
def State.bindHome (s : State) (pa : Nat) : Nat × Nat := if regionOf pa = 5 then (1, pa / 2 ^ 36) else (0, s.homeNode pa)

/-- Where a word leads for its S-mode binder. -/
def State.bindPa (s : State) (c key : Nat) (va : Word) : State × Except Nat Nat :=
  let tk := s.task key
  let x := s.resolve c tk.lc tk.launch true (s.csrs tk.lc).satp .load va
  match x.2, x.1.trPa x.2 with
  | .bad cause, _ => (x.1, .error cause)
  | _, some (pa, _) => (x.1, .ok pa)
  | _, none => (x.1, .error 5)

/-- Bind a word to a task record that has been read, or the cause. -/
def State.bindWord (s : State) (c key : Nat) (va : Word) (body : BitVec 1024) : State × Option Nat :=
  match s.bindPa c key va with
  | (s1, .error cause) => (s1, some cause)
  | (s1, .ok pa) =>
    let rest := s1.binds.filter (fun b => b.pa != pa)
    if homeBinds ≤ (rest.filter (fun b => s1.bindHome b.pa == s1.bindHome pa)).length then (s1, some 7)
    else ({ s1 with binds := rest ++ [{ pa := pa, va := va, body := body, part := (s1.task key).part, smode := true }] }, none)

/-- MB_BIND (09 R232): the word's alignment, then the record, then the word's place; the order of the last two the spec does not state (log 56). -/
def execMbBind (rs1 rs2 : Reg) (s : State) : Outcome :=
  .next (s.issue (fun t =>
    let va := t.getX rs1
    let ra := t.getX rs2
    if !t.smode then s.illegal t (.mbBind rs1 rs2)
    else if va.toNat % 8 ≠ 0 then s.trap t 4 va
    else if s.walkHeld t .load [va] then s
    else
      let ps := (List.range 2).map (fun i => ({ off := 64 * i, va := ra + word (64 * i), size := 64, data := 0 } : Piece))
      let a := { Acc.plain .readMb ps with arg := va, mask := BitVec.allOnes 128 }
      s.readPath t t 0 a denyNone ra (fun s t got =>
        match s.bindWord s.turn.1 t.task va (BitVec.ofNat 1024 got) with
        | (s1, some cause) => s1.trap t cause va
        | (s1, none) => s1.retire t)))

/-- MB_UNBIND (09 R232): the checks of the word are those of `mb.bind`, which the spec states for that instruction only (log 56). -/
def execMbUnbind (rs1 : Reg) (s : State) : Outcome :=
  .next (s.issue (fun t =>
    let va := t.getX rs1
    if !t.smode then s.illegal t (.mbUnbind rs1)
    else if va.toNat % 8 ≠ 0 then s.trap t 4 va
    else if s.walkHeld t .load [va] then s
    else match s.bindPa s.turn.1 t.task va with
      | (s1, .error cause) => s1.trap t cause va
      | (s1, .ok pa) => State.retire { s1 with binds := s1.binds.filter (fun b => b.pa != pa) } t))

/-! ## Trace marks (09 R234) -/

/-- TRC_MARK -/
def execTrcMark (imm : BitVec 12) (s : State) : Outcome :=
  .next (s.issue (fun t =>
    (s.emit s.turn.1 3 [imm.toNat, (s.task t.task).tid, s.turn.2, (s.cycle s.turn.1).toNat]).retire t))

end Sys2Proof.Machine
end

