-- ==== Sys2Proof/Machine/Mmio.lean ====
section
/-!
DEFINITION. Registers by address: the node blocks and host-die blocks of region 3, BAR 0, the queue pages of BAR 2, and BAR 4 (11 R246, 14
R274, R288, 15 R317, 17 R329 to R340, 19 R346, R360, 21 R366, R372, R376, 22 R379 to R391).
-/
namespace Sys2Proof.Machine

/-! ## NODESTATE (17 R340, R341) -/

/-- The number of a state. -/
def NodeState.num : NodeState → Nat
  | .dark => 0 | .clocked => 1 | .linked => 2 | .configured => 3 | .tested => 4 | .ready => 5 | .admitted => 6 | .quiescing => 7
  | .resetting => 8 | .fenced => 9 | .harvested => 10

/-- NODESTATE of a node. -/
def State.nodeStateWord (s : State) (n : Nat) : Word :=
  let p := s.pnode n
  word (p.st.num + p.up % 256 * 2 ^ 8 + p.fcode % 256 * 2 ^ 16)

/-! ## The debug module of a core (21 R366; register layout of RISC-V Debug 1.0, log 16) -/

/-- A thread stands in the slot. -/
def State.slotBusy (s : State) (c i : Nat) : Bool := (s.slot c i).thread.isSome

/-- A DMI register of core `c`. -/
def State.dmiRead (s : State) (c a : Nat) : BitVec 32 :=
  let p := s.pcore c
  let here := s.slotBusy c p.dmSel
  match a with
  | 0x04 => bits p.dmData 0 32
  | 0x05 => bits p.dmData 32 32
  | 0x10 => BitVec.ofNat 32 (p.dmSel * 2 ^ 16 + 1)
  | 0x11 =>
    BitVec.ofNat 32 (0x83 + (if !here then 0x3000 else if p.halted then 0x300 else 0xC00) + (if p.resumeAck then 0x30000 else 0))
  | 0x40 => BitVec.ofNat 32 (((List.range 8).map (fun i => if p.halted && s.slotBusy c i then 2 ^ i else 0)).sum)
  | 0x16 => BitVec.ofNat 32 (2 + p.dmErr % 8 * 2 ^ 8)
  | _ => 0

/-- A write of a DMI register: the data registers, the hart selected, halt and resume requests, an abstract command; a command that is not supported
leaves cmderr 2. -/
def State.dmiWrite (s : State) (c a : Nat) (v : BitVec 32) : State :=
  match a with
  | 0x04 => s.modPcore c (fun p => { p with dmData := (bits p.dmData 32 32 ++ v : BitVec 64) })
  | 0x05 => s.modPcore c (fun p => { p with dmData := (v ++ bits p.dmData 0 32 : BitVec 64) })
  | 0x10 =>
    let s1 := s.modPcore c (fun p => { p with dmSel := field v 16 3 })
    if v.getLsbD 31 then s1.push (.debugHaltRequest c)
    else if v.getLsbD 30 then (s1.modPcore c (fun p => { p with resumeAck := false })).push (.debugResumeRequest c) else s1
  | 0x16 => s.modPcore c (fun p => { p with dmErr := (BitVec.ofNat 3 p.dmErr &&& ~~~bits v 8 3).toNat })
  | 0x17 =>
    if (s.pcore c).dmErr ≠ 0 then s
    else if field v 24 8 ≠ 0 ∨ v.getLsbD 18 ∨ v.getLsbD 19 ∨ (field v 20 3 ≠ 2 ∧ field v 20 3 ≠ 3) then s.modPcore c (fun p => { p with dmErr := 2 })
    else if v.getLsbD 17 then
      s.push (.debugAbstractCommand c (s.pcore c).dmSel (field v 0 16) (if v.getLsbD 16 then some (s.pcore c).dmData else none))
    else s
  | _ => s

/-! ## Reading a node's block -/

/-- The aligned doubleword at an offset of a node's block, where the spec gives a register that can be read. -/
def State.nodeReg (s : State) (n off : Nat) : Option Word :=
  let p := s.pnode n
  let q := s.pquad (4 * n + off % 64 / 16)
  if off = 0x100 then some (word (field p.harvest 2 2 + field p.harvest 8 3 * 2 ^ 8 + field p.harvest 12 3 * 2 ^ 12))
  else if off = 0x108 then some (word (p.l2dir % 128))
  else if off = 0x110 then some p.harvest
  else if off = 0x200 then some (p.gov &&& 0xFFFF0003)
  else if 0x210 ≤ off ∧ off < 0x250 then
    let r := (off - 0x210) / 8
    some (word (p.occ r % 65536 * 2 ^ 32 + p.low r * 2 ^ 16 + p.high r))
  else if 0x250 ≤ off ∧ off < 0x2D0 then some ((p.mask ((off - 0x250) / 8)).setWidth 64)
  else if off = 0x400 then some (word (p.collpp % 144))
  else if 0x500 ≤ off ∧ off < 0x600 then
    let i := (off - 0x500) / 8
    some (p.trees.get (if i % 2 = 1 then 1000 else 0) i)
  else if 0x600 ≤ off ∧ off < 0x640 then some (if off % 16 = 0 then q.engerr else q.cpyerr)
  else if 0x680 ≤ off ∧ off < 0x6C0 then
    some (if !s.fw.features.getLsbD 3 then 0 else if off % 16 = 0 then q.cendiv else q.censeq)
  else none

/-- The aligned word at an offset of a node's block: the tables and the debug modules. -/
def State.nodeReg32 (s : State) (n off : Nat) : Option (BitVec 32) :=
  let p := s.pnode n
  if 0x1000 ≤ off ∧ off < 0x1400 then some (p.nst.get 0 ((off - 0x1000) / 4))
  else if 0x1400 ≤ off ∧ off < 0x1500 then
    some (if s.fw.features.getLsbD 1 then p.egress.get 0 ((off - 0x1400) / 4) else 0)
  else if 0x4000 ≤ off ∧ off < 0x8000 then some (s.dmiRead (16 * n + (off - 0x4000) / 0x400) (off % 0x400 / 4))
  else none

/-- A byte of region 3; none where the spec gives no readable register. -/
def State.regByte (s : State) (pa : Nat) : Option Byte :=
  let off := pa % 2 ^ 36
  let idx := pa / 2 ^ 36 % 256
  match pa / 2 ^ 44 % 16 with
  | 0 =>
    match s.nodeReg32 idx (off / 4 * 4) with
    | some v => some (BitVec.ofNat 8 (v.toNat / 2 ^ (8 * (off % 4))))
    | none => (s.nodeReg idx (off / 8 * 8)).map (fun v => BitVec.ofNat 8 (v.toNat / 2 ^ (8 * (off % 8))))
  | 2 =>
    if idx < 2 ∧ 0x1000 ≤ off ∧ off < 0x1800 then
      some (BitVec.ofNat 8 ((s.nodeStateWord ((off - 0x1000) / 8)).toNat / 2 ^ (8 * (off % 8))))
    else none
  | _ => none

/-- The address is that of REPAIR, which is write-only. -/
def isRepairReg (pa : Nat) : Bool := regionOf pa == 3 && pa / 2 ^ 44 % 16 == 0 && pa % 2 ^ 36 / 8 * 8 == 0x300

/-- The bits of REPAIR that are not reserved: the line and POISON (15 R317). -/
abbrev repairMask : Word := 0x000FFFFFFFFFFFC1

/-- Bytes of region 3; the fields of REPAIR, which is write-only, read as free values, and its reserved bits as 0 (00 R7, log 30). -/
def State.regRead (s : State) (pa n : Nat) : State × Option (List Byte) :=
  if isRepairReg pa then (s.drew, some (toBytes n ((s.freeW &&& repairMask).toNat / 2 ^ (8 * (pa % 8)))))
  else
    let l := (List.range n).map (fun i => s.regByte (pa + i))
    (s, if l.all Option.isSome then some (l.map (fun b => b.getD 0)) else none)

/-! ## Writing a node's block -/

/-- A write of one clears V and MORE with it (21 R372). -/
def State.clearSticky (s : State) (node quad : Nat) (copy : Bool) (v : Word) : State :=
  if !v.getLsbD 63 then s
  else s.modPquad (4 * node + quad) (fun q => if copy then { q with cpyerr := 0 } else { q with engerr := 0 })

/-- A write of one clears a held divergence (21 R376). -/
def State.clearDiv (s : State) (node quad : Nat) (v : Word) : State :=
  if !v.getLsbD 63 then s else s.modPquad (4 * node + quad) (fun q => { q with cendiv := 0, censeq := 0 })

/-- Bytes of a doubleword replaced. -/
def mergeWord (old : Word) (off n v : Nat) : Word :=
  let sh := 8 * (off % 8)
  let m := (2 ^ (8 * n) - 1) * 2 ^ sh
  (old &&& ~~~word m) ||| word (v % 2 ^ (8 * n) * 2 ^ sh)

/-- The governor's control register is written: enabling it starts its periods (14 R288). -/
def State.writeGov (s : State) (n : Nat) (w : Word) : State :=
  let on := w.getLsbD 0 && !(s.pnode n).govOn
  let s1 := s.modPnode n (fun p => { p with gov := w &&& 0xFFFF0003 })
  if on then s1.pushOnce (.governorPeriod n) else s1

/-- A write of the REPAIR register: the end of the repair of a line (15 R317). -/
def State.writeRepair (s : State) (n : Nat) (v : Word) : State :=
  let line := field v 6 46 * 64
  if v.getLsbD 0 then s.push (.repairPoison n line) else s.push (.repairRetry n line)

/-- A write of `n` bytes at an offset of a node's block; `gov` says that the writer may write the governor. Read-only registers ignore
it; none where the spec gives no register. -/
def State.nodeWrite (s : State) (node off n v : Nat) (gov : Bool) : Option State :=
  let d := off / 8 * 8
  let quad := off % 64 / 16
  let part := mergeWord 0 off n v
  if (s.nodeReg32 node (off / 4 * 4)).isSome then
    if 0x4000 ≤ off then
      let c := 16 * node + (off - 0x4000) / 0x400
      let s1 := s.dmiWrite c (off % 0x400 / 4) (BitVec.ofNat 32 v)
      some (if n = 8 then s1.dmiWrite c (off % 0x400 / 4 + 1) (BitVec.ofNat 32 (v / 2 ^ 32)) else s1)
    else some s
  else if d = 0x300 then some (s.writeRepair node part)
  else if 0x600 ≤ d ∧ d < 0x640 then some (s.clearSticky node quad (d % 16 = 8) part)
  else if 0x680 ≤ d ∧ d < 0x6C0 then some (if d % 16 = 0 then s.clearDiv node quad part else s)
  else
    match s.nodeReg node d with
    | none => none
    | some old =>
      let w := mergeWord old off n v
      if !gov then some s
      else if d = 0x200 then some (s.writeGov node w)
      else if 0x210 ≤ d ∧ d < 0x250 then
        some (s.modPnode node (fun p => { p with govRing := p.govRing.set ((d - 0x210) / 8) (bits w 0 32) }))
      else if 0x250 ≤ d ∧ d < 0x2D0 then
        some ((List.range 16).foldl (fun st i => st.wakeCore (16 * node + i))
          (s.modPnode node (fun p => { p with masks := p.masks.set ((d - 0x250) / 8) (bits w 0 8) })))
      else some s

/-- A device store at its target; a U-mode issuer writes no register of the governor (14 R288). -/
def State.regWrite (s : State) (pa n v : Nat) (by_ : Option Issuer) : Option State :=
  let user : Bool := match by_ with | some b => !b.smode | none => false
  match pa / 2 ^ 44 % 16 with
  | 0 => s.nodeWrite (pa / 2 ^ 36 % 256) (pa % 2 ^ 36) n v (!user)
  | 2 => if (s.regByte pa).isSome then some s else none
  | _ => none

/-! ## BAR 0 and BAR 2 (22 R378 to R381, R391, 14 R274) -/

/-- The step of a mailbox opcode (22 R382). -/
def commandOf (opcode : Nat) : Instr :=
  match opcode with
  | 0x01 => .identify | 0x02 => .negotiateFeatures | 0x03 => .attest | 0x04 => .createPartition | 0x05 => .destroyPartition
  | 0x06 => .createQueue | 0x07 => .destroyQueue | 0x08 => .setQueuePriority | 0x09 => .setAgeing | 0x0A => .setWatchdog
  | 0x0B => .preempt | 0x0C => .killLaunch | 0x0D => .resetCompute | 0x0E => .readHarvestMap | 0x0F => .writeNst
  | 0x10 => .writeTree | 0x11 => .loadPortFirmware | 0x12 => .setStallMap | 0x13 => .setPowerCap | 0x14 => .readLog
  | _ => .unknownCommand

/-- A doorbell (22 R379, R380): ignored while the mailbox is busy; else the command joins those that the command processor runs one at a
time. -/
def State.doorbell (s : State) (fn : Nat) : State :=
  let d := s.die fn
  if d.stat.getLsbD 0 then s
  else
    let s1 := s.setDie fn { d with stat := (d.stat &&& ~~~2#64) ||| 1, cmd := d.opcode.toNat, cmdSeq := d.seq.toNat, args := d.req }
    let s2 : State := { s1 with fw := { s1.fw with pending := s1.fw.pending ++ [fn] } }
    if s.fw.pending.isEmpty then s2.push (commandOf d.opcode.toNat) else s2

/-- A write of a doubleword of BAR 0: the mailbox, the aperture, the debug modules; other registers are read-only. -/
def State.bar0Write (s : State) (fn off : Nat) (v : Word) : State :=
  let d := s.die fn
  if off = 0 then s.setDie fn { d with opcode := bits v 0 16, seq := bits v 32 32 }
  else if off = 8 then s.doorbell fn
  else if 0x100 ≤ off ∧ off < 0x200 then s.setDie fn { d with req := d.req.set ((off - 0x100) / 8) v }
  else if off = 0x400 then s.setDie fn { d with apbase := v &&& 0xFFF }
  else if 0x1000000 ≤ off ∧ off < 0x2000000 then
    let r := off - 0x1000000
    let c := 16 * (r / 0x10000) + r % 0x10000 / 0x400
    if r % 0x10000 < 0x4000 then
      (s.dmiWrite c (r % 0x400 / 4) (bits v 0 32)).dmiWrite c (r % 0x400 / 4 + 1) (bits v 32 32)
    else s
  else s

/-- A write of a doubleword of BAR 2 that is no TAIL: ring bytes from 256 MiB on; control pages ignore it (14 R274). -/
def State.bar2Write (s : State) (fn off : Nat) (v : Word) : State :=
  if 2 ^ 28 ≤ off then
    { s with bar2 := (cellsOf (fn * 2 ^ 30 + off) 8 v.toNat).foldl (fun (m : Tbl Byte) c => m.put 0 c.1 c.2) s.bar2 }
  else s

/-- The PA of an offset of BAR 4; none beyond HBM, where the access completes with Unsupported Request (22 R381). -/
def State.aperture (s : State) (fn off : Nat) : Option Nat :=
  let o := field (s.die fn).apbase 0 12 * 2 ^ 30 + off
  if o + 8 ≤ 2304 * 2 ^ 30 then some (2 ^ 48 + o) else none

/-- The node of a function's host die (22 R378). -/
def dieNode (fn : Nat) : Nat := if fn = 0 then 64 else 176

/-- A host write through BAR 4 goes to the home of its line (22 R381). -/
def State.bar4Write (s : State) (fn off : Nat) (v : Word) : State :=
  match s.aperture fn off with
  | none => s
  | some pa =>
    let w : WriteReq := { cells := cellsOf pa 8 v.toNat, ack := none, src := dieNode fn, va := 0, task := 0, rel := none }
    s.push (s.routeWrite w)

/-- An AtomicOp of the host goes to the home of its line; the codes are those of amoadd, amoswap and amocas (22 R378, 04 R86). -/
def State.atomicWrite (s : State) (fn off op : Nat) (dbl : Bool) (v cmp : Word) : State :=
  match s.aperture fn off with
  | none => s
  | some pa => s.push (.homeAmo { op := match op with | 0 => 0 | 1 => 8 | _ => 9, dbl := dbl, pa := pa, arg := v, cmp := cmp, reply := none,
                                  ack := none, src := dieNode fn, va := 0, task := 0, host := some fn })

/-- REGISTER_WRITE (00 R7): a write of a register or through a BAR by the host or by firmware. -/
def execRegisterWrite (r : DevReg) (v : Word) (s : State) : Outcome :=
  match r with
  | .node n off => match s.nodeWrite n off 8 v.toNat true with
    | some s1 => .next s1
    | none => .fault (.unlistedRegister (3 * 2 ^ 48 + n * 2 ^ 36 + off))
  | .bar0 fn off => .next (s.bar0Write fn off v)
  | .bar2 fn off => .next (s.bar2Write fn off v)
  | .bar4 fn off => .next (s.bar4Write fn off v)
  | .atomic fn off op dbl cmp => .next (s.atomicWrite fn off op dbl v cmp)

/-- ENGERR_CLEAR (21 R372) -/
def execEngerrClear (node quad : Nat) (copy : Bool) (v : Word) (s : State) : Outcome := .next (s.clearSticky node quad copy v)

/-- CENDIV_CLEAR (21 R376) -/
def execCendivClear (node quad : Nat) (v : Word) (s : State) : Outcome := .next (s.clearDiv node quad v)

end Sys2Proof.Machine
end

