-- ==== Sys2Proof/Machine/MemEvents.lean ====
section
/-!
DEFINITION. The steps of the memory side: accesses that a record waits for, the store buffer and the quad write path, homes,
reservations, page-ins, walks, I-cache fills and repairs (06 R125 to R142, 09 R224, 11 R239 to R256, 15 R302, R312 to R318).
-/
namespace Sys2Proof.Machine

/-! ## The pieces of a waiting access -/

/-- The addresses that an access does not accept. -/
def AccOp.deny (op : AccOp) (smode : Bool) : Nat → MemType → Option Nat :=
  match op with
  | .amo n => amoDeny n
  | .resAcq => resDeny
  | .waitNe | .waitEq | .join => fun pa ty => if ty = 3 ∨ regionOf pa = 2 then some 5 else none
  | .store => storeDeny smode
  | .fetch => fun _ ty => if ty = 3 then some 1 else none
  | _ => denyNone

/-- Translate the pieces of a record's access in ascending order, walking the tables where no TLB entry serves: the places up to the
first fault, and that fault (04 R94, 15 R313). -/
def State.walkPieces (s : State) (c lc : Nat) (x : Rec) (op : AccOp) : List Piece → State × List (Piece × Loc) × Option (Piece × Nat)
  | [] => (s, [], none)
  | p :: ps =>
    let k := op.kind
    if p.va.toNat % p.size ≠ 0 then (s, [], some (p, if k = .store then 6 else 4))
    else
      let r := match s.taskTr x.task x.smode k p.va with
        | .miss => s.walkFor c x.smode (s.csrs lc).satp k p.va
        | t => (s, t)
      match r.2 with
      | .bad cause => (r.1, [], some (p, cause))
      | t =>
        match r.1.locOf lc t with
        | none => (r.1, [], some (p, k.access))
        | some l =>
          match (match l with | .out pa ty => op.deny x.smode pa ty | _ => none) with
          | some cause => (r.1, [], some (p, cause))
          | none =>
            let (s2, ok, bad) := State.walkPieces r.1 c lc x op ps
            (s2, (p, l) :: ok, bad)

/-- The place of a location, an absent page being read at its backing line (11 R240). -/
def State.locPa (s : State) (p : Piece) (l : Loc) : Option Nat :=
  match l with
  | .absent pg => s.pageByte pg (p.va.toNat % pageSize)
  | l => l.pa?

/-- The access ends in a fault at piece `p`, those before it being done: the elements before it take effect (07 R169, 15 R302). -/
def State.failRead (s : State) (r : RecRef) (x : Rec) (a : Acc) (p : Piece) (cause : Nat) : State :=
  let m : PReg := if x.reply < 32 then 0 else a.mask &&& BitVec.ofNat 128 (2 ^ p.off - 1)
  let s1 := s.modRec r (fun y => { y with ivs := a.vstartAt p x.ivs })
  let n := a.cmp.toNat - 1
  let s2 := if a.op = .load ∧ a.cmp ≠ 0 ∧ pieceElem p ≠ a.first then s1.streamMoved x.task (n % 32) (pieceElem p - a.first) (n / 32 % 2 == 1) else s1
  s2.makeReady r { val := accValue a a.got, mask := m, err := some (cause, p.va) }

/-- A fault has been found at piece `p`, the lowest so far: the pieces before it follow, and then it is taken (07 R169). -/
def State.failAt (s : State) (r : RecRef) (x : Rec) (a : Acc) (p : Piece) (cause : Nat) : State :=
  match a.pieces.filter (fun q => q.off < p.off) with
  | [] => s.failRead r x a p cause
  | rest =>
    (s.modRec r (fun y => { y with want := .access { a with pieces := rest, fault := some (p, cause) } })).pushOnce (.homeRequest r)

/-! ## Walks that meet a repair-pending line (15 R316) -/

/-- The repair-pending line of the tables that a walk for one of these addresses would read. -/
def State.walkParks (s : State) (c : Nat) (x : Rec) (k : Kind) (vas : List Word) : Option Nat :=
  (vas.filter (fun va => s.taskTr x.task x.smode k va == .miss)).findSome? (s.tableParked c (s.csrs (s.task x.task).lc).satp k)

/-- The addresses of an access. -/
def Acc.vas (a : Acc) : List Word := a.pieces.map (·.va)

/-- The step `ev` of a record waits with its walk in a fault queue, or `f` is done. -/
def State.unlessParked (s : State) (r : RecRef) (x : Rec) (k : Kind) (vas : List Word) (ev : Instr) (f : State) : State :=
  match s.walkParks (s.coreOf r) x k vas with
  | some line => if s.parked.any (fun e => e.2 == ev) then s else (s.skipHead ev).park line ev
  | none => f

/-! ## Stores and AMOs that a record holds (01 R19, 06 R122, R126) -/

/-- A store of a record is performed: seen by the weighbridges, then in the frame, the store buffer or the write path. -/
def State.storeRec (s : State) (c lc : Nat) (x : Rec) (a : Acc) (l : List (Piece × Loc)) : State :=
  let cs := chunks a.signed a.vec l
  let s1 := (s.weigh lc (chunkWrites a.signed cs)).touch lc (l.filterMap (fun e => e.2.pa?))
  match s1.putChunks c 0 x.task a.nt none cs with
  | (s2, some b) => s2.pathSend c x.task b.va b.cells none
  | (s2, none) => s2

/-- A record waits on. -/
def State.waitOn (s : State) (r : RecRef) (kind : Nat) : State := s.modRec r (fun y => { y with wait := kind })

/-- The first chunks, as far as `room` free entries of the store buffer take them. -/
def fitChunks : Nat → List Chunk → List Chunk
  | _, [] => []
  | n, x :: l =>
    if x.needs then
      match n with
      | 0 => []
      | m + 1 => x :: fitChunks m l
    else x :: fitChunks n l

/-- A walk that feeds a store has moved by `n` elements (06 R145). -/
def State.storeMoved (s : State) (x : Rec) (a : Acc) (n : Nat) : State :=
  let q := a.cmp.toNat - 1
  if a.cmp = 0 ∨ n = 0 then s else s.streamMoved x.task (q % 32) n (q / 32 % 2 == 1)

/-- What is left of a store whose first `n` pieces are made. -/
def Acc.after (a : Acc) (n : Nat) : Acc :=
  { a with pieces := a.pieces.drop n, first := a.first + n, cmp := if a.cmp = 0 then 0 else a.cmp - word (64 * n) }

/-- A store of more pieces than the store buffer holds enters it in parts, in ascending order: it takes what fits, and the record waits with the rest
(01 R19, 07 R168). -/
def State.storePart (s : State) (r : RecRef) (x : Rec) (a : Acc) (ok : List (Piece × Loc)) : State :=
  let c := s.coreOf r
  let n := ((fitChunks (sbSize - s.sbUsed c) (chunks a.signed a.vec ok)).map (·.count)).sum
  let s1 := if n = 0 then s else (s.storeRec c r.lc x a (ok.take n)).storeMoved x a n
  (s1.modRec r (fun y => { y with wait := 1, want := .access (a.after n) })).pushOnce (.storeBufferLeave c)

/-- A store that touches a page that is not resident behind pieces in resident pages makes those, in ascending order, and waits with the rest: its pages
need not be resident together (07 R166, R168, 11 R239). -/
def State.storePages (s : State) (r : RecRef) (x : Rec) (a : Acc) (here ok : List (Piece × Loc)) : State :=
  let n := here.length
  let s1 := (s.storeRec (s.coreOf r) r.lc x a here).storeMoved x a n
  ((s1.modRec r (fun y => { y with wait := 2, want := .access (a.after n) })).pushOnce
    (.pageInComplete (waitPage r.lc (s.task x.task).launch (ownOf (ok.drop n)))))

/-- A store of a record, whose pieces lie at `ok`: a page-in, a wait for a line or for the store buffer, or the store, and then the fault behind it
where there is one. -/
def State.storeGo (s : State) (r : RecRef) (x : Rec) (a : Acc) (ok : List (Piece × Loc)) (bad : Option (Piece × Nat)) : State :=
  let c := s.coreOf r
  let own := ownOf ok
  let pas := own.filterMap (fun e => e.2.pa?)
  let pg := waitPage r.lc (s.task x.task).launch own
  let needs := ((chunks a.signed a.vec ok).filter Chunk.needs).length
  let back : Bool := !own.isEmpty && s.heldBack c x.task true a.scope.isSome
  let held := fun (l : List (Piece × Loc)) => l.any (fun e => match e.2 with
    | .frame pa => s.lineBusyAt c pa x.task (.pageInComplete pg) || s.isParked pa
    | _ => false) || s.ownUnder c r.id l || (s.firesAt l && s.outstanding c 3)
  let here := if a.signed || back then [] else ok.takeWhile (fun e => match e.2 with | .absent _ => false | _ => true)
  let room := ((chunks false a.vec here).filter Chunk.needs).length
  if (firstAbsent ok).isSome && !here.isEmpty && !held here then
    if room = 0 ∨ s.sbUsed c + room ≤ sbSize then s.storePages r x a here ok
    else if room ≤ sbSize then (s.waitOn r 1).pushOnce (.storeBufferLeave c)
    else s.storePart r x a here
  else if (firstAbsent ok).isSome ∨ held own ∨ back then (s.waitOn r 2).waitLine x.task pas pg
  else if needs ≠ 0 ∧ sbSize < s.sbUsed c + needs then
    if needs ≤ sbSize then (s.waitOn r 1).pushOnce (.storeBufferLeave c) else s.storePart r x a ok
  else
    match bad, ok with
    | some (p, cause), _ =>
      let s1 := ((s.storeRec c r.lc x a ok).storeMoved x a (pieceElem p - a.first)).modRec r (fun y => { y with ivs := a.vstartAt p x.ivs })
      s1.makeReady r (Reply.trap_ cause p.va)
    | none, [(p, .out pa ty)] =>
      if a.arg = 1 then
        let b := toBytes p.size p.data
        (s.weigh r.lc (chunkWrites true [chunkOf false (p, .out pa ty)])).scStore c 0 x.task (a.scope.getD 0) p.va (chunkCells pa b)
          (ty == 3) r
      else ((s.storeRec c r.lc x a ok).streamDone x.task a.cmp).makeReady r Reply.none_
    | none, _ => ((s.storeRec c r.lc x a ok).streamDone x.task a.cmp).makeReady r Reply.none_

/-- An AMO of a record, whose word lies at `ok`. -/
def State.amoGo (s : State) (r : RecRef) (x : Rec) (a : Acc) (op : Nat) (ok : List (Piece × Loc)) (bad : Option (Piece × Nat)) : State :=
  let c := s.coreOf r
  let req := fun (p : Piece) (pa : Nat) (to_ : Option RecRef) => amoReqOf a op c x.task pa p.va (s.issuerOf x.task) to_
  match bad, ok with
  | some (p, cause), _ => s.makeReady r (Reply.trap_ cause p.va)
  | none, [(p, .frame pa)] =>
    let pg := waitPage r.lc (s.task x.task).launch ok
    if s.lineBusyAt c pa x.task (.pageInComplete pg) ∨ s.atomBusy c pa (if a.dbl then 8 else 4) r.id ∨ (s.firesAt ok ∧ s.outstanding c 3) ∨ s.isParked pa ∨ s.heldBack c x.task true a.scope.isSome ∨
        s.heldBack c x.task false false then
      (s.waitOn r 2).waitLine x.task [pa] pg
    else if s.isPoisoned pa then
      if x.reply ≠ 0 then s.makeReady r (Reply.trap_ 31 p.va) else (s.poisonedAmo c x.task pa p.va).makeReady r Reply.none_
    else
      let d := s.doAmo (req p pa none)
      let s1 := (d.2.2.weigh r.lc (amoWrites p.va a.dbl d.2.1)).touch r.lc [pa]
      let s2 := match a.scope with | some n => s1.acquireAt c n | none => s1
      s2.makeReady r (Reply.word_ (amoReply a.dbl d.1))
  | none, [(_, .absent pg)] => (s.waitOn r 2).pushOnce (.pageInComplete pg)
  | none, [(p, .out pa _)] =>
    if x.reply ≠ 0 then
      let s1 := s.sendAmo c 0 x.task a.scope (req p pa (some r))
      if x.st = .killed then s1.endRec r x else s1
    else if sbSize ≤ s.sbUsed c then (s.waitOn r 1).pushOnce (.storeBufferLeave c)
    else (s.sendAmo c 0 x.task a.scope (req p pa none)).makeReady r Reply.none_
  | none, _ => s

/-- The step of a request at its home is due, unless it waits there. -/
def State.pushHome (s : State) (ev : Instr) : State :=
  if s.resvs.any (fun q => q.queue.contains ev) ∨ s.parked.any (fun e => e.2 == ev) then s else s.pushOnce ev

/-- A record's access goes on once its addresses can be translated (15 R313). -/
def State.proceed (s : State) (r : RecRef) (x : Rec) (a : Acc) : State :=
  s.unlessParked r x a.op.kind a.vas (.tlbWalkComplete r)
    (let (s1, ok, bad) := s.walkPieces (s.coreOf r) r.lc x a.op a.pieces
     match a.op with
     | .store => s1.storeGo r x a ok bad
     | .amo n => s1.amoGo r x a n ok bad
     | .resAcq => match bad with
       | some (p, cause) => s1.makeReady r (Reply.trap_ cause p.va)
       | none => s1.pushHome (.homeReservation r)
     | .fetch => s1.pushHome (.icacheFill r)
     | _ => match bad with
       | some (p, cause) => s1.failAt r x a p cause
       | none => s1.pushHome (.homeRequest r))

/-- The walk of a `quit` that waits: the counters' addresses, one after another, each kept as it was found, then the end of the task (05
R97). -/
def State.quitGo (s : State) (r : RecRef) (x : Rec) (counter join : Word) (scope : Nat) : State :=
  let c := s.coreOf r
  let named := counter != 1
  let look := fun (e : State × Except (Nat × Word) (List Decrement)) (a : Word × Nat) =>
    match e.2 with
    | .error _ => e
    | .ok l =>
      if a.1.toNat % 8 ≠ 0 then (e.1, .error (6, a.1))
      else
        let w := match e.1.taskTr x.task x.smode .store a.1 with
          | .miss => e.1.walkFor c x.smode (e.1.csrs r.lc).satp .store a.1
          | t => (e.1, t)
        match w.1.counterOf w.2 with
        | .fault cause => (w.1, .error (cause, a.1))
        | .at_ pa => (w.1, .ok (l ++ [(pa, a.1, a.2)]))
        | .miss => (w.1, .error (15, a.1))
  let l := (if named then [(counter, scope)] else []) ++ (if join = 0 then [] else [(join, 3)])
  match l.foldl look (s, .ok []) with
  | (s1, .error (cause, a)) => s1.makeReady r (Reply.trap_ cause a)
  | (s1, .ok ds) =>
    let s2 := (s1.putRecState r x .free).dropRec r.lc r.id
    (s2.retireTask c 0 x.task ds).wakeCore c

/-- TLB_WALK_COMPLETE (15 R313) -/
def execTlbWalkComplete (r : RecRef) (s : State) : Outcome :=
  .next (match s.recOf r with
    | none => s
    | some x =>
      match x.want with
      | .access a => s.proceed r x a
      | .quit counter join scope =>
        s.unlessParked r x .store ((if counter = 1 then [] else [counter]) ++ (if join = 0 then [] else [join])) (.tlbWalkComplete r)
          (s.quitGo r x counter join scope)
      | _ => s)

/-! ## Requests at a home (06 R129, R142, 11 R240 to R247, 15 R318) -/

/-- A device store of a task of core `c` has not been performed (11 R256). -/
def State.deviceBusy (s : State) (c task : Nat) : Bool :=
  (s.pcore c).sb.any (fun e => e.task == task && match e.op with
    | .data w _ one => one && ((w.cells.head?).map (fun y => regionOf y.1 == 3)).getD false
    | _ => false) ||
  (s.pquad (c / 4)).path.any (fun e => e.core == c && !e.done && e.ord == some (task, true))

/-- A read of `n` bytes at `pa` by the record `id` of core `c` waits: an older write of the core is not performed, a performed write of
its quad to the line is not committed, or an SC load follows SC stores (06 R124, 11 R247, R251). -/
def State.readWaits (s : State) (c pa n id : Nat) (sc : Bool) : Bool :=
  s.olderOwn c pa n id || s.uncommitted (c / 4) (lineOf pa) 64 ||
  (sc && (s.scPending c || (List.range n).any (fun i => (s.sbByte c none (pa + i)).isSome)))

/-- A store that the core which deposited a moved record still holds, older than the record, meets the `n` bytes at `pa`: the record's accesses follow it
there too (09 R231, 11 R251). -/
def State.olderThere (s : State) (x : Rec) (pa n : Nat) : Bool :=
  match x.movedFrom with
  | some o => s.olderOwn (s.physOf o) pa n x.id
  | none => false

/-- Bytes for a piece: those that the store buffer held at issue, else those given. -/
def withForwarded (a : Acc) (p : Piece) (b : List Byte) : List Byte :=
  b.mapIdx (fun i x => (a.fwd.find (p.off + i)).getD x)

/-- Pieces have been read: the rest of the access follows, or the fault that was found behind them, or the reply is on its way. -/
def State.readDone (s : State) (r : RecRef) (x : Rec) (a : Acc) (l : List (Piece × List Byte)) : State :=
  let rest := a.pieces.filter (fun p => !(l.map (·.1)).contains p)
  let got := a.got + gather (l.map (fun e => (e.1, withForwarded a e.1 e.2)))
  let a1 := { a with pieces := rest, got := got }
  let s1 := s.modRec r (fun y => { y with want := .access a1 })
  match rest, a.fault with
  | [], none =>
    s1.push (.recordReply r { val := accValue a got, mask := if x.reply < 32 then BitVec.allOnes 128 else a.mask, err := none })
  | [], some (p, cause) => s1.failRead r x a1 p cause
  | _, _ => s1.pushOnce (.homeRequest r)

/-- The pieces of one aligned 64-byte line, with `p` among them. -/
def lineMates (l : List Piece) (p : Piece) : List Piece := l.filter (fun q => lineOf q.va.toNat == lineOf p.va.toNat)

/-- The lines that a quad L1 of 256 KiB holds (01 R34, 11 R237). -/
abbrev l1Lines : Nat := 4096

/-- A line comes into a quad L1; the line that leaves a full one is a free choice (log 7). -/
def fillL1 (l1 : Tbl Line) (pick line : Nat) (v : Line) : Tbl Line :=
  let l := l1.erase line
  let kept : Tbl Line := if l1Lines ≤ l.length then l.eraseIdx (pick % l1Lines) else l
  kept.set line v

/-- A request that its node has sent and that waits at its home behind a reservation goes on by its old route (17 R334). -/
def State.sentBefore (s : State) (ev : Instr) : Bool := s.resvs.any (fun q => q.queue.contains ev)

/-- Read a line for pieces of an access: from the quad L1 where a copy there serves, else at its home (11 R244, R247). A line of a scratchpad frame is not
allocated in the quad L1 (log 7). -/
def State.readLine (s : State) (r : RecRef) (x : Rec) (a : Acc) (ps : List Piece) (p : Piece) (pa : Nat) (ty : MemType) : State :=
  let c := s.coreOf r
  let ev : Instr := .homeRequest r
  let line := lineOf pa
  let at_ := fun (q : Piece) => line + q.va.toNat % 64
  let cached : Bool := ty == 0 && regionOf pa != 5 && !inSpadSpace p.va.toNat
  let low : Bool := x.movedFrom.isNone && match a.scope with | some n => n < 2 | none => true
  match (if cached && low then (s.pquad (c / 4)).l1.find line else none), s.freeN % 2 with
  | some ln, 0 =>
    s.drew.readDone r x a (ps.map (fun q => (q, toBytes q.size (field ln (8 * (q.va.toNat % 64)) (8 * q.size)))))
  | hit, _ =>
    let s0 := match hit with
      | some _ => s.drew.modPquad (c / 4) (fun q => { q with l1 := q.l1.erase line })
      | none => s
    if s0.noRoute (c / 16) pa ∧ !s0.sentBefore ev then s0.failAt r x a p 30
    else s0.atHome pa ev (fun s =>
      if s.isPoisoned pa then s.failAt r x a p 31
      else
        let s1 := if cached && !a.nt then
            s.drew.modPquad (c / 4) (fun q => { q with l1 := fillL1 q.l1 s.freeN line (BitVec.ofNat 512 (s.readN line 64)) })
          else s
        (s1.touch r.lc [pa]).readDone r x a (ps.map (fun q => (q, s.bytesAt (at_ q) q.size))))

/-- A piece of uncached or device memory, which is read alone, in ascending order (07 R167, 11 R256). -/
def readAlone (e : Piece × Loc) : Bool := match e.2 with | .out _ ty => ty == 1 || ty == 3 | _ => false

/-- A read at its home: a piece that a free value picks, with the others of its line; uncached and device pieces come one at a time in
order. -/
def State.homeRead (s : State) (r : RecRef) (x : Rec) (a : Acc) : Outcome :=
  let c := s.coreOf r
  let ev : Instr := .homeRequest r
  let (s1, ok, bad) := s.walkPieces c r.lc x a.op a.pieces
  match bad, ok[s1.freeN % ok.length]? with
  | some (p, cause), _ => .next (s1.failAt r x a p cause)
  | none, none => .next s1
  | none, some e =>
    let s2 := s1.drew
    let (p, l) := if readAlone e then (ok.find? readAlone).getD e else e
    let mates := if readAlone (p, l) then [p] else lineMates a.pieces p
    let waits := fun (pa : Nat) (sc : Bool) => mates.any (fun q =>
      s2.readWaits c (lineOf pa + q.va.toNat % 64) q.size r.id sc || s2.olderThere x (lineOf pa + q.va.toNat % 64) q.size)
    match l with
    | .absent pg => .next ((s2.pushOnce (.pageInComplete pg)).putBack ev)
    | .out pa 3 =>
      if s2.deviceBusy c x.task then .next (s2.putBack ev)
      else if s2.noRoute (c / 16) pa then .next (s2.failAt r x a p 30)
      else match s2.regRead pa p.size with
        | (_, none) => .fault (.unlistedRegister pa)
        | (s3, some b) => .next (s3.readDone r x a [(p, b)])
    | .out pa ty =>
      if waits pa (a.op == .load && a.arg == 1) then .next (s2.stepAside ev) else .next (s2.readLine r x a mates p pa ty)
    | .frame pa => if waits pa false then .next (s2.stepAside ev) else .next (s2.readLine r x a mates p pa 0)

/-- A wait or a join at its home, in one action: the value, or an armed monitor; a page of the own window comes in first (06 R129, 11
R239). A join follows the increments that its own thread's forks have posted (05 R100). -/
def State.homeWait (s : State) (r : RecRef) (x : Rec) (a : Acc) : State :=
  let c := s.coreOf r
  let ev : Instr := .homeRequest r
  let (s1, ok, bad) := s.walkPieces c r.lc x a.op a.pieces
  match bad, ok with
  | some (p, cause), _ => s1.makeReady r (Reply.trap_ cause p.va)
  | none, [(_, .absent pg)] => (s1.pushOnce (.pageInComplete pg)).putBack ev
  | none, [(p, l)] =>
    match l.pa? with
    | none => s1
    | some pa =>
      if s1.noRoute (c / 16) pa ∧ !s1.sentBefore ev then s1.makeReady r (Reply.trap_ 30 p.va)
      else if a.op = .join ∧ (s1.olderOwn c pa 8 r.id ∨ s1.olderThere x pa 8) then s1.stepAside ev
      else s1.atHome pa ev (fun s =>
        if s.isPoisoned pa then s.makeReady r (Reply.trap_ 31 p.va)
        else
          let v := word (s.readN pa 8)
          let m : Monitor := { pa := pa, value := if a.op = .join then 0 else a.arg, ne := a.op == .waitNe, r := r, fired := none }
          let s2 := s.touch r.lc [pa]
          if m.met v then
            (if s.uncommitted (c / 4) pa 8 then { s2 with monitors := s2.monitors ++ [{ m with fired := some v }] }
             else s2.push (.recordReply r (Reply.word_ v)))
          else { s2 with monitors := s2.monitors ++ [m] })
  | none, _ => s1

/-- HOME_REQUEST: an access of a waiting record at its home; one whose record has gone is dropped (05 R113). -/
def execHomeRequest (r : RecRef) (s : State) : Outcome :=
  match s.recOf r with
  | none => .next (s.skipHead (.homeRequest r))
  | some x =>
    match x.want with
    | .access a =>
      if x.st ≠ .waiting then .next (s.skipHead (.homeRequest r))
      else if s.heldBack (s.coreOf r) x.task false false then .next (s.stepAside (.homeRequest r))
      else if (s.walkParks (s.coreOf r) x a.op.kind a.vas).isSome then .next (s.unlessParked r x a.op.kind a.vas (.homeRequest r) s)
      else match a.op with
        | .waitNe | .waitEq | .join => .next (s.homeWait r x a)
        | _ => s.homeRead r x a
    | _ => .next (s.skipHead (.homeRequest r))

/-- The line of `pa` is forwarded to the requester of a reservation (06 R139). -/
def State.takeLine (s : State) (r : RecRef) (x : Rec) (a : Acc) (pa : Nat) : State :=
  let line := lineOf pa
  let rest := s.resvs.filter (fun q => q.pa != line)
  let queue := ((s.resvs.find? (fun q => q.pa == line)).map (fun q => q.queue.drop 1)).getD []
  let s1 : State := { s with resvs := rest ++ [{ pa := line, holder := x.task, queue := queue }] }
  ((s1.dropL1 (s.coreOf r) pa).modRec r (fun y => { y with want := .access { a with arg := word line } })).push
    (.recordReply r { val := BitVec.ofNat 1024 (s.readN line 64), mask := BitVec.allOnes 128, err := none })

/-- HOME_RESERVATION (06 R139, R142); a page of the own window comes in first (11 R239). -/
def execHomeReservation (r : RecRef) (s : State) : Outcome :=
  let ev : Instr := .homeReservation r
  .next (match s.recOf r with
    | none => s.skipHead ev
    | some x =>
      match x.want with
      | .access a =>
        let c := s.coreOf r
        s.unlessParked r x .load a.vas ev
          (let (s1, ok, bad) := s.walkPieces c r.lc x a.op a.pieces
           match bad, ok with
           | some (p, cause), _ => (s1.skipHead ev).makeReady r (Reply.trap_ cause p.va)
           | none, [(_, .absent pg)] => (s1.pushOnce (.pageInComplete pg)).putBack ev
           | none, [(p, l)] =>
             match l.pa? with
             | none => s1
             | some pa =>
               if s1.heldBack c x.task false false ∨ s1.readWaits c pa 64 r.id false ∨ s1.olderThere x pa 64 then s1.stepAside ev
               else if s1.noRoute (c / 16) pa ∧ !s1.sentBefore ev then (s1.skipHead ev).makeReady r (Reply.trap_ 30 p.va)
               else if s1.isParked pa then (s1.skipHead ev).park pa ev
               else match s1.gate pa ev with
                 | .wait => s1.enqueue pa ev
                 | .go =>
                   if s1.isPoisoned pa then (s1.served pa).makeReady r (Reply.trap_ 31 p.va) else (s1.touch r.lc [pa]).takeLine r x a pa
           | none, _ => s1)
      | _ => s.skipHead ev)

/-! ## The store buffer (11 R247 to R249) -/

/-- A release entry may leave: the core's earlier barrier operations are told, and at `node` and wider every earlier store that it orders
has been acknowledged; at `quad` the stores before it precede in the path what leaves after it (06 R121, 11 R249, 13 R272). -/
def State.releaseGoes (s : State) (c scope : Nat) : Bool :=
  !s.barInFlight c && (scope < 2 || !(s.pquad (c / 4)).path.any (fun e => e.owes c scope))

/-- A release at `quad` has left the store buffer: what its task's later atomic accesses, own stores that release, and, as `loads` and `stores` say, later
loads or own stores must follow stands in the write path until the entries before it have committed (06 R122, R126, 11 R250). -/
def State.quadMark (s : State) (c : Nat) (e : SbEnt) (loads stores : Bool) : State :=
  if (s.pquad (c / 4)).path.any (fun x => x.owes c 1) then
    s.modPquad (c / 4) (fun q => { q with path := q.path ++
      [{ id := e.id, core := c, done := true, acked := true, cells := [], mark := some (e.task, loads, stores) }] })
  else s

/-- A posted write that does not reach its home is dropped, logged by kind at node `n`, and counts as acknowledged (17 R330). -/
def State.lostWrite (s : State) (n : Nat) (by_ : Option Issuer) (task pa : Nat) (va : Word) (kind : Nat) : State :=
  s.ringEntry (((by_.map (fun b => partOfLc b.lc))).getD (task / 2 ^ 32)) (lineOf pa) kind false n va task

/-- A write or an AMO is performed, and its acknowledgement is on its way. -/
def State.ackWrite (s : State) (ack : Option (Nat × Nat)) : State :=
  match ack with
  | some (q, id) => (s.modPquad q (fun x => { x with path := x.path.map (fun (e : PathEnt) =>
      if e.id == id then { e with done := true } else e) })).push (.writeAck q id)
  | none => s

/-- A write is performed, or lost where `ok` is false: its acknowledgement is on its way, to the core or to the copy that sent it; with the last one of a copy that
has sent every piece, the copy is complete (09 R204, R206, 18 R343). -/
def State.acked (s : State) (w : WriteReq) (ok : Bool) : State :=
  let s1 := s.ackWrite w.ack
  match w.copy with
  | none => s1
  | some r => match s1.copyOfRef r with
    | none => s1
    | some x =>
      let y : Copy := { x with flying := x.flying - 1, cells := if ok then x.cells ++ w.cells else x.cells, err := if ok then x.err else 29 }
      let s2 := s1.modCopy r (fun _ => y)
      if y.sent ∧ y.flying = 0 then s2.push (.copyComplete r) else s2

/-- An AMO that cannot be performed takes no effect: the reply is a trap, or node `n` makes an entry of kind 6 (06 R127, 15 R318, 17 R330). -/
def State.lostAmo (s : State) (a : AmoReq) (n cause : Nat) : State :=
  match a.reply with
  | some r => s.push (.recordReply r (Reply.trap_ cause a.va))
  | none => (s.lostWrite n a.by_ a.task a.pa a.va 6).ackWrite a.ack

/-- The cells of an AMO, as the core sees them. -/
def State.amoCells (s : State) (c : Nat) (a : AmoReq) : List (Nat × Byte) :=
  (List.range (amoWidth a / 8)).map (fun i => (a.pa + i, s.seenByte c (a.pa + i)))

/-- The write of core `c` to these bytes would fire a mailbox, which makes it a release of its thread, and an earlier write is not acknowledged (09 R233, 14
R295). -/
def State.fireWaits (s : State) (c : Nat) (cells : List (Nat × Byte)) : Bool :=
  s.binds.any (fun b => meets cells b.pa 8) && (s.pquad (c / 4)).path.any (fun e => e.owes c 3)

/-- The head of the store buffer leaves, where it may. -/
def State.leave (s : State) (c : Nat) (e : SbEnt) : Option State :=
  let rest := fun (s : State) => s.modPcore c (fun p => { p with sb := p.sb.drop 1 })
  match e.op with
  | .data w _ one =>
    let ord := if one then some (w.task, ((w.cells.head?).map (fun y => regionOf y.1 == 3)).getD false) else none
    if one ∧ (s.pquad (c / 4)).path.any (fun x => x.core == c && !x.done && x.ord == ord) then none
    else if s.fireWaits c w.cells then none
    else some ((rest s).pathSendAs e.id c w.task w.va w.cells w.rel w.by_ ord)
  | .amo a =>
    if a.reply.isSome ∧ s.quadHeld c e.task ∨ s.fireWaits c (s.amoCells c a) then none
    else if s.noRoute (c / 16) a.pa then some ((rest s).lostAmo a (c / 16) 30)
    else
      match a.reply with
      | some _ => some ((rest s).push (.homeAmo a))
      | none =>
        let s1 := (rest s).modPquad (c / 4) (fun q => { q with path := q.path ++
          [{ id := e.id, core := c, done := false, acked := false, cells := s.amoCells c a, amo := some a.task }] })
        some (s1.push (.homeAmo { a with ack := some (c / 4, e.id) }))
  | .release scope loads stores =>
    if !s.releaseGoes c scope then none
    else if scope = 1 then some ((rest s).quadMark c e loads stores)
    else some (if loads && 2 ≤ scope then (rest s).acquireL1 c else rest s)
  | .acquire scope =>
    if (s.pquad (c / 4)).path.any (fun x => x.core == c && x.amo == some e.task && !x.acked) then none
    else some (if 2 ≤ scope then (rest s).acquireL1 c else rest s)
  | .barInit b exp cen => some ((rest s).toObject (c / 16) b (·.push (.barrierInitApply ⟨b, some (c, e.task)⟩ exp cen)))
  | .barArrive b bytes =>
    if levelScope b ≠ 0 ∧ s.owed c 1 then none else some ((rest s).toObject (c / 16) b (·.push (.barrierArrivalApply ⟨b, some (c, e.task)⟩ bytes 0)))
  | .link b lc ch => if s.barInFlight c then none else some ((rest s).joinLink b lc ch)
  | .notify r => if s.owed c 1 then none else some ((rest s).makeReady r Reply.none_)
  | op => if s.owed c 1 then none else some ((rest s).follow op)

/-- Posted accesses of records that wait for an entry of the store buffer of core `c`, oldest first (01 R19). -/
def State.sbWaiters (s : State) (c : Nat) : List (RecRef × Rec × Acc) :=
  (s.hosted c).flatMap (fun lc => (s.lcore lc).recs.filterMap (fun x =>
    let r : RecRef := { lc := lc, id := x.id }
    if !x.waits ∨ x.wait ≠ 1 ∨ s.agenda.contains (.tlbWalkComplete r) ∨ s.parked.any (fun e => e.2 == .tlbWalkComplete r) then none
    else match x.want with
      | .access a => match a.op with
        | .store => some (r, x, a)
        | .amo _ => if x.reply = 0 then some (r, x, a) else none
        | _ => none
      | _ => none))

/-- Accept the first waiting access while entries are free. -/
def State.acceptWaiters (c : Nat) : List (RecRef × Rec × Acc) → State → State
  | [], s => s
  | (r, x, a) :: l, s =>
    let s1 := s.proceed r x a
    if ((s1.recOf r).map (fun y => y.waits && y.wait == 1 && y.want != .nothing)).getD false then s1 else State.acceptWaiters c l s1

/-- STORE_BUFFER_LEAVE (11 R248, R249): the oldest entry leaves for the quad write path and its home, or for what it is. -/
def execStoreBufferLeave (core : Nat) (s : State) : Outcome :=
  .next (match (s.pcore core).sb with
    | [] => State.acceptWaiters core (s.sbWaiters core) s
    | e :: _ =>
      match s.leave core e with
      | none => s.putBack (.storeBufferLeave core)
      | some s1 =>
        let s2 := if (s1.pcore core).sb.isEmpty then s1 else s1.pushOnce (.storeBufferLeave core)
        State.acceptWaiters core (s2.sbWaiters core) s2)

/-! ## The write path and the homes (11 R247, 06 R128) -/

/-- The bytes of an entry go into the quad L1's copy of its line, where there is one. -/
def commitL1 (l1 : Tbl Line) (e : PathEnt) : Tbl Line :=
  l1.map (fun x => (x.1, e.cells.foldl (fun (ln : Line) c =>
    if lineOf c.1 = x.1 then
      (ln &&& ~~~(0xFF#512 <<< (8 * (c.1 % 64)))) ||| ((BitVec.ofNat 512 c.2.toNat) <<< (8 * (c.1 % 64)))
    else ln) x.2))

/-- Entries at the head of a write path that are acknowledged commit, oldest first. -/
def commitPath : Nat → PQuad → PQuad
  | 0, q => q
  | n + 1, q =>
    match q.path with
    | e :: rest => if e.acked then commitPath n { q with path := rest, l1 := commitL1 q.l1 e } else q
    | [] => q

/-- WRITE_ACK (11 R247): the entry is acknowledged, the weighbridges see the value of an AMO (09 R215), and what stands at the head of the path
commits. -/
def execWriteAck (quad id : Nat) (s : State) : Outcome :=
  .next (
    let see := ((s.pquad quad).path.find? (fun e => e.id == id)).bind (·.see)
    let s0 := match see with | some (lc, l) => s.weigh lc [l] | none => s
    let s1 := s0.modPquad quad (fun q =>
      let q1 := { q with path := q.path.map (fun e => if e.id == id then { e with acked := true, see := none } else e) }
      commitPath q1.path.length q1)
    let s2 := s1.releaseMonitors
    (List.range 4).foldl (fun st i =>
      if (st.pcore (4 * quad + i)).sb.isEmpty then st else st.pushOnce (.storeBufferLeave (4 * quad + i))) s2)

/-- A request of node `src` is for a scratchpad of another node whose V die is being reset or is fenced: it gets an error reply (17 R336, R337). -/
def State.spadGone (s : State) (src pa : Nat) : Bool :=
  let n := pa / 2 ^ 40 % 256
  regionOf pa == 5 && n != src && ((s.pnode n).st == .resetting || (s.pnode n).st == .fenced)

/-- The kind of the error-ring entry of a lost write: a thread's, or a piece of a copy (15 R315, log 59). -/
def lostKindOf (w : WriteReq) : Nat := if w.copy.isSome then 7 else 5

/-- HOME_WRITE (06 R128, R140, R142): a write is applied at its home; a device store at its register; the write of a `res.rel` also ends
the reservation. -/
def execHomeWrite (w : WriteReq) (s : State) : Outcome :=
  let ev : Instr := .homeWrite w
  let origin := w.by_.bind (·.origin)
  match w.rel, w.cells with
  | some line, _ =>
    let at_ := ((w.cells.head?).map (·.1)).getD line
    .next (if s.isParked at_ then s.park at_ ev
      else ((s.acked w true).applyWrite w.cells origin true).unreserve line)
  | none, [] => .next (s.acked w true)
  | none, c :: _ =>
    if regionOf c.1 = 3 then
      match s.regWrite c.1 w.cells.length (ofBytes (w.cells.map (·.2))) w.by_ with
      | some s1 => .next (s1.acked w true)
      | none => .fault (.unlistedRegister c.1)
    else if s.spadGone w.src c.1 then .next ((s.lostWrite w.src w.by_ w.task c.1 w.va (lostKindOf w)).acked w false)
    else .next (s.atHome c.1 ev (fun s => (s.acked w true).applyWrite w.cells origin w.copy.isNone))

/-- The acknowledgement of a posted AMO brings the value written to the write path, and to the weighbridges of the issuing core (09 R215, 11
R247). -/
def State.amoWrote (s : State) (a : AmoReq) (v : Option Nat) : State :=
  match a.ack with
  | none => s
  | some (q, id) => s.modPquad q (fun x => { x with path := x.path.map (fun (e : PathEnt) =>
      if e.id == id then { e with
        cells := match v with | some n => cellsOf a.pa (amoWidth a / 8) n | none => []
        see := a.by_.map (fun b => (b.lc, (amoWrites a.va a.dbl v).flatten)) }
      else e) })

/-- HOME_AMO (06 R125 to R128): performed indivisibly; on a poisoned line it takes no effect (15 R318). -/
def execHomeAmo (a : AmoReq) (s : State) : Outcome :=
  let ev : Instr := .homeAmo a
  .next (
    if (a.reply.map (fun r => s.uncommitted (s.coreOf r / 4) a.pa (amoWidth a / 8))).getD false then s.stepAside ev
    else if s.spadGone a.src a.pa then (s.skipHead ev).lostAmo a a.src 30
    else s.atHome a.pa ev (fun s =>
      if s.isPoisoned a.pa then s.lostAmo a (s.homeNode a.pa) 31
      else
        let d := (s.ackWrite a.ack).doAmo a
        let s1 := d.2.2.amoWrote a d.2.1
        match a.reply with
        | some r => (s1.dropL1 (s1.coreOf r) a.pa).push (.recordReply r { Reply.word_ (amoReply a.dbl d.1) with
            see := a.by_.map (fun b => (b.lc, (amoWrites a.va a.dbl d.2.1).flatten)) })
        | none => match a.host with
          | some fn => s1.modDie fn (fun h => { h with atomics := h.atomics ++ [amoReply a.dbl d.1] })
          | none => s1))

/-- WC_BUFFER_TIMEOUT (11 R255) -/
def execWcBufferTimeout (core slot : Nat) (s : State) : Outcome :=
  .next (match (s.slot core slot).thread with
    | some t => (s.drainWc core t).putThread core slot { t with wc := none }
    | none => s)

/-! ## Page-ins and fills -/

/-- An access has a piece on a page of the own window, by its own or its peer address. -/
def touchesPage (p : PageRef) (a : Acc) : Bool :=
  a.pieces.any (fun q => inSpadSpace q.va.toNat && windowOff p.lc q.va.toNat / pageSize == p.page)

/-- PAGE_IN_COMPLETE (11 R239): unless its node is being reset the page is resident, and the accesses of its core that wait on it go on. -/
def execPageInComplete (p : PageRef) (s : State) : Outcome :=
  .next (
    if (s.pnode (s.nodeOfLc p.lc)).st = .resetting then s.putBack (.pageInComplete p) else
    let s1 := s.pageIn p
    State.skipHead (ev := .pageInComplete p) <| (s1.lcore p.lc).recs.foldl (fun (st : State) x =>
      let r : RecRef := { lc := p.lc, id := x.id }
      if !x.waits then st
      else match x.want with
        | .access a =>
          if x.wait = 2 ∧ (s.task x.task).launch = p.launch ∧ touchesPage p a then st.proceed r x a else st
        | .stream q false _ _ => st.servePop x.task q
        | _ => st) s1)

/-- ICACHE_FILL (04 R95, 09 R224): the line arrives in the core's I-cache and in the quad level, as the core sees it. -/
def execIcacheFill (r : RecRef) (s : State) : Outcome :=
  let ev : Instr := .icacheFill r
  .next (match s.recOf r with
    | none => s.skipHead ev
    | some x =>
      match x.want with
      | .access a =>
        let c := s.coreOf r
        s.unlessParked r x .fetch a.vas ev <|
        let (s1, ok, bad) := s.walkPieces c r.lc x .fetch a.pieces
        match bad, ok with
        | some (p, cause), _ => s1.makeReady r (Reply.trap_ cause p.va)
        | none, [(p, .out pa _)] =>
          let line := lineOf pa
          let put := fun (s : State) (l : Line) =>
            ((s.modPcore c (fun q => { q with icache := q.icache.set line l })).modPquad (c / 4) (fun q =>
              { q with icache := q.icache.set line l })).makeReady r Reply.none_
          let home : State → Line := fun s => BitVec.ofNat 512 (s.readN line 64)
          let waits := s1.readWaits c line 64 r.id false
          match (s1.pquad (c / 4)).icache.find line with
          | some l => if (s1.pcore c).isync ∧ !waits ∧ l ≠ home s1 then
              s1.atHome pa ev (fun s => if s.isPoisoned pa then s.makeReady r (Reply.trap_ 31 p.va) else put s (home s))
            else if (s1.pcore c).isync ∧ waits then s1.stepAside ev
            else put s1 l
          | none =>
            if waits then s1.stepAside ev
            else if s1.noRoute (c / 16) pa ∧ !s1.sentBefore ev then s1.makeReady r (Reply.trap_ 30 p.va)
            else s1.atHome pa ev (fun s => if s.isPoisoned pa then s.makeReady r (Reply.trap_ 31 p.va) else put s (home s))
        | none, _ => s1.makeReady r (Reply.trap_ 1 x.ipc)
      | _ => s.skipHead ev)

/-! ## Repairs (15 R316, R317) -/

/-- Where the address of a write or an AMO leads now for its issuer, and the node of its core (15 R317). -/
def State.placeAgain (s : State) (b : Issuer) (va : Word) : State × Nat × Tr :=
  let core := s.physOf b.lc
  let x := s.resolve core b.lc b.launch b.smode (s.csrs b.lc).satp .store va
  (x.1, core / 16, x.2)

/-- A parked request goes back to its issuer, which translates its address again and sends it again (15 R317), from the node where its core then is; an AMO whose
record waits traps there with a fault of that translation (15 R302), and a posted request whose address no longer translates is sent where it was (log 59). -/
def State.reissue (s : State) (i : Instr) : State × List Instr :=
  match i with
  | .homeWrite w =>
    let again := match w.copy.bind (fun r => (s.copyOfRef r).map (fun x => (r, x))) with
      | some (r, x) =>
        let core := 4 * (s.lquad r.lq).phys
        let p := s.resolve core x.lc x.launch x.smode x.satp .store w.va
        some (p.1, core / 16, p.2)
      | none => w.by_.map (fun b => s.placeAgain b w.va)
    match again with
    | none => (s, [i])
    | some (s1, node, tr) =>
    match (s1.trPa tr).map (·.1), w.cells with
    | some pa, _ :: _ =>
      let mv := fun (e : Nat × Byte) => (pa / 4096 * 4096 + e.1 % 4096, e.2)
      let s2 := match w.ack with
        | some (q, id) => s1.modPquad q (fun x => { x with path := x.path.map (fun (e : PathEnt) =>
            if e.id == id then { e with cells := e.cells.map mv } else e) })
        | none => s1
      (s2, [s2.routeWrite { w with cells := w.cells.map mv, src := node }])
    | _, _ => (s1, [i])
  | .homeAmo a =>
    match a.by_.map (fun b => s.placeAgain b a.va) with
    | none => (s, [i])
    | some (s1, node, tr) =>
    match (s1.trPa tr).map (·.1), tr, a.reply with
    | some pa, _, _ => if s1.noRoute node pa then (s1.lostAmo a node 30, []) else (s1, [.homeAmo { a with pa := pa, src := node }])
    | none, .bad cause, some _ => (s1.lostAmo a node cause, [])
    | none, _, _ => (s1, [i])
  | i => (s, [i])

/-- The requests parked at a line, in arrival order, and the rest. -/
def State.takeParked (s : State) (line : Nat) : List Instr × State :=
  ((s.parked.filter (fun e => e.1 == line)).map (·.2), { s with parked := s.parked.filter (fun e => e.1 != line) })

/-- Requests that had come to their home before what is now on its way come there first (06 R128). -/
def State.ahead (s : State) (l : List Instr) : State := { s with agenda := l ++ s.agenda }

/-- REPAIR_RETRY: the mark goes, and every parked request goes back to its issuer. -/
def execRepairRetry (node line : Nat) (s : State) : Outcome :=
  .next (if s.marks.find line ≠ some .repair ∨ s.homeNode line ≠ node then s
    else
      let (l, s1) := s.takeParked line
      let again := l.foldl (fun (e : State × List Instr) i => let x := e.1.reissue i; (x.1, e.2 ++ x.2))
        ({ s1 with marks := s1.marks.erase line }, [])
      again.1.ahead again.2)

/-- REPAIR_POISON: the line is poisoned, and the parked requests are replayed there in arrival order. -/
def execRepairPoison (node line : Nat) (s : State) : Outcome :=
  .next (if s.marks.find line ≠ some .repair ∨ s.homeNode line ≠ node then s
    else
      let (l, s1) := s.takeParked line
      { s1 with marks := s1.marks.set line .poisoned }.ahead l)

end Sys2Proof.Machine
end

