-- ==== Sys2Proof/Machine/Bringup.lean ====
section
/-!
DEFINITION. Links in service, relays, measurements, and the wave that brings the nodes up: clock, links, configuration and self-test
(17 R325 to R342, 22 R384).
-/
namespace Sys2Proof.Machine

/-! ## Measurements (22 R384) -/

/-- Change firmware's state. -/
def State.modFw (s : State) (f : Firmware → Firmware) : State := { s with fw := f s.fw }

/-- MCFG is extended at a change of a node's configuration; the bytes of the event are not stated, so its digest is free (log 2). -/
def State.measureConfig (s : State) : State :=
  s.drew.modFw (fun f => { f with mcfg := extend f.mcfg (Config.freeDigest s.free) })

/-- MPART is extended at the creation or destruction of a partition, whose bytes are not stated (log 2). -/
def State.measurePart (s : State) : State :=
  s.drew.modFw (fun f => { f with mpart := extend f.mpart (Config.freeDigest s.free) })

/-- The harvest map: 256 entries of 8 bytes in node id order (17 R335). -/
def State.harvestMap (s : State) : List Byte := (List.range 256).flatMap (fun n => toBytes 8 (s.pnode n).harvest.toNat)

/-! ## Tables -/

/-- Firmware writes new network-select tables into every node (17 R328, R332). -/
def State.rewriteTables (s : State) : State :=
  ((List.range 256).foldl (fun st n => st.modPnode n (fun p => { p with nst := s.computeTable n })) s).measureConfig

/-! ## Links (17 R327, R328) -/

/-- Set the state of a link, and its count of replays. -/
def State.setLink (s : State) (l : LinkRef) (v : LinkState) (replays : Nat) : State :=
  s.modPnode l.node (fun p => { p with
    links := p.links.put .active (linkKey l.mesh l.dir) v, replays := p.replays.put 0 (linkKey l.mesh l.dir) replays })

/-- LINK_REPLAY_REQUEST (17 R327): the sender resends; the eighth replay in a row without progress retrains the link. Whether there was
progress since the last replay, and whether a retrain comes to its end in time, are free choices. -/
def execLinkReplayRequest (l : LinkRef) (s : State) : Outcome :=
  let p := s.pnode l.node
  let key := linkKey l.mesh l.dir
  .next (if s.linkState l.node l.mesh l.dir ≠ .active then s
    else
      let n := if s.freeN % 2 = 0 then 1 else p.replays.get 0 key + 1
      if n < 8 then s.drew.setLink l .active n
      else
        let s1 := s.drew.setLink l .retrain 0
        s1.drew.push (if s1.freeN % 2 = 0 then .retrainReachesActive l else .linkRetrainTimeout l))

/-- RETRAIN_REACHES_ACTIVE (17 R327) -/
def execRetrainReachesActive (l : LinkRef) (s : State) : Outcome :=
  .next (if s.linkState l.node l.mesh l.dir = .retrain then s.setLink l .active 0 else s)

/-- A node is fenced for a reason (17 R341). -/
def State.fenceNode (s : State) (n code : Nat) : State :=
  (s.modPnode n (fun p => { p with st := .fenced, fcode := code })).logEvent 4 n

/-- No node is still DARK or CLOCKED (17 R342). -/
def State.waveDone (s : State) : Bool :=
  (List.range 256).all (fun n => match (s.pnode n).st with | .dark | .clocked => false | _ => true)

/-- The clock phase goes on after node `n` has its clock or is fenced: its DARK neighbours lock to it or time out, and configuration
follows once no node is DARK or CLOCKED. -/
def State.waveOn (s : State) (n : Nat) : State :=
  let near := ([3, 0, 1, 2].filterMap (neighbour n)).filter (fun m => (s.pnode m).st == .dark)
  let lock := if (s.pnode n).st = .clocked then near.map (fun m => (.clockLock m n : Instr)) else []
  let s1 := (lock ++ near.map (fun m => (.clockLockTimeout m : Instr))).foldl (fun st i => st.pushOnce i) s
  if s1.waveDone then s1.pushOnce .configurationPhase else s1

/-- A link has failed in service: it is logged, marked in HARVEST at both ends, and new tables are written. The packets that it had not
acknowledged take their new routes, which shows only as time (17 R328). -/
def State.failLink (s : State) (l : LinkRef) : State :=
  let mark := fun (st : State) (n dir : Nat) =>
    (st.setLink { l with node := n, dir := dir } .failed 0).modPnode n (fun p =>
      { p with harvest := p.harvest ||| (1#64 <<< harvestBit l.mesh dir) })
  let s1 := mark (s.logEvent 1 l.node) l.node l.dir
  match neighbour l.node l.dir with
  | some m => (mark s1 m (opposite l.dir)).rewriteTables
  | none => s1.rewriteTables

/-- LINK_RETRAIN_TIMEOUT (17 R327, R341): the link ends in TRAINERROR. While its node is being brought up the node is fenced; in service
the link has failed. -/
def execLinkRetrainTimeout (l : LinkRef) (s : State) : Outcome :=
  .next (if (s.pnode l.node).st = .clocked then (s.fenceNode l.node 2).waveOn l.node
    else if s.linkState l.node l.mesh l.dir = .retrain then s.failLink l
    else s)

/-- RELAY_PACKET (17 R330, R334, R344): the relay sends the packet on to its home by the route it was injected on. A node that is its own relay
found no route: the write is dropped, logged in the error ring, and counts as acknowledged. -/
def execRelayPacket (relay _dst : Nat) (w : WriteReq) (s : State) : Outcome :=
  let pa := ((w.cells.head?).map (·.1) <|> w.rel).getD 0
  .next (if relay ≠ w.src then s.putBack (.homeWrite w)
    else (s.lostWrite w.src w.by_ w.task pa w.va (lostKindOf w)).acked w false)

/-! ## The wave (17 R340 to R342) -/

/-- A node has its clock and may forward it. -/
def NodeState.hasClock : NodeState → Bool
  | .clocked | .linked => true
  | _ => false

/-- A DARK node tries another neighbour before `up`: one that has its clock and stands before it in the order west, north, east, south (17 R342). -/
def State.triesFirst (s : State) (node up : Nat) : Bool :=
  (([3, 0, 1, 2].filterMap (neighbour node)).takeWhile (· != up)).any (fun m => (s.pnode m).st.hasClock && s.agenda.contains (.clockLock node m))

/-- CLOCK_LOCK: a DARK node locks to a host die (0xFF) or to the first of its neighbours that have their clock; its links are then trained, which
succeeds or not by a free choice. -/
def execClockLock (node up : Nat) (s : State) : Outcome :=
  let feeds : Bool := if up = 0xFF then node == 64 || node == 176
    else (s.pnode up).st.hasClock && (List.range 4).any (fun d => neighbour node d == some up)
  .next (if (s.pnode node).st ≠ .dark ∨ !feeds then s
    else if s.triesFirst node up then s.putBack (.clockLock node up)
    else
      let s1 := s.modPnode node (fun p => { p with st := .clocked, up := up })
      let s2 := s1.drew.push (if s1.freeN % 2 = 0 then .linkTrained node
        else .linkRetrainTimeout { node := node, dir := (facing node).headD 0, mesh := 0 })
      s2.waveOn node)

/-- A node may still lock to a clock. -/
def State.lockDue (s : State) (n : Nat) : Bool := s.agenda.any (fun i => match i with | .clockLock m _ => m == n | _ => false)

/-- CLOCK_LOCK_TIMEOUT: a node still DARK 100 us after its last neighbour became CLOCKED is fenced with FCODE 1; while a DARK neighbour may
still become CLOCKED the time has not come. -/
def execClockLockTimeout (node : Nat) (s : State) : Outcome :=
  let later := ((List.range 4).filterMap (neighbour node)).any (fun m => (s.pnode m).st == .dark && s.lockDue m)
  .next (if (s.pnode node).st ≠ .dark then s
    else if later then s.putBack (.clockLockTimeout node)
    else (s.fenceNode node 1).waveOn node)

/-- LINK_TRAINED: a CLOCKED node's own die links and its links to its neighbours that have a clock are ACTIVE. -/
def execLinkTrained (node : Nat) (s : State) : Outcome :=
  let ready := (facing node).all (fun d => match neighbour node d with
    | some m => !(s.pnode m).st.hasClock || [0, 1, 2].all (fun k => s.linkState node k d != .retrain)
    | none => true)
  .next (if (s.pnode node).st ≠ .clocked then s
    else if !ready then s.putBack (.linkTrained node)
    else (s.modPnode node (fun p => { p with st := .linked, vLink := .active, mLink := .active })).waveOn node)

/-- The edge nodes that carry a port die or a host die (17 R333). -/
def edgeNodes : List Nat :=
  (List.range 48).map edgeNode ++ [64, 176]

/-- CONFIGURATION_PHASE: firmware computes every table, the LINKED nodes become CONFIGURED and test themselves; MHARV is measured; whether firmware sets
up the trace rings is a free choice (21 R370, log 39). With a dead router at an edge node that carries a port die or a host die bring-up has failed. -/
def execConfigurationPhase (s : State) : Outcome :=
  let nodes := (List.range 256).filter (fun n => (s.pnode n).st == .linked)
  .next (if !s.waveDone then s
    else
      let s1 := s.drew.rewriteTables.modFw (fun f => { f with
        mharv := extend f.mharv (Shake.digest s.harvestMap), tracing := s.freeN % 2 == 1 })
      let s2 := nodes.foldl (fun st n =>
        (st.modPnode n (fun p => { p with st := .configured, collpp := Config.collPort n % 144 })).drew.push
          (.selfTestDone n (st.freeN % 2 == 0))) s1
      match edgeNodes.find? s.deadRouter with
      | some n => (s2.modFw (fun f => { f with failed := true })).logEvent 5 n
      | none => s2)

/-- SELF_TEST_DONE: a CONFIGURED node that passes becomes TESTED, and then READY and in service; one that fails is fenced. -/
def execSelfTestDone (node : Nat) (pass : Bool) (s : State) : Outcome :=
  .next (match (s.pnode node).st with
    | .configured =>
      if pass then (s.modPnode node (fun p => { p with st := .tested })).push (.selfTestDone node true) else s.fenceNode node 3
    | .tested =>
      (s.modPnode node (fun p => { p with st := .ready })).modFw (fun f =>
        { f with service := f.service.filter (· < node) ++ [node] ++ f.service.filter (node < ·) })
    | _ => s)

/-- COLD_RESET (17 R341): the machine as after reset; host memory and the memory of pod peers, which the module does not hold, keep their
contents. -/
def execColdReset (s : State) : Outcome :=
  .next { State.reset with mem := s.mem.filter (fun e => regionOf e.1 == 2 || regionOf e.1 == 4), free := s.free }

end Sys2Proof.Machine
end

