-- ==== Sys2Proof/Machine/Reduce.lean ====
section
/-!
DEFINITION. The router trees: the folds of 03 R70, rounds, timeouts and masks, gleaners, and the instructions that drive a tree
(09 R209 to R211, 19 R360 to R363, R395, 20 R364, R365).
-/
namespace Sys2Proof.Machine

/-! ## Folds (03 R69, R70) -/

/-- Registers of a vector in the width it is folded in: 4 for INT8, 2 for BF16 and FP16, else 1 (19 R362). -/
def redRegs (dtype : Nat) : Nat := match dtype with | 1 | 2 => 2 | 5 => 4 | _ => 1

/-- The bits of an element as contributed. -/
def redBits (dtype : Nat) : Nat := match dtype with | 1 | 2 => 16 | 3 => 64 | 5 => 8 | _ => 32

/-- The bits of an element as folded. -/
def foldBits (dtype : Nat) : Nat := if dtype = 3 then 64 else 32

/-- An element widened to the width it is folded in. -/
def widenCode (dtype b : Nat) : Nat :=
  match dtype with
  | 1 => (fCvt Fmt.bf16 Fmt.fp32 0 b).bits
  | 2 => (fCvt Fmt.fp16 Fmt.fp32 0 b).bits
  | 5 => (signedOf 8 b % 2 ^ 32).toNat
  | _ => b

/-- The final rounding or saturation of an element. -/
def narrowCode (dtype b : Nat) : Nat :=
  match dtype with
  | 1 => (fCvt Fmt.fp32 Fmt.bf16 0 b).bits
  | 2 => (fCvt Fmt.fp32 Fmt.fp16 0 b).bits
  | 5 =>
    let v := signedOf 32 b
    ((if v < -128 then -128 else if 127 < v then 127 else v) % 2 ^ 8).toNat
  | _ => b

/-- One operation of a fold: 0 sum, 1 max, 2 min. -/
def redOp (dtype redop a b : Nat) : Nat :=
  if 4 ≤ dtype then
    match redop with
    | 0 => (a + b) % 2 ^ 32
    | 1 => if signedOf 32 a < signedOf 32 b then b else a
    | _ => if signedOf 32 b < signedOf 32 a then b else a
  else
    let f := if dtype = 3 then Fmt.fp64 else Fmt.fp32
    match redop with
    | 0 => (fAdd f 0 a b).bits
    | 1 => (fMinMax f true a b).bits
    | _ => (fMinMax f false a b).bits

/-- A register of elements of `w` bits. -/
def packBits (w : Nat) (l : List Nat) : VReg := BitVec.ofNat 1024 ((l.zipIdx.map (fun e => e.1 * 2 ^ (w * e.2))).sum)

/-- The `n` elements of `w` bits from element `i` on. -/
def unpackBits (w i n : Nat) (v : VReg) : List Nat := (List.range n).map (fun k => field v (w * (i + k)) w)

/-- A contribution widened (19 R362). -/
def widenVec (dtype : Nat) (v : VReg) : List VReg :=
  let n := 1024 / foldBits dtype
  (List.range (redRegs dtype)).map (fun r =>
    packBits (foldBits dtype) ((unpackBits (redBits dtype) (n * r) n v).map (widenCode dtype)))

/-- The result of a fold as it is delivered. -/
def narrowVec (dtype : Nat) (l : List VReg) : VReg :=
  let n := 1024 / foldBits dtype
  packBits (redBits dtype) ((l.flatMap (unpackBits (foldBits dtype) 0 n)).map (narrowCode dtype))

/-- Two vectors folded element by element. -/
def foldTwo (dtype redop : Nat) (a b : List VReg) : List VReg :=
  let n := 1024 / foldBits dtype
  (a.zip b).map (fun e => packBits (foldBits dtype)
    (((unpackBits (foldBits dtype) 0 n e.1).zip (unpackBits (foldBits dtype) 0 n e.2)).map (fun x => redOp dtype redop x.1 x.2)))

/-- The first input is the start value and each further one is combined with one operation; no input gives no vector. -/
def foldAll (dtype redop : Nat) (l : List (List VReg)) : List VReg :=
  match l with
  | [] => []
  | x :: xs => xs.foldl (foldTwo dtype redop) x

/-! ## The inputs of a node (19 R361) -/

/-- The positions whose inputs a round of a node needs, in fold order: 0 to 15 local, 16 + child index a child. -/
def State.treeInputs (s : State) (node t : Nat) : List Nat :=
  s.treeLocal node t ++ (List.range (s.treeKids node t).length).map (16 + ·)

/-- The logical cores of a node by position. -/
def State.coreAtPos (s : State) (node c : Nat) : Option Nat :=
  ((s.lnodes.filter (fun e => e.2.phys == node)).head?).map (fun e => 16 * e.1 + c)

/-! ## Rounds -/

/-- The rounds that a node keeps open, and its combining buffers (19 R361, 20 R364). -/
abbrev roundLimit : Nat := 16
/-- Combining buffers of a router. -/
abbrev combineBuffers : Nat := 8

/-- A round open at a node. -/
def State.round (s : State) (node tree tag : Nat) : Option Round :=
  (s.pnode node).rounds.find? (fun r => r.tree == tree && r.tag == tag)

/-- The node keeps as many open rounds as it can; one that has timed out there lets others go on (19 R361). -/
def State.roundsFull (s : State) (node : Nat) : Bool := decide (roundLimit ≤ ((s.pnode node).rounds.filter (fun r => !r.timed)).length)

/-- Change a round. -/
def State.modRound (s : State) (node tree tag : Nat) (f : Round → Round) : State :=
  s.modPnode node (fun n => { n with rounds := n.rounds.map (fun r => if r.tree == tree && r.tag == tag then f r else r) })

/-- The mask that a node forwards (19 R363): its own timeout names it, else the first input with a mask; `late`, the inputs missing. -/
def State.roundMask (s : State) (node : Nat) (r : Round) (timed : Bool) : Word :=
  let masks := r.got.map (fun e => e.2.2)
  let nto := min 255 ((masks.map (fun m => field m 32 8)).sum + (if timed then 1 else 0))
  let missing := (s.treeInputs node r.tree).filter (fun p => (r.got.find p).isNone)
  let lcl := ((missing.filter (· < 16)).map (2 ^ ·)).sum
  let child := ((missing.filter (16 ≤ ·)).map (fun p => 2 ^ (p - 16))).sum
  let low := if timed then node * 2 ^ 24 + child * 2 ^ 16 + lcl
    else match masks.find? (· != 0) with | some m => field m 0 32 | none => 0
  word (nto * 2 ^ 32 + low)

/-- 1,024 free bits. -/
def State.freeV (s : State) : VReg := (Config.freeDigest s.free ++ Config.freeDigest (s.free + 1) : BitVec 1024)

/-- A packet between two nodes of a tree; one for a node that the table does not reach is lost. -/
def State.treeSend (s : State) (a b : Nat) (i : Instr) : State := if s.unreachable a b then s else s.push i

/-- The contribution of a position to a round, by its tree operand. -/
def contribution (node pos : Nat) (op : Word) (v : VReg) : RedInput :=
  { node := node, tree := field op 0 4, tag := field op 16 16, dtype := field op 4 3, redop := field op 8 2, from_ := pos,
    vals := widenVec (field op 4 3) v, miss := 0, bad := false, glean := none }

/-- A contribution of a position to a round is counted already, or on its way. -/
def State.hasSent (s : State) (node tree tag pos : Nat) : Bool :=
  (match s.round node tree tag with | some o => (o.got.find pos).isSome | none => false) ||
  s.agenda.any (fun i => match i with
    | .reductionInput r => r.node == node && r.tree == tree && r.tag == tag && r.from_ == pos
    | _ => false)

/-- The waiting records for which `p` gives a logical core of the node, in the order in which they were deposited; one that `cont.move` has taken
elsewhere still waits for its core's node (09 R231). -/
def State.nodeWaiters (s : State) (node : Nat) (p : Want → Option Nat) : List (RecRef × Rec) :=
  let l := s.lcores.flatMap (fun e =>
    (e.2.recs.filter (fun x => x.st == .waiting && (p x.want).any (fun l => s.physOf l / 16 == node))).map (fun x => (({ lc := e.1, id := x.id } : RecRef), x)))
  l.mergeSort (fun a b => a.2.id ≤ b.2.id)

/-- A contribution that waited for an injection goes on its way; a second one of its core to a round is not counted (09 R210). -/
def State.injectWaiter (s : State) (e : RecRef × Rec) : State :=
  match e.2.want with
  | .redQueue v op lc =>
    let node := s.nodeOfLc lc
    let tree := field op 0 4
    let tag := field op 16 16
    let pos := numOfLc lc % 16
    let past : Bool := (s.pnode node).discard.contains (tree, tag)
    if !past && s.hasSent node tree tag pos then s.makeReady e.1 (Reply.trap_ 7 op)
    else if (s.round node tree tag).isNone && !past && s.roundsFull node then s
    else (s.push (.reductionInput (contribution node pos op v))).makeReady e.1 Reply.none_
  | _ => s

/-- The sends that wait for an injection at a node go on while there is room (09 R210, 19 R361). -/
def State.admitSends (s : State) (node : Nat) : State :=
  (s.nodeWaiters node (fun w => match w with | .redQueue _ _ lc => some lc | _ => none)).foldl State.injectWaiter s

/-- An open round is closed at its node: its jobs stand for nothing any more, its timer ends, its buffer is free, and sends that waited go on. -/
def State.closeRound (s : State) (node tree tag : Nat) : State :=
  let s1 := s.modPnode node (fun n =>
    { n with
      rounds := n.rounds.filter (fun r => !(r.tree == tree && r.tag == tag))
      gleans := n.gleans.map (fun g => if g.tree == tree && g.tag == tag then { g with pos := 33 } else g) })
  (s1.drop (· == .roundTimeout node tree tag)).admitSends node

/-- A node's partial goes to its parent, which frees its combining buffer, or the result down the tree at the root; a fold of nothing gives a free value.
A round whose result had already come down is over with it (20 R364). -/
def State.sendUp (s : State) (node : Nat) (r : Round) (vals : List VReg) (miss : Word) (glean : Option (List (List VReg))) : State :=
  let up := s.treeParent node r.tree
  let s0 := (s.modRound node r.tree r.tag (fun x => { x with sent := true, buffered := x.buffered && up == node })).drop
    (· == .roundTimeout node r.tree r.tag)
  let s1 := if r.given then s0.closeRound node r.tree r.tag else s0
  if up = node then
    let val := if vals.isEmpty then s.freeV else narrowVec r.dtype vals
    s1.drew.push (.reductionResult { node := node, tree := r.tree, tag := r.tag, dtype := r.dtype, redop := r.redop, val := val,
                                     miss := miss, late := miss != 0, bad := r.bad })
  else
    match (s.treeKids up r.tree).idxOf? node with
    | none => s1
    | some i => s1.treeSend node up (.reductionInput
        { node := up, tree := r.tree, tag := r.tag, dtype := r.dtype, redop := r.redop, from_ := 16 + i, vals := vals, miss := miss,
          bad := r.bad, glean := glean })

/-- The header of a glean job: input count, node and TAG in words 0 to 2; the other words are free (19 R362). -/
def State.gleanHeader (s : State) (n node tag : Nat) : VReg :=
  (s.freeV &&& (BitVec.allOnes 1024 <<< 96)) ||| BitVec.ofNat 1024 (n + node * 2 ^ 32 + tag * 2 ^ 64)

/-- A glean job for the gleaners of a node. -/
def State.addGlean (s : State) (node src pos : Nat) (r : Round) (ins : List (List VReg)) (miss : Word) (bad : Bool) : State :=
  let g : Glean := { tree := r.tree, tag := r.tag, dtype := r.dtype, redop := r.redop, node := src, pos := pos,
                     out := s.gleanHeader ins.length src r.tag :: ins.flatten, reader := none, back := [], miss := miss, bad := bad }
  s.drew.drew.modPnode node (fun n => { n with gleans := n.gleans ++ [g] })

/-- The next vector of the gleaner task `key`: the rest of its own job, else the header of the first job that no one reads. -/
def State.gleanNext (s : State) (node tree key : Nat) : Option (VReg × State) :=
  let gs := (s.pnode node).gleans
  let mine := gs.findIdx? (fun (g : Glean) => g.tree == tree && g.reader == some key && !g.out.isEmpty)
  let i := match mine with | some i => some i | none => gs.findIdx? (fun (g : Glean) => g.tree == tree && g.reader.isNone)
  match i with
  | none => none
  | some i =>
    match gs[i]? with
    | none => none
    | some g => some (g.out.headD 0, s.modPnode node (fun n =>
        { n with gleans := n.gleans.set i { g with reader := some key, out := g.out.drop 1 } }))

/-- Hand vectors to the gleaners that wait, in the order in which they issued (19 R362). -/
def State.serveGleaners (s : State) (node tree : Nat) : State :=
  let ws := s.nodeWaiters node (fun w => match w with | .reduction t _ _ _ true lc => if t = tree then some lc else none | _ => none)
  ws.foldl (fun (st : State) e =>
    match st.gleanNext node tree e.2.task with
    | some (v, s1) => s1.makeReady e.1 { val := v, mask := BitVec.allOnes 128, err := none }
    | none => st) s

/-- All inputs of a round are there, or its time is up: the node folds them and forwards the partial, or, without a combining buffer,
sends them on uncombined; the root then hands them to its own gleaners, but folds them itself at a timeout. -/
def State.closeInputs (s : State) (node : Nat) (r : Round) (timed : Bool) : State :=
  let ins := (r.got.filter (fun e => !e.2.1.isEmpty)).map (fun e => e.2.1)
  let miss := s.roundMask node r timed
  let root : Bool := s.treeParent node r.tree == node
  if r.buffered ∨ ins.isEmpty ∨ (root ∧ timed) then s.sendUp node r (foldAll r.dtype r.redop ins) miss none
  else if root then (s.addGlean node node 32 r ins miss r.bad).serveGleaners node r.tree
  else s.sendUp node r [] miss (some ins)

/-- A round is complete when every input of the node has arrived. -/
def State.roundFull (s : State) (node : Nat) (r : Round) : Bool := (s.treeInputs node r.tree).all (fun p => (r.got.find p).isSome)

/-- An input counts as arrived, and the round is closed when it was the last. -/
def State.arrived (s : State) (node tree tag pos : Nat) (vals : List VReg) (miss : Word) (bad : Bool) : State :=
  let s1 := s.modRound node tree tag (fun r => { r with got := r.got.set pos (vals, miss), bad := r.bad || bad })
  match s1.round node tree tag with
  | some r => if s1.roundFull node r then s1.closeInputs node r false else s1
  | none => s1

/-- Open a round at a node; it holds a combining buffer where one is free (20 R364). -/
def State.openRound (s : State) (r : RedInput) : State :=
  let n := s.pnode r.node
  let free : Bool := (n.rounds.filter (·.buffered)).length < combineBuffers
  (s.setPnode r.node { n with rounds := n.rounds ++ [{ tree := r.tree, tag := r.tag, dtype := r.dtype, redop := r.redop, got := [],
                                                       bad := false, buffered := free, sent := false }] }).push
    (.roundTimeout r.node r.tree r.tag)

/-- An input reaches an open round (19 R361, R395): one that comes late or twice is discarded; one whose DTYPE or REDOP differs counts as
arrived, unfolded; uncombined inputs of a child become a glean job. -/
def State.takeInput (s : State) (r : RedInput) (o : Round) : State :=
  if o.sent ∨ (o.got.find r.from_).isSome then s
  else if o.dtype ≠ r.dtype ∨ o.redop ≠ r.redop then s.arrived r.node r.tree r.tag r.from_ [] r.miss true
  else
    match r.glean with
    | some ins =>
      let src := (s.treeKids r.node r.tree).getD (r.from_ - 16) 0
      (s.addGlean r.node src r.from_ o ins r.miss r.bad).serveGleaners r.node r.tree
    | none => s.arrived r.node r.tree r.tag r.from_ r.vals r.miss r.bad

/-- REDUCTION_INPUT (19 R361): it opens a round or reaches one; one that would open a 17th round waits; one in the discard window is
discarded. -/
def execReductionInput (r : RedInput) (s : State) : Outcome :=
  let n := s.pnode r.node
  .next (
    if (r.tree, r.tag) ∈ n.discard ∨ !(s.treeInputs r.node r.tree).contains r.from_ then s
    else match s.round r.node r.tree r.tag with
      | some o => s.takeInput r o
      | none =>
        if s.roundsFull r.node then s.putBack (.reductionInput r)
        else
          let s1 := s.openRound r
          match s1.round r.node r.tree r.tag with
          | some o => s1.takeInput r o
          | none => s1)

/-- A round used by a running collective has this number for its TAG (19 R354). -/
abbrev collTag (id : Nat) : Nat := 65536 + id

/-- ROUND_TIMEOUT (19 R363, R354): a round that has not received its inputs is closed with its mask; a collective's round that times out
fails the collective with 50. -/
def execRoundTimeout (node tree tag : Nat) (s : State) : Outcome :=
  .next (
    if 65536 ≤ tag then
      { s with colls := s.colls.map (fun (c : Coll) => if collTag c.id = tag ∧ c.err = 0 then { c with err := 50 } else c) }
    else match s.round node tree tag with
      | some r =>
        if r.sent then s
        else ((s.modRound node tree tag (fun x => { x with timed := true })).closeInputs node { r with timed := true } true).admitSends node
      | none => s)

/-- ROUND_DISCARD_EXPIRY (19 R361), after twice the TIMEOUT that a round still to be sent has. -/
def execRoundDiscardExpiry (node tree tag : Nat) (s : State) : Outcome :=
  .next (if (s.round node tree tag).any (·.given) then s.putBack (.roundDiscardExpiry node tree tag) else s.modPnode node (fun n => { n with discard := n.discard.filter (· != (tree, tag)) }))

/-! ## Results -/

/-- The tree operand of an instruction, from its fields (09 R209). -/
def treeOperand (tree tag dtype redop : Nat) : Word := word (tag * 2 ^ 16 + redop * 2 ^ 8 + dtype * 16 + tree)

/-- The trap that a `red.recv` of a round takes after vd is written (19 R363, R395). -/
def resultTrap (r : RedResult) (dtype redop : Nat) : Option (Nat × Word) :=
  if r.late then some (50, r.miss)
  else if r.bad ∨ r.dtype ≠ dtype ∨ r.redop ≠ redop then some (7, treeOperand r.tree r.tag dtype redop)
  else none

/-- Take a delivered result of (tree, tag) from a logical core. -/
def State.takeResult (s : State) (lc tree tag : Nat) : Option (RedResult × State) :=
  let l := (s.lcore lc).results
  match l.findIdx? (fun r => r.tree == tree && r.tag == tag) with
  | none => none
  | some i => (l[i]?).map (fun r => (r, s.modLcore lc (fun x => { x with results := l.eraseIdx i })))

/-- The record that waits first for a result of a logical core takes it. -/
def State.serveResult (s : State) (lc tree tag : Nat) : State :=
  let ws := (s.lcores.flatMap (fun e => e.2.recs.filterMap (fun x => match x.want with
    | .reduction t g dtype redop false l =>
      if x.st == .waiting && t == tree && g == tag && l == lc then some (({ lc := e.1, id := x.id } : RecRef), dtype, redop) else none
    | _ => none))).mergeSort (fun a b => a.1.id ≤ b.1.id)
  match ws with
  | [] => s
  | (ref, dtype, redop) :: _ =>
    match s.takeResult lc tree tag with
    | none => s
    | some (r, s1) => s1.makeReady ref { val := r.val, mask := BitVec.allOnes 128, err := resultTrap r dtype redop }

/-- A result has been delivered at a node: its discard window begins, and its round closes, but one whose own partial is still to be sent stays open,
with its buffer and its timer, until it is (19 R361, 20 R364). -/
def State.endRound (s : State) (node tree tag : Nat) : State :=
  let s1 := s.modPnode node (fun n => { n with discard := n.discard.filter (· != (tree, tag)) ++ [(tree, tag)] })
  let s2 := (s1.drop (· == .roundDiscardExpiry node tree tag)).push (.roundDiscardExpiry node tree tag)
  if (s.round node tree tag).any (fun r => !r.sent && s.treeParent node tree != node) then
    s2.modRound node tree tag (fun r => { r with given := true })
  else s2.closeRound node tree tag

/-- REDUCTION_RESULT (19 R361, 20 R365): the result is delivered to the local cores, goes on to the children, and the round closes. -/
def execReductionResult (r : RedResult) (s : State) : Outcome :=
  .next (
    let cores := (s.treeLocal r.node r.tree).filterMap (s.coreAtPos r.node)
    let s1 := cores.foldl (fun (st : State) lc =>
      (st.modLcore lc (fun x => { x with results := x.results ++ [r] })).serveResult lc r.tree r.tag) s
    let s2 := (s.treeKids r.node r.tree).foldl (fun (st : State) k => st.treeSend r.node k (.reductionResult { r with node := k })) s1
    s2.endRound r.node r.tree r.tag)

/-! ## The instructions (09 R209 to R211) -/

/-- The operand breaks a rule of R209. -/
def treeOpBad (v : Word) : Bool :=
  bits v 32 32 != 0 || bits v 11 5 != 0 || v.getLsbD 7 || 6 ≤ field v 4 3 || field v 8 2 == 3

/-- A gleaner's answer joins its job; the last vector makes it the partial of the named node (19 R362). -/
def State.gleanAnswer (s : State) (node tree tag key : Nat) (v : VReg) : State :=
  let gs := (s.pnode node).gleans
  match gs.findIdx? (fun (g : Glean) => g.tree == tree && g.tag == tag && g.reader == some key) with
  | none => s
  | some i =>
    match gs[i]? with
    | none => s
    | some g =>
      let back := g.back ++ [v]
      if back.length < redRegs g.dtype then
        s.modPnode node (fun n => { n with gleans := n.gleans.set i { g with back := back } })
      else
        let s1 := s.modPnode node (fun n => { n with gleans := n.gleans.eraseIdx i })
        match s1.round node tree tag with
        | none => s1
        | some o =>
          if o.sent ∨ g.pos = 33 then s1
          else if g.pos = 32 then s1.sendUp node o back g.miss none
          else s1.arrived node tree tag g.pos back g.miss g.bad

/-- RED_SEND (09 R210) -/
def execRedSend (vs rs1 : Reg) (s : State) : Outcome :=
  .next (s.issue (fun t =>
    let op := t.getX rs1
    let lc := (s.task t.task).lc
    let node := s.turn.1 / 16
    let tree := field op 0 4
    let tag := field op 16 16
    let pos := numOfLc lc % 16
    if treeOpBad op then s.trap t 7 op
    else if op.getLsbD 10 then (s.gleanAnswer node tree tag t.task (t.getV vs)).retire t
    else if !(s.treeLocal node tree).contains pos then s.trap t 7 op
    else if !((s.pnode node).discard.contains (tree, tag)) ∧ s.hasSent node tree tag pos then s.trap t 7 op
    else if (s.round node tree tag).isNone ∧ !((s.pnode node).discard.contains (tree, tag)) ∧ s.roundsFull node then
      s.drew.yieldAt t t 9 0 s.freeW (.redQueue (t.getV vs) op lc) (fun s _ => s)
    else
      (s.push (.reductionInput (contribution node pos op (t.getV vs)))).retire t))

/-- RED_RECV (09 R211) -/
def execRedRecv (vd rs1 : Reg) (s : State) : Outcome :=
  .next (s.issue (fun t =>
    let op := t.getX rs1
    let lc := (s.task t.task).lc
    let node := s.turn.1 / 16
    let tree := field op 0 4
    let tag := field op 16 16
    let dtype := field op 4 3
    let redop := field op 8 2
    let glean := op.getLsbD 10
    let wait := s.drew.yieldAt t t 10 (32 + vd.toNat) s.freeW (.reduction tree tag dtype redop glean lc) (fun s _ => s)
    if treeOpBad op then s.trap t 7 op
    else if glean then
      match s.gleanNext node tree t.task with
      | some (v, s1) => s1.retire (t.setV vd v)
      | none => wait
    else if !(s.treeLocal node tree).contains (numOfLc lc % 16) then s.trap t 7 op
    else
      match s.takeResult lc tree tag with
      | none => wait
      | some (r, s1) =>
        match resultTrap r dtype redop with
        | none => s1.retire (t.setV vd r.val)
        | some (cause, obj) => s1.trap (t.setV vd r.val) cause obj))

end Sys2Proof.Machine
end

