-- ==== Sys2Proof/Machine/Collect.lean ====
section
/-!
DEFINITION. Collectives: the parameter block and its checks, posting, matching, the folds of each algorithm, what each operation
writes, events and errors (09 R208, 19 R345 to R359).
-/
namespace Sys2Proof.Machine

/-! ## The parameter block (19 R348, R349) -/

namespace Pb

/-- 0 all-reduce, 1 reduce-scatter, 2 all-gather, 3 broadcast, 4 reduce, 5 all-to-all, 6 barrier. -/
abbrev op (b : BitVec 1024) : Nat := field b 0 8
/-- The element type. -/
abbrev dtype (b : BitVec 1024) : Nat := field b 8 8
/-- 0 sum, 1 max, 2 min. -/
abbrev redop (b : BitVec 1024) : Nat := field b 16 8
/-- 0 auto, 1 tree, 2 ring, 3 direct, 4 hierarchical. -/
abbrev algo (b : BitVec 1024) : Nat := field b 24 8
/-- Canonical order. -/
abbrev canon (b : BitVec 1024) : Bool := b.getLsbD 32
/-- RECV holds the input. -/
abbrev inplace (b : BitVec 1024) : Bool := b.getLsbD 33
/-- Group descriptor. -/
abbrev group (b : BitVec 1024) : Nat := field b 64 57
/-- Elements per block. -/
abbrev count (b : BitVec 1024) : Nat := field b 128 32
/-- Input buffer. -/
abbrev send (b : BitVec 1024) : Nat := field b 192 57
/-- Output buffer. -/
abbrev recv (b : BitVec 1024) : Nat := field b 256 57
/-- Bytes per pipeline step. -/
abbrev chunk (b : BitVec 1024) : Nat := field b 320 32
/-- Tree id. -/
abbrev tree (b : BitVec 1024) : Nat := field b 384 4
/-- The event target of event 1 released, 2 ready or 3 done. -/
abbrev event (b : BitVec 1024) (e : Nat) : Word := bits b (448 + 64 * (e - 1)) 64
/-- The matching tag. -/
abbrev tag (b : BitVec 1024) : Word := bits b 640 64
/-- Bytes of an element. -/
def esize (b : BitVec 1024) : Nat := redBits (dtype b) / 8
/-- The operation folds its inputs. -/
def reduces (b : BitVec 1024) : Bool := op b == 0 || op b == 1 || op b == 4
/-- The address of the input. -/
def input (b : BitVec 1024) : Nat := if inplace b then recv b else send b

end Pb

/-- An event target passes: the barrier is valid and, with `wide`, of level 2 or more; a mailbox word is aligned (19 R349, R351). -/
def State.eventOk (s : State) (lc : Nat) (e : Word) (wide : Bool) : Bool :=
  bits e 57 5 == 0 &&
  (match field e 62 2 with
   | 0 => true
   | 1 => bits e 16 41 == 0 && (match s.barOf lc (word (field e 0 16)) with | some b => !wide || 2 ≤ b.level | none => false)
   | 2 => field e 0 3 == 0
   | _ => false)

/-- The block passes the checks of R351. Extents that depend on the group's size count as one block of COUNT elements, the part that the
block alone gives (log 18); a barrier ignores COUNT, SEND and RECV. -/
def State.blockOk (s : State) (lc : Nat) (b : BitVec 1024) : Bool :=
  let fields := Pb.op b ≤ 6 && Pb.dtype b ≤ 5 && Pb.redop b ≤ 2 && Pb.algo b ≤ 4 && Pb.chunk b % 64 == 0
  let zeros := [(34, 30), (121, 7), (160, 32), (249, 7), (313, 7), (352, 32), (388, 60), (704, 320)].all (fun r => field b r.1 r.2 == 0)
  let bytes := Pb.count b * Pb.esize b
  let buffers := Pb.op b == 6 ||
    ((!Pb.inplace b || (Pb.send b == 0 && Pb.op b != 5)) && Pb.send b % Pb.esize b == 0 && Pb.recv b % Pb.esize b == 0 &&
      (Pb.inplace b || !overlaps (Pb.send b, bytes) (Pb.recv b, bytes)))
  fields && zeros && buffers && (Pb.reduces b || Pb.redop b == 0) && Pb.group b % 64 == 0 &&
    s.eventOk lc (Pb.event b 1) false && s.eventOk lc (Pb.event b 2) true && s.eventOk lc (Pb.event b 3) true &&
    !(Pb.canon b && (Pb.algo b == 2 || Pb.algo b == 3) && Pb.reduces b && Pb.dtype b ≤ 3 && Pb.redop b == 0)

/-! ## Memory through the captured tables (19 R350) -/

/-- The place of an address of a collective; none is an error of R354. -/
def State.portPa (s : State) (p : CollPost) (k : Kind) (va : Nat) : State × Option Nat :=
  let c := s.physOf p.lc
  let (s1, tr) := s.resolve c p.lc p.launch p.smode p.satp k (word va)
  let away : Bool := match tr with
    | .spad pg _ => s1.nodeAway (s1.nodeOfLc pg.lc)
    | .mem pa _ => regionOf pa == 5 && s1.nodeAway (s1.homeNode pa)
    | _ => false
  match s1.trPa tr with
  | none => (s1, none)
  | some (pa, ty) => (s1, if away ∨ ty = 3 ∨ (k = .load ∧ s1.isPoisoned pa) then none else some pa)

/-- The doublewords of a group descriptor from `va` on. -/
def State.portWords (s : State) (p : CollPost) (va : Nat) : Nat → State × Option (List Nat)
  | 0 => (s, some [])
  | n + 1 =>
    match s.portPa p .load va with
    | (s1, none) => (s1, none)
    | (s1, some pa) =>
      match State.portWords s1 p (va + 8) n with
      | (s2, none) => (s2, none)
      | (s2, some l) => (s2, some (s1.readN pa 8 :: l))

/-- A group descriptor: its entries in rank order, or the error that its reading or its checks give (19 R350, R353, R354). -/
def State.readGroup (s : State) (p : CollPost) : State × Except Nat (List Nat) :=
  match s.portWords p (Pb.group p.blk) 2 with
  | (s1, some [h, z]) =>
    if h = 0 ∨ 4096 < h ∨ z ≠ 0 then (s1, .error 7)
    else
      match s1.portWords p (Pb.group p.blk + 16) h with
      | (s2, none) => (s2, .error 29)
      | (s2, some l) =>
        let own := fun (e : Nat) => e / 2 ^ 16 % 64 == Config.podModule % 64
        let me := numOfLc p.lc + Config.podModule % 64 * 2 ^ 16
        if l.any (fun e => 2 ^ 22 ≤ e || (own e && s2.lcount (partOfLc p.lc) ≤ e % 2 ^ 16)) ∨ l.count me ≠ 1 then (s2, .error 7)
        else (s2, .ok l)
  | (s1, _) => (s1, .error 29)

/-- The rank of a posting core in its group. -/
def postRank (group : List Nat) (lc : Nat) : Nat := (group.idxOf? (numOfLc lc + Config.podModule % 64 * 2 ^ 16)).getD 0

/-! ## Posting (09 R208, 19 R346, R347) -/

/-- The blocks that the FIFO of a port processor holds. -/
abbrev postFifo : Nat := 32

/-- The port processor of a logical core's node. -/
def State.portOf (s : State) (lc : Nat) : Nat := s.portAt (s.nodeOfLc lc)

/-- The port processor takes a block: its FIFO has room beside the blocks behind a release, and it is not about to be loaded. -/
def State.postRoom (s : State) (pp : Nat) : Bool :=
  let held := (s.pcores.map (fun e => (e.2.sb.filter (fun x => match x.op with | .collPost p => p.id / 2 ^ 24 == pp | _ => false)).length)).sum
  !(s.portProc pp).loading && (s.portProc pp).fifo.length + held < postFifo

/-- The next sequence number; 0 with port processor 0 would be the reply of a block that is not posted. -/
def nextPost (n : Nat) : Nat := if n % 2 ^ 24 = 2 ^ 24 - 1 then 1 else n % 2 ^ 24 + 1

/-- Post a block that passed its checks: its id, and the block behind a release at `pkg`, or `sys` where a member lies outside the
package (09 R208). -/
def State.postBlock (s : State) (c slot key : Nat) (smode : Bool) (blk : BitVec 1024) : Nat × State :=
  let tk := s.task key
  let pp := s.portOf tk.lc
  let id := pp * 2 ^ 24 + (s.portProc pp).seq
  let p : CollPost := { id := id, blk := blk, satp := (s.csrs tk.lc).satp, lc := tk.lc, task := key, launch := tk.launch, smode := smode,
                         origin := tk.origin }
  let far : Bool := match (s.readGroup p).2 with
    | .ok l => l.any (fun e => e / 2 ^ 16 % 64 != Config.podModule % 64)
    | .error _ => false
  let s1 := s.modPp pp (fun x => { x with seq := nextPost x.seq })
  (id, s1.afterRelease c slot key (if far then 4 else 3) (.collPost p))

/-- COLL_POST (09 R208) -/
def execCollPost (rd rs1 : Reg) (s : State) : Outcome :=
  .next (s.issue (fun t =>
    let va := t.getX rs1
    if va.toNat % 64 ≠ 0 then s.trap t 4 va
    else
      let ps := (List.range 2).map (fun i => ({ off := 64 * i, va := va + word (64 * i), size := 64, data := 0 } : Piece))
      let a := { Acc.plain .readColl ps with mask := BitVec.allOnes 128 }
      s.readPath t t rd.toNat a denyNone va (fun s t got =>
        let blk := BitVec.ofNat 1024 got
        let lc := (s.task t.task).lc
        if !s.blockOk lc blk then s.retire (t.setX rd 0)
        else if s.postRoom (s.portOf lc) then
          let s0 := (s.drainWc s.turn.1 t).putCur { t with wc := none }
          let (id, s1) := s0.postBlock s.turn.1 s.turn.2 t.task t.smode blk
          s1.retire ({ t with wc := none }.setX rd (word id))
        else s.drew.yieldAt t t 9 rd.toNat s.freeW (.collQueue blk) (fun s _ => s))))

/-- A block that a record has read is posted, waits for room, or is not posted (05 R111 kind 9). -/
def State.postRead (s : State) (r : RecRef) (x : Rec) (blk : BitVec 1024) : State :=
  if !s.blockOk r.lc blk then s.makeReady r (Reply.word_ 0)
  else if s.postRoom (s.portOf r.lc) then
    let (id, s1) := s.postBlock (s.coreOf r) 0 x.task x.smode blk
    s1.makeReady r (Reply.word_ (word id))
  else
    let s1 := s.modRec r (fun y => { y with wait := 9, want := .collQueue blk })
    match s1.recOf r with | some y => s1.putRecState r y .waiting | none => s1

/-- Records that wait for room at a port processor post while there is some, in the order in which they were deposited. -/
def State.admitPosts (s : State) (pp : Nat) : State :=
  let ws := s.lcores.flatMap (fun e => e.2.recs.filterMap (fun x => match x.want with
    | .collQueue blk => if x.st == .waiting && s.portOf e.1 == pp then some (({ lc := e.1, id := x.id } : RecRef), x, blk) else none
    | _ => none))
  (ws.mergeSort (fun a b => a.2.1.id ≤ b.2.1.id)).foldl (fun (st : State) e =>
    if st.postRoom pp then st.postRead e.1 e.2.1 e.2.2 else st) s

/-! ## Folds by algorithm (19 R358, R359) -/

/-- The fold of the canonical tree at a position: its own input, then its children's partials. -/
def canonAt (dtype redop : Nat) (vals : List Nat) : Nat → Nat → Nat
  | 0, p => vals.getD p 0
  | f + 1, p =>
    (((List.range 4).map (4 * p + 1 + ·)).filter (· < vals.length)).foldl (fun a c => redOp dtype redop a (canonAt dtype redop vals f c))
      (vals.getD p 0)

/-- A list turned so that rank r stands at position (r + t) mod N. -/
def turned (t : Nat) (vals : List Nat) : List Nat :=
  (List.range vals.length).map (fun p => vals.getD ((p + vals.length - t % vals.length) % vals.length) 0)

/-- The canonical tree over all ranks. -/
def canonFold (dtype redop t : Nat) (vals : List Nat) : Nat := canonAt dtype redop (turned t vals) vals.length 0

/-- One after another. -/
def seqFold (dtype redop : Nat) (vals : List Nat) : Nat :=
  match vals with
  | [] => 0
  | v :: vs => vs.foldl (redOp dtype redop) v

/-- Element `i` of `c` folded over the ranks, whose values are widened codes; `modules` gives the module of each rank. -/
def collFold (algo dtype redop t i c : Nat) (modules vals : List Nat) : Nat :=
  let n := vals.length
  match algo with
  | 1 => canonFold dtype redop t vals
  | 2 => seqFold dtype redop ((List.range n).map (fun k => vals.getD ((i * n / c + 1 + k) % n) 0))
  | 3 => seqFold dtype redop vals
  | _ =>
    let parts := modules.eraseDups.map (fun m =>
      canonFold dtype redop t (((modules.zip vals).filter (fun e => e.1 == m)).map (·.2)))
    canonFold dtype redop t parts

/-- The algorithm that a block runs with (19 R359). -/
def collAlgoOf (b : BitVec 1024) (n modules : Nat) : Nat :=
  if Pb.algo b ≠ 0 then Pb.algo b
  else if Pb.canon b then (if modules = 1 then 1 else 4)
  else 1 + Config.collAlgo (Pb.op b) n (Pb.count b) (Pb.dtype b) modules (Pb.chunk b) % 4

/-- Bytes as elements. -/
def elemsOf (size : Nat) (l : List Byte) : List Nat := (List.range (l.length / size)).map (fun i => ofBytes ((l.drop (size * i)).take size))

/-! ## What an operation reads and writes (19 R352) -/

/-- The bytes of the input of a rank. -/
def inputBytes (b : BitVec 1024) (n rank : Nat) : Nat :=
  let c := Pb.count b * Pb.esize b
  match Pb.op b with
  | 0 | 2 | 4 => c
  | 1 | 5 => n * c
  | 3 => if rank = 0 then c else 0
  | _ => 0

/-- The ranks whose inputs a rank's RECV depends on. -/
def needsOf (b : BitVec 1024) (n rank : Nat) : List Nat :=
  match Pb.op b with
  | 3 => [0]
  | 4 => if rank = 0 then List.range n else []
  | 6 => []
  | _ => List.range n

/-- The bytes of RECV of a rank. -/
def collOutput (b : BitVec 1024) (modules : List Nat) (data : List (List Byte)) (rank : Nat) : List Byte :=
  let n := data.length
  let size := Pb.esize b
  let c := Pb.count b
  let seg := fun (l : List Byte) (j : Nat) => (l.drop (j * c * size)).take (c * size)
  let algo := collAlgoOf b n modules.eraseDups.length
  let total := if Pb.op b = 1 then n * c else c
  let folded := fun (lo : Nat) =>
    let cols := data.map (elemsOf size)
    ((List.range c).map (fun i =>
      let vals := cols.map (fun l => widenCode (Pb.dtype b) (l.getD (lo + i) 0))
      toBytes size (narrowCode (Pb.dtype b) (collFold algo (Pb.dtype b) (Pb.redop b) (Pb.tree b) (lo + i) total modules vals)))).flatten
  match Pb.op b with
  | 0 => folded 0
  | 1 => folded (rank * c)
  | 2 => data.flatten
  | 3 => data.headD []
  | 4 => if rank = 0 then folded 0 else []
  | 5 => (data.map (fun l => seg l rank)).flatten
  | _ => []

/-! ## Running (19 R353 to R357) -/

/-- A collective. -/
def State.coll (s : State) (id : Nat) : Option Coll := s.colls.find? (fun c => c.id == id)
/-- Change a collective. -/
def State.modColl (s : State) (id : Nat) (f : Coll → Coll) : State := { s with colls := s.colls.map (fun c => if c.id == id then f c else c) }
/-- A collective fails; the first failure gives the code (19 R354). -/
def State.failColl (s : State) (id err : Nat) : State := s.modColl id (fun c => if c.err = 0 then { c with err := err } else c)

/-- Every member has posted; one that stands alone has a single post. -/
def Coll.full (c : Coll) : Bool := c.group.isEmpty || c.posts.length == c.group.length

/-- A collective moves data: not one that stands alone, failed, or is a barrier. -/
def Coll.moves (c : Coll) : Bool := !c.group.isEmpty && c.err == 0

/-- What the posts must agree in (19 R353). -/
def agreeKey (b : BitVec 1024) : List Nat :=
  [Pb.op b, Pb.dtype b, Pb.redop b, Pb.algo b, if Pb.canon b then 1 else 0, Pb.count b, Pb.tree b]

/-- A full collective starts: the released events that have not fired are due; firmware may carry its folds by a router round, which may time out. One
whose members' events have all fired is over. -/
def State.startColl (s : State) (id : Nat) : State :=
  match s.coll id with
  | none => s
  | some c =>
    if !c.full then s
    else
      let keys := c.posts.map (fun e => agreeKey e.2.blk)
      let s1 := if keys.eraseDups.length ≤ 1 then s else s.failColl id 7
      let s2 := (c.posts.filter (fun e => !c.released.contains e.1)).foldl (fun (st : State) e => st.pushOnce (.collReleased id e.1)) s1
      if c.done.length = c.posts.length then { s2 with colls := s2.colls.filter (fun x => x.id != id) }
      else match c.posts with
      | (_, p) :: _ =>
        if c.moves ∧ Pb.reduces p.blk ∧ s.freeN % 2 = 1 then
          s2.drew.push (.roundTimeout (s.nodeOfLc p.lc) (Pb.tree p.blk) (collTag id))
        else s2.drew
      | [] => s2

/-- A block joins a collective of its own, with an error or, alone, with none (19 R353, R356). -/
def State.soloColl (s : State) (p : CollPost) (err : Nat) : State :=
  let c : Coll := { id := s.nextId, group := [], tag := Pb.tag p.blk, posts := [(0, p)], released := [], readied := [], done := [],
                    err := err, data := [], out := [] }
  State.startColl { s.bumpId with colls := s.colls ++ [c] } c.id

/-- A post joins a matched collective as rank `rank` of its group: with COUNT = 0 its own events fire at once, and it counts as the member's post all the
same; one whose input is not read is released at once (19 R353, R355, R356). -/
def State.joinColl (s : State) (id rank : Nat) (p : CollPost) : State :=
  let empty : Bool := Pb.op p.blk != 6 && Pb.count p.blk == 0
  let mark := fun (l : List Nat) => if empty then l ++ [rank] else l
  let s1 := s.modColl id (fun x => { x with posts := x.posts.set rank p, released := mark x.released, readied := mark x.readied, done := mark x.done })
  let n := ((s.coll id).map (fun c => c.group.length)).getD 0
  let s2 := if empty then s1.soloColl p 0 else if inputBytes p.blk n rank = 0 then s1.push (.collReleased id rank) else s1
  s2.startColl id

/-- COLL_START (19 R345, R353): the block at the head of the FIFO is matched; a group of one runs at once. -/
def execCollStart (pp : Nat) (s : State) : Outcome :=
  .next (if (s.portProc pp).loading then s.putBack (.collStart pp)
    else match (s.portProc pp).fifo with
      | [] => s
      | p :: rest =>
        let s0 := (s.modPp pp (fun x => { x with fifo := rest })).admitPosts pp
        match s0.readGroup p with
        | (s1, .error e) => s1.soloColl p e
        | (s1, .ok l) =>
          if l.length = 1 then s1.soloColl p 0
          else
            let rank := postRank l p.lc
            let same := fun (c : Coll) => c.group == l && c.tag == Pb.tag p.blk && (c.posts.find rank).isNone && !c.full &&
              c.posts.all (fun e => partOfLc e.2.lc == partOfLc p.lc)
            match s1.colls.find? same with
            | some c => s1.joinColl c.id rank p
            | none =>
              let c : Coll := { id := s1.nextId, group := l, tag := Pb.tag p.blk, posts := [], released := [], readied := [], done := [],
                                err := 0, data := [], out := [] }
              State.joinColl { s1.bumpId with colls := s1.colls ++ [c] } c.id rank p)

/-- The step `ev` delivers event `e` of a member's post, and then does `f` (19 R355): an arrival of 0 bytes with the error, or a store to the mailbox
word, as a release of the writes made. It is delivered before the next one fires; the store waits as a piece does, behind a table entry or a line
that is being repaired and behind a reservation of the line. -/
def State.collEvent (s : State) (p : CollPost) (e err : Nat) (ev : Instr) (f : State → State) : State :=
  let target := Pb.event p.blk e
  match field target 62 2 with
  | 1 => match s.barOf p.lc (word (field target 0 16)) with
    | some b => f (s.applyArrival b 0 err)
    | none => f s
  | 2 =>
    let va := field target 0 57
    match s.tableParked (s.physOf p.lc) p.satp .store (word va) with
    | some line => (s.skipHead ev).park line ev
    | none => match s.portPa p .store va with
      | (s1, none) => f (s1.skipHead ev)
      | (s1, some pa) => s1.atLines [pa] ev (fun s => f (s.applyWrite (cellsOf pa 8 (e * 2 ^ 62 + err * 2 ^ 40 + p.id)) none true))
  | _ => f s

/-- The step `ev` reads or writes the piece at `va` of a member's buffer and is due again: it waits for a table entry or a line that is being repaired and
behind a reservation of the line, in arrival order (06 R142, 15 R316); a fault fails the collective with 29 (19 R354). -/
def State.portPiece (s : State) (coll : Nat) (p : CollPost) (k : Kind) (va : Nat) (ev : Instr) (f : State → Nat → State) : State :=
  match s.tableParked (s.physOf p.lc) p.satp k (word va) with
  | some line => (s.skipHead ev).park line ev
  | none => match s.portPa p k va with
    | (s1, none) => ((s1.skipHead ev).failColl coll 29).putBack ev
    | (s1, some pa) => s1.atLines [pa] ev (fun s => (f s pa).push ev)

/-- COLL_RELEASED (19 R355, R357): the next aligned piece of a member's input is read; once it is whole, or the collective has failed, the
released event fires and the ready event is due. -/
def execCollReleased (coll rank : Nat) (s : State) : Outcome :=
  let ev : Instr := .collReleased coll rank
  .next (match s.coll coll with
    | none => s
    | some c =>
      match c.posts.find rank with
      | none => s
      | some p =>
        let got := c.data.get [] rank
        let need := if c.moves then inputBytes p.blk c.group.length rank else 0
        if need ≤ got.length then
          s.collEvent p 1 c.err ev (fun s =>
            (s.modColl coll (fun x => { x with released := x.released ++ [rank] })).push (.collReady coll rank))
        else
          let va := Pb.input p.blk + got.length
          let n := min (64 - va % 64) (need - got.length)
          s.portPiece coll p .load va ev (fun s pa => s.modColl coll (fun x => { x with data := x.data.set rank (got ++ s.bytesAt pa n) })))

/-- COLL_READY (19 R352, R355): once the inputs it depends on are read, the next aligned piece of the member's RECV is written; with the last
one the ready event fires, and the done events are due when every member's has. -/
def execCollReady (coll rank : Nat) (s : State) : Outcome :=
  let ev : Instr := .collReady coll rank
  .next (match s.coll coll with
    | none => s
    | some c =>
      match c.posts.find rank with
      | none => s
      | some p =>
        let n := c.group.length
        if !c.full ∨ (c.moves ∧ (needsOf p.blk n rank).any (fun r => !c.released.contains r)) then s.putBack ev
        else
          let all := if c.moves then
              collOutput p.blk (c.group.map (fun e => e / 2 ^ 16 % 64)) ((List.range n).map (fun r => c.data.get [] r)) rank
            else []
          let left := match c.out.find rank with | some l => if c.moves then l else [] | none => all
          match left with
          | [] =>
            s.collEvent p 2 c.err ev (fun s =>
              let s1 := s.modColl coll (fun x => { x with readied := x.readied ++ [rank] })
              if c.readied.length + 1 = c.posts.length then
                s1.pushAll ((c.posts.filter (fun e => !c.done.contains e.1)).map (fun e => .collDone coll e.1))
              else s1)
          | _ :: _ =>
            let va := Pb.recv p.blk + (all.length - left.length)
            let k := min (64 - va % 64) left.length
            s.portPiece coll p .store va ev (fun s pa =>
              (s.applyWrite ((left.take k).mapIdx (fun i b => (pa + i, b))) none true).modColl coll (fun x => { x with
                out := x.out.set rank (left.drop k) })))

/-- COLL_DONE (19 R355): the done event fires; with the last one the collective is over. -/
def execCollDone (coll rank : Nat) (s : State) : Outcome :=
  .next (match s.coll coll with
    | none => s
    | some c =>
      match c.posts.find rank with
      | none => s
      | some p =>
        s.collEvent p 3 c.err (.collDone coll rank) (fun s =>
          let s1 := s.modColl coll (fun x => { x with done := x.done ++ [rank] })
          if c.done.length + 1 = c.posts.length then
            State.drop { s1 with colls := s1.colls.filter (fun x => x.id != coll) } (fun i => match i with
              | .roundTimeout _ _ g => g == collTag coll
              | _ => false)
          else s1))

end Sys2Proof.Machine
end

