-- ==== Sys2Proof/Machine/Csr.lean ====
section
/-!
DEFINITION. The control and status registers (01 R26 to R31) and the six Zicsr instructions (04 R79).
-/
namespace Sys2Proof.Machine

/-- The value of a CSR, none where no CSR is listed at the address (01 R26, R27). -/
def State.csrRead (s : State) (t : Thread) (n : Nat) : Option Word :=
  let c := s.turn.1
  let tk := s.task t.task
  let l := s.lcore tk.lc
  let k := s.csrs tk.lc
  match n with
  | 0x800 => some (t.getLm 0)
  | 0x801 => some (t.getLm 1)
  | 0x802 => some (t.getLm 2)
  | 0x803 => some (t.getLm 3)
  | 0x804 => some (t.frm.setWidth 64)
  | 0x805 => some (t.fflags.setWidth 64)
  | 0x806 => some (t.vl.setWidth 64)
  | 0x807 => some (t.vstart.setWidth 64)
  | 0x808 => some (t.hl0.remaining.setWidth 64)
  | 0x809 => some t.hl0.start
  | 0x80A => some t.hl0.stop
  | 0x80B => some (t.hl1.remaining.setWidth 64)
  | 0x80C => some t.hl1.start
  | 0x80D => some t.hl1.stop
  | 0x80E => some (t.lsel.setWidth 64)
  | 0x810 => some tk.fmt
  | 0x811 => some tk.scl
  | 0x812 => some tk.sscl
  | 0x813 => some (tk.eod.setWidth 64)
  | 0xCC0 => some (word tk.tid)
  | 0xCC1 => some (word tk.lcore)
  | 0xCC2 => some (word (s.coresOfTask tk.part tk.launch))
  | 0xCC3 => some (word (c / 16))
  | 0xCC4 => some (word (c % 16))
  | 0xCC5 => some (word s.turn.2)
  | 0xCC6 => some (word tk.launch)
  | 0xCC7 => some tk.idx
  | 0xCC8 => some tk.icnt
  | 0x5C0 => some l.silob
  | 0x5C1 => some l.silol
  | 0x5C2 => some k.kxrq
  | 0x5C3 => some (boolW k.kxrsv)
  | 0xC00 => some (s.cycle c)
  | 0xC01 => some (s.timeAt (c / 16))
  | 0x105 => some k.stvec
  | 0x140 => some t.sscratch
  | 0x180 => some k.satp
  | _ => none

/-- The CSRs of S mode (01 R26, R27). -/
def csrPrivileged (n : Nat) : Bool := n ∈ [0x5C0, 0x5C1, 0x5C2, 0x5C3, 0x105, 0x140, 0x180]

/-- The read-only CSRs. -/
def csrReadOnly (n : Nat) : Bool := n / 1024 == 3 || (0x808 ≤ n && n ≤ 0x80D) || n == 0x813

/-- `v` between `lo` and `hi`. -/
def clampW (lo hi : Nat) (v : Word) : Word := if v.toNat < lo then word lo else if hi < v.toNat then word hi else v

/-- The core holds a record or context block of a task other than `task` (01 R28). -/
def State.siloInUse (s : State) (lc task : Nat) : Bool :=
  (s.lcore lc).recs.any (fun r => r.task != task) ||
  (s.lcore lc).blocks.any (fun b => some b.1 != (s.task task).ctx && some b.1 != (s.task task).sctx)

/-- Change the core CSRs of logical core `lc`. -/
def State.modCsrs (s : State) (lc : Nat) (f : CoreCsrs → CoreCsrs) : State :=
  match (s.lcore lc).own with
  | some k => s.modLcore lc (fun l => { l with own := some (f k) })
  | none => s.modPcore (s.physOf lc) (fun p => { p with csrs := f p.csrs })

/-- Write a CSR; the answer is the state and the thread (01 R26 to R28). -/
def State.csrWrite (s : State) (t : Thread) (n : Nat) (v : Word) : State × Thread :=
  let lc := (s.task t.task).lc
  match n with
  | 0x800 => (s, t.setLm 0 v)
  | 0x801 => (s, t.setLm 1 v)
  | 0x802 => (s, t.setLm 2 v)
  | 0x803 => (s, t.setLm 3 v)
  | 0x804 => (s, if field v 0 3 ≤ 4 then { t with frm := bits v 0 3 } else t)
  | 0x805 => (s, { t with fflags := bits v 0 5 })
  | 0x806 => (s, { t with vl := clampVl v.toNat })
  | 0x807 => (s, { t with vstart := bits v 0 7 })
  | 0x80E => (s, { t with lsel := bits v 0 2 })
  | 0x810 => (s.modTask t.task (fun k => { k with fmt := v }), t)
  | 0x811 => (s.modTask t.task (fun k => { k with scl := v }), t)
  | 0x812 => (s.modTask t.task (fun k => { k with sscl := v }), t)
  | 0x5C0 => (if s.siloInUse lc t.task then s else s.modLcore lc (fun l => { l with silob := v &&& ~~~0xFFF#64 }), t)
  | 0x5C1 => (if s.siloInUse lc t.task then s
              else s.modLcore lc (fun l => { l with silol := clampW 0x10000 0x1000000 (v &&& ~~~0xFFFF#64) }), t)
  | 0x5C2 => (s.modCsrs lc (fun k => { k with kxrq := clampW 64 65536 v }), t)
  | 0x5C3 => (s.modCsrs lc (fun k => { k with kxrsv := v.getLsbD 0 }), t)
  | 0x105 => (s.modCsrs lc (fun k => { k with stvec := v &&& ~~~3#64 }), t)
  | 0x140 => (s, { t with sscratch := v })
  | 0x180 => (if field v 60 4 = 0 ∨ field v 60 4 = 14 then s.modCsrs lc (fun k => { k with satp := v }) else s, t)
  | _ => (s, t)

/-- The value a Zicsr form writes. -/
inductive CsrOp where
  | write | set | clear
deriving DecidableEq, Repr

/-- The new value of a CSR. -/
def CsrOp.apply (op : CsrOp) (old v : Word) : Word :=
  match op with
  | .write => v
  | .set => old ||| v
  | .clear => old &&& ~~~v

/-- A CSR access (01 R26): cause 2 for an unlisted CSR, an S CSR in U mode, or a write to a read-only CSR; else rd receives the old
value and, when `writes`, the CSR the new one. -/
def State.csr (s : State) (t : Thread) (i : Instr) (n : BitVec 12) (rd : Reg) (op : CsrOp) (writes : Bool) (v : Word) : State :=
  match s.csrRead t n.toNat with
  | none => s.illegal t i
  | some old =>
    if (csrPrivileged n.toNat && !t.smode) || (writes && csrReadOnly n.toNat) then s.illegal t i
    else
      let r := if writes then s.csrWrite t n.toNat (op.apply old v) else (s, t)
      r.1.retire (r.2.setX rd old)

/-- The CSR of a Zicsr instruction, and whether it writes it. -/
def csrUse : Instr → Option (BitVec 12 × Bool)
  | .csrrw n _ _ => some (n, true)
  | .csrrs n rs1 _ => some (n, rs1 != 0)
  | .csrrc n rs1 _ => some (n, rs1 != 0)
  | .csrrwi n _ _ => some (n, true)
  | .csrrsi n uimm _ => some (n, uimm != 0)
  | .csrrci n uimm _ => some (n, uimm != 0)
  | _ => none

/-- The S instructions (04 R89). -/
def isSInstr : Instr → Bool
  | .tlbInv _ _ | .mbBind _ _ | .mbUnbind _ | .contResume _ | .contSkip _ | .contKill _ | .contMove _ _ => true
  | _ => false

/-- The thread whose turn it is may not issue the instruction: an S instruction or a CSR rule raises cause 2 at the decode (04 R93, 15 R306). -/
def State.illegalNow (s : State) (i : Instr) : Bool :=
  match s.cur with
  | none => false
  | some t =>
    (isSInstr i && !t.smode) ||
    (match csrUse i with
     | none => false
     | some (n, writes) => (s.csrRead t n.toNat).isNone || (csrPrivileged n.toNat && !t.smode) || (writes && csrReadOnly n.toNat))

/-- CSRRW: it always writes. -/
def execCsrrw (csr : BitVec 12) (rs1 rd : Reg) (s : State) : Outcome :=
  .next (s.issue (fun t => s.csr t (.csrrw csr rs1 rd) csr rd .write true (t.getX rs1)))

/-- CSRRS: with rs1 = x0 it does not write. -/
def execCsrrs (csr : BitVec 12) (rs1 rd : Reg) (s : State) : Outcome :=
  .next (s.issue (fun t => s.csr t (.csrrs csr rs1 rd) csr rd .set (rs1 != 0) (t.getX rs1)))

/-- CSRRC: with rs1 = x0 it does not write. -/
def execCsrrc (csr : BitVec 12) (rs1 rd : Reg) (s : State) : Outcome :=
  .next (s.issue (fun t => s.csr t (.csrrc csr rs1 rd) csr rd .clear (rs1 != 0) (t.getX rs1)))

/-- CSRRWI -/
def execCsrrwi (csr : BitVec 12) (uimm rd : Reg) (s : State) : Outcome :=
  .next (s.issue (fun t => s.csr t (.csrrwi csr uimm rd) csr rd .write true (uimm.setWidth 64)))

/-- CSRRSI: with a zero immediate it does not write. -/
def execCsrrsi (csr : BitVec 12) (uimm rd : Reg) (s : State) : Outcome :=
  .next (s.issue (fun t => s.csr t (.csrrsi csr uimm rd) csr rd .set (uimm != 0) (uimm.setWidth 64)))

/-- CSRRCI: with a zero immediate it does not write. -/
def execCsrrci (csr : BitVec 12) (uimm rd : Reg) (s : State) : Outcome :=
  .next (s.issue (fun t => s.csr t (.csrrci csr uimm rd) csr rd .clear (uimm != 0) (uimm.setWidth 64)))

end Sys2Proof.Machine
end

