-- ==== Sys2Proof/Machine/Debug.lean ====
section
/-!
DEFINITION. The debug module of a core: halting, resuming and the abstract commands that read and write the thread of a slot
(21 R366 to R369; register layouts of RISC-V Debug 1.0, log 16).
-/
namespace Sys2Proof.Machine

/-- DEBUG_HALT_REQUEST: the eight slots halt; ignored by a core that is being vacated (21 R366, R369). -/
def execDebugHaltRequest (core : Nat) (s : State) : Outcome :=
  .next (if (s.pcore core).halted ∨ (s.pcore core).stopped then s else s.haltAt core 3)

/-- A halted core goes on (21 R366, R370). -/
def State.resumeCore (s : State) (c : Nat) : State :=
  if !(s.pcore c).halted then s.modPcore c (fun p => { p with resumeAck := true })
  else ((s.modPcore c (fun p => { p with halted := false, resumeAck := true, stepping := p.dstep })).emit c 4 [(s.pcore c).dcause, (s.cycle c).toNat]).wakeCore c

/-- DEBUG_RESUME_REQUEST -/
def execDebugResumeRequest (core : Nat) (s : State) : Outcome := .next (s.resumeCore core)

/-- A trigger that matches nothing. -/
def Trigger.off : Trigger := { execute := false, load := false, store := false, user := false, super := false, addr := 0 }

/-- The value of a bit in a register. -/
def bitAt (b : Bool) (i : Nat) : Nat := if b then 2 ^ i else 0

/-- tdata1 of a trigger of type mcontrol6 that enters debug mode. -/
def Trigger.control (g : Trigger) : Word :=
  word (6 * 2 ^ 60 + 2 ^ 59 + 2 ^ 12 + bitAt g.super 4 + bitAt g.user 3 + bitAt g.execute 2 + bitAt g.store 1 + bitAt g.load 0)

/-- dcsr of a thread; ebreaku, ebreaks and step are one for the harts of the core (log 16). -/
def PCore.dcsr (p : PCore) (t : Thread) : Word :=
  word (4 * 2 ^ 28 + bitAt p.ebreaks 13 + bitAt p.ebreaku 12 + p.dcause % 8 * 2 ^ 6 + bitAt p.dstep 2 + bitAt t.smode 0)

/-- The selected trigger. -/
def PCore.trigger (p : PCore) : Trigger := p.triggers.get Trigger.off p.tselect

/-- A register of the thread of a slot by its number (21 R366). -/
def State.debugRead (s : State) (core slot : Nat) (t : Thread) (r : Nat) : Option Word :=
  let p := s.pcore core
  if 0x1000 ≤ r ∧ r < 0x1020 then some (t.getX (BitVec.ofNat 5 (r - 0x1000)))
  else if 0xC000 ≤ r ∧ r < 0xC400 then some (bits (t.getV (BitVec.ofNat 5 ((r - 0xC000) / 32))) (r % 32 * 32) 64 &&& 0xFFFFFFFF)
  else if 0xC400 ≤ r ∧ r < 0xC410 then some (bits (t.getP ((r - 0xC400) / 4)) (r % 4 * 32) 64 &&& 0xFFFFFFFF)
  else match r with
  | 0x7A0 => some (word p.tselect)
  | 0x7A1 => some p.trigger.control
  | 0x7A2 => some p.trigger.addr
  | 0x7B0 => some (p.dcsr t)
  | 0x7B1 => some t.pc
  | n => State.csrRead { s with turn := (core, slot) } t n

/-- 32 bits of a register replaced. -/
def replaced {n : Nat} (old : BitVec n) (at_ : Nat) (v : Word) : BitVec n :=
  (old &&& ~~~(BitVec.ofNat n 0xFFFFFFFF <<< at_)) ||| (BitVec.ofNat n (field v 0 32) <<< at_)

/-- Write a register of the thread of a slot; none where the number names no register that can be written. -/
def State.debugWrite (s : State) (core slot : Nat) (t : Thread) (r : Nat) (v : Word) : Option State :=
  let trig := fun (f : Trigger → Trigger) => some (s.modPcore core (fun p => { p with triggers := p.triggers.set p.tselect (f p.trigger) }))
  if 0x1000 ≤ r ∧ r < 0x1020 then some (s.putThread core slot (t.setX (BitVec.ofNat 5 (r - 0x1000)) v))
  else if 0xC000 ≤ r ∧ r < 0xC400 then
    let n := BitVec.ofNat 5 ((r - 0xC000) / 32)
    some (s.putThread core slot (t.setV n (replaced (t.getV n) (r % 32 * 32) v)))
  else if 0xC400 ≤ r ∧ r < 0xC410 then
    let n := (r - 0xC400) / 4
    some (s.putThread core slot (t.setP n (replaced (t.getP n) (r % 4 * 32) v)))
  else match r with
  | 0x7A0 => some (s.modPcore core (fun p => { p with tselect := field v 0 2 }))
  | 0x7A1 => trig (fun g => { g with super := v.getLsbD 4, user := v.getLsbD 3, execute := v.getLsbD 2, store := v.getLsbD 1,
                                     load := v.getLsbD 0 })
  | 0x7A2 => trig (fun g => { g with addr := v })
  | 0x7B0 => some (s.modPcore core (fun p => { p with ebreaks := v.getLsbD 13, ebreaku := v.getLsbD 12, dstep := v.getLsbD 2 }))
  | 0x7B1 => some (s.putThread core slot { t with pc := v &&& ~~~3#64 })
  | n =>
    let s1 : State := { s with turn := (core, slot) }
    if (s1.csrRead t n).isNone ∨ csrReadOnly n then none
    else
      let x := s1.csrWrite t n v
      some { x.1.putThread core slot x.2 with turn := s.turn }

/-- DEBUG_ABSTRACT_COMMAND (21 R366): a slot without a thread is unavailable. -/
def execDebugAbstractCommand (core slot reg : Nat) (write : Option Word) (s : State) : Outcome :=
  let err := fun (n : Nat) => s.modPcore core (fun p => { p with dmErr := n })
  .next (match (s.slot core slot).thread with
    | none => err 4
    | some t =>
      match write with
      | some v => (s.debugWrite core slot t reg v).getD (err 3)
      | none => match s.debugRead core slot t reg with
        | some v => s.modPcore core (fun p => { p with dmData := v })
        | none => err 3)

end Sys2Proof.Machine
end

