-- ==== Sys2Proof/Machine/Firmware.lean ====
section
/-!
DEFINITION. The firmware mailbox: how a command completes, identification, features, attestation, host queues, tables, the log, the
stall map, power, and what the host reads in BAR 0 and BAR 2 (22 R378 to R392, 14 R274, R297, 21 R371).
-/
namespace Sys2Proof.Machine

/-! ## Running a command (22 R379, R380, R382) -/

/-- A command of function `fn` completes: RSP, then MBSTAT with DONE; the next command of the command processor is due. -/
def State.finish (s : State) (fn status : Nat) (rsp : List Word) : State :=
  let s1 := s.modDie fn (fun d => { d with
    rsp := rsp.zipIdx.foldl (fun (t : Tbl Word) e => t.put 0 e.2 e.1) d.rsp
    stat := word (d.cmdSeq % 2 ^ 32 * 2 ^ 32 + status * 2 ^ 8 + 2) })
  let s2 := s1.modFw (fun f => { f with pending := f.pending.filter (· != fn), ongoing := f.ongoing.filter (· != fn) })
  match s.fw.pending.head?, s2.fw.pending with
  | some h, n :: _ => if h = fn then s2.pushOnce (commandOf (s2.die n).cmd) else s2
  | _, _ => s2

/-- Run the command at the head of the command processor: `free` says that it runs before features are negotiated, `feature` the feature it
belongs to; once feature 0 has not been accepted, every command returns 3 (22 R382, R383). `f` has the function and its request doublewords. -/
def State.command (s : State) (free : Bool) (feature : Nat) (f : Nat → (Nat → Word) → State) : State :=
  match s.fw.pending with
  | [] => s
  | fn :: _ =>
    if (s.fw.negotiated && !s.fw.features.getLsbD 0) || (!free && !(s.fw.negotiated && s.fw.features.getLsbD feature)) then s.finish fn 3 []
    else f fn (fun i => (s.die fn).args.get 0 i)

/-- A buffer of `n` bytes at a host bus address (22 R382). -/
def hostOk (a : Word) (n : Nat) : Bool := a.toNat % 64 == 0 && a.toNat + n ≤ 2 ^ 48

/-- The PA of a host bus address (11 R243). -/
abbrev hostPa (a : Word) : Nat := 2 * 2 ^ 48 + a.toNat

/-- Write bytes to host memory, 64 at a time. -/
def State.hostPut (s : State) (a : Word) (b : List Byte) : State :=
  (List.range ((b.length + 63) / 64)).foldl (fun st i =>
    st.applyWrite (((b.drop (64 * i)).take 64).mapIdx (fun j x => (hostPa a + 64 * i + j, x))) none true) s

/-- Read bytes from host memory. -/
def State.hostGet (s : State) (a : Word) (n : Nat) : List Byte := s.bytesAt (hostPa a) n

/-! ## Identification, features, attestation -/

/-- The grade of the part, by the nodes that were not harvested at test (00 R1). -/
def grade : Nat := ((List.range 256).filter (fun n => !(Config.harvestMap n).getLsbD 0)).length

/-- The nodes of the package in service; none after a failed bring-up (17 R342). -/
def State.inService (s : State) : Nat := if s.fw.failed then 0 else s.fw.service.length

/-- B0 to B3 of IDENTIFY. -/
def State.identity (s : State) : List Word := [word grade, word s.inService, Config.romVersion, 1]

/-- IDENTIFY -/
def execIdentify (s : State) : Outcome := .next (s.command true 0 (fun fn _ => s.finish fn 0 s.identity))

/-- The features that this ROM offers (22 R383). -/
abbrev offered : Nat := 5

/-- The features accepted of a requested vector. -/
def acceptedOf (req : Nat → Word) : BitVec 128 :=
  (List.range offered).foldl (fun (f : BitVec 128) i => if (req 0).getLsbD (2 * i + 1) then f ||| (1#128 <<< i) else f) 0

/-- NEGOTIATE_FEATURES -/
def execNegotiateFeatures (s : State) : Outcome :=
  .next (s.command true 0 (fun fn a =>
    if s.fw.negotiated ∧ !s.parts.isEmpty then s.finish fn 5 []
    else
      let acc := acceptedOf a
      let b0 := word ((List.range offered).map (fun i => 2 ^ (2 * i) + (if acc.getLsbD i then 2 ^ (2 * i + 1) else 0))).sum
      (s.modFw (fun f => { f with features := acc, negotiated := true })).finish fn 0 [b0, 0, 0, 0]))

/-- The size of a report. -/
abbrev reportSize : Nat := 3456

/-- Bytes 0 to 319 of a report, which its signature covers (22 R385). -/
def State.reportHead (s : State) (a : Nat → Word) : List Byte :=
  (List.range 4).flatMap (fun i => toBytes 8 (a i).toNat) ++ s.identity.flatMap (fun w => toBytes 8 w.toNat) ++
  [s.fw.mrom, s.fw.mcfg, s.fw.mharv, s.fw.mpart].flatMap (fun m => toBytes 64 m.toNat)

/-- The signature of a report, of at most 1,280 bytes: Falcon-1024 over its head under the key that the fuses give (22 R385, log 19). -/
def State.signature (s : State) (a : Nat → Word) : List Byte := (Config.falconSign Config.fuseKey (s.reportHead a) s.free).take 1280

/-- The report (22 R385). -/
def State.report (s : State) (a : Nat → Word) : List Byte :=
  let sig := s.signature a
  s.reportHead a ++ toBytes 8 sig.length ++ sig ++ List.replicate (1280 - sig.length) 0 ++ (List.range 1793).map Config.publicKey ++
    List.replicate 55 0

/-- ATTEST -/
def execAttest (s : State) : Outcome :=
  .next (s.command true 0 (fun fn a =>
    if !hostOk (a 4) reportSize then s.finish fn 2 []
    else State.finish (s.hostPut (a 4) (s.report a)).drew fn 0 []))

/-! ## Queues (14 R274, R297, 22 R382) -/

/-- Queue `q` has been created and not destroyed. -/
def State.queueLives (s : State) (q : Nat) : Bool := match s.queues.find q with | some h => h.st != .destroyed | none => false

/-- Queue `q` is one of function `fn`'s and has not been destroyed (22 R380). -/
def State.ownsQueue (s : State) (fn q : Nat) : Bool := s.queueLives q && (s.queue q).fn == fn

/-- CREATE_QUEUE -/
def execCreateQueue (s : State) : Outcome :=
  .next (s.command false 0 (fun fn a =>
    let q := field (a 0) 0 16
    let p := field (a 0) 16 16
    let home := field (a 0) 32 8
    let log2n := field (a 0) 43 4
    let ring := (a 1).toNat
    let size := 2 ^ log2n * 128
    if p = 0 ∨ log2n < 6 ∨ 12 < log2n ∨ field (a 0) 48 16 ≠ 0 ∨ ring % 4096 ≠ 0 ∨ ring < 2 ^ 28 ∨ 2 ^ 30 < ring + size then s.finish fn 2 []
    else if (s.parts.find p).isNone ∨ !(s.partOf p).nodes.contains home ∨ s.queueLives q ∨
        s.queues.any (fun e => e.2.fn == fn && e.2.st != .destroyed && overlaps (ring, size) (e.2.ring, e.2.size * 128)) then
      s.finish fn 5 []
    else
      (s.setQueue q { HQueue.blank with fn := fn, part := p, home := home, prio := field (a 0) 40 3, log2n := log2n, ring := ring,
                                        sq := (a 0).getLsbD 47 }).finish fn 0 []))

/-- A watchdog step of a queue. -/
def isWatchdog (q : Nat) : Instr → Bool
  | .watchdogT1 x => x == q
  | .watchdogT2 x => x == q
  | .watchdogT3 x => x == q
  | _ => false

/-- The tasks of a queue are killed as T2 kills them, and the queue is destroyed; what is still resident dies at its next boundary and
belongs to no queue any more. -/
def State.destroyQueue (s : State) (q : Nat) : State :=
  let s1 := (s.modQueue q (fun h => { h with st := .killed })).killTasks (s.ofOrigin q) (fun b => b.origin == some q)
  let s2 : State := { s1.drop (isWatchdog q) with
    tasks := s1.tasks.map (fun (e : Nat × Task) => if e.2.origin == some q then (e.1, { e.2 with origin := none }) else e) }
  s2.modQueue q (fun h => { h with st := .destroyed, port := none })

/-- DESTROY_QUEUE -/
def execDestroyQueue (s : State) : Outcome :=
  .next (s.command false 0 (fun fn a =>
    let q := (a 0).toNat
    if 65535 < q then s.finish fn 2 []
    else if !s.ownsQueue fn q then s.finish fn 5 []
    else (s.destroyQueue q).finish fn 0 []))

/-- SET_QUEUE_PRIORITY -/
def execSetQueuePriority (s : State) : Outcome :=
  .next (s.command false 0 (fun fn a =>
    let q := (a 0).toNat
    if 65535 < q ∨ 7 < (a 1).toNat then s.finish fn 2 []
    else if !s.ownsQueue fn q then s.finish fn 5 []
    else (s.modQueue q (fun h => { h with prio := (a 1).toNat })).finish fn 0 []))

/-- SET_AGEING -/
def execSetAgeing (s : State) : Outcome :=
  .next (s.command false 0 (fun fn a =>
    let i := (a 0).toNat
    if i = 0 ∨ 65535 < i then s.finish fn 2 [] else (s.modDie fn (fun d => { d with ageing := i })).finish fn 0 []))

/-- Ascending where not 0. -/
def ascending (l : List Nat) : Bool := (l.filter (· != 0)).Pairwise (· < ·)

/-- The cores that hold ready records of the origin `q` fill slots again. -/
def State.wakeOrigin (s : State) (q : Nat) : State :=
  (s.lcores.filter (fun e => e.2.recs.any (fun r => s.ofOrigin q r.task))).foldl (fun (st : State) e => st.wakeCore e.2.phys) s

/-- SET_WATCHDOG (14 R297): limits in ms; a limit of 0 disables its step, and with T1 what that step still holds back. -/
def execSetWatchdog (s : State) : Outcome :=
  .next (s.command false 0 (fun fn a =>
    let q := (a 0).toNat
    let t := fun (i : Nat) => (a i).toNat
    if 65535 < q ∨ !ascending [t 1, t 2, t 3] then s.finish fn 2 []
    else if !s.ownsQueue fn q then s.finish fn 5 []
    else
      let s1 := s.modQueue q (fun h => { h with t1 := 1000 * t 1, t2 := 1000 * t 2, t3 := 1000 * t 3 })
      let s2 := if t 1 = 0 then
          ((s1.drop (isWatchdog q)).modQueue q (fun h => { h with aboveT1 := false })).wakeOrigin q
        else if s1.liveOf q ≠ 0 ∧ !(s1.agenda.any (isWatchdog q)) then
          if !(s1.queue q).aboveT1 then s1.push (.watchdogT1 q)
          else if (s1.queue q).st = .killed then s1.push (.watchdogT3 q)
          else s1.push (.watchdogT2 q)
        else s1
      let s3 := if t 2 = 0 then s2.drop (fun i => i == .watchdogT2 q || i == .watchdogT3 q)
        else if t 3 = 0 then s2.drop (· == .watchdogT3 q) else s2
      s3.finish fn 0 []))

/-! ## Launches -/

/-- KILL_LAUNCH -/
def execKillLaunch (s : State) : Outcome :=
  .next (s.command false 0 (fun fn a =>
    let p := (a 0).toNat
    let l := (a 1).toNat
    if 65535 < p ∨ p = 0 ∨ 65535 < l ∨ l = 0 then s.finish fn 2 []
    else if !s.tasks.any (fun e => e.2.part == p && e.2.launch == l) then s.finish fn 5 []
    else (s.killTasks (fun k => (s.task k).part == p && (s.task k).launch == l) (fun _ => false)).finish fn 0 []))

/-! ## Tables (17 R334, R335, 19 R360) -/

/-- READ_HARVEST_MAP -/
def execReadHarvestMap (s : State) : Outcome :=
  .next (s.command false 0 (fun fn a =>
    if !hostOk (a 0) 2048 then s.finish fn 2 [] else (s.hostPut (a 0) s.harvestMap).finish fn 0 []))

/-- An entry of WRITE_NST: node, table, index and word. -/
abbrev TableEnt := Nat × Nat × Nat × BitVec 32

/-- The entries in a host buffer. -/
def State.tableEnts (s : State) (a : Word) (n : Nat) : List (BitVec 64) :=
  (List.range n).map (fun i => word (ofBytes (s.hostGet (a + word (8 * i)) 8)))

/-- An entry with its fields in range and its reserved bits 0. -/
def entFieldsOk (w : BitVec 64) : Bool :=
  field w 24 8 == 0 && (match field w 8 8 with
    | 0 => field w 42 22 == 0
    | 1 => field w 16 8 < 64 && field w 41 23 == 0 && field w 38 2 < 3 && field w 32 6 < 48
    | _ => false)

/-- Put an entry into its table. -/
def State.putEnt (s : State) (w : BitVec 64) : State :=
  s.modPnode (field w 0 8) (fun p =>
    if field w 8 8 = 0 then { p with nst := p.nst.put 0 (field w 16 8) (bits w 32 32) }
    else { p with egress := p.egress.put 0 (field w 16 8) (bits w 32 32) })

/-- The relay entries of every table keep the relay rules of 17 R334. -/
def State.relaysOk (s : State) : Bool :=
  s.pnodes.all (fun e => e.2.nst.all (fun x => field x.2 0 2 != 2 || s.entryOk e.1 x.1))

/-- WRITE_NST: the whole set or nothing. -/
def execWriteNst (s : State) : Outcome :=
  .next (s.command false 0 (fun fn a =>
    let n := (a 1).toNat
    let l := s.tableEnts (a 0) n
    if !hostOk (a 0) (8 * n) ∨ !l.all entFieldsOk then s.finish fn 2 []
    else
      let s1 := l.foldl State.putEnt s
      if l.all (fun w => field w 8 8 != 0 || s1.entryOk (field w 0 8) (field w 16 8)) && s1.relaysOk then
        s1.measureConfig.finish fn 0 []
      else s.finish fn 5 []))

/-- WRITE_TREE (19 R360): A0 holds the node in [7:0] and t in [11:8] (log 20). -/
def execWriteTree (s : State) : Outcome :=
  .next (s.command false 0 (fun fn a =>
    let node := field (a 0) 0 8
    let t := field (a 0) 8 4
    if field (a 0) 12 52 ≠ 0 ∨ 4 < field (a 1) 16 3 ∨ field (a 1) 19 5 ≠ 0 ∨ field (a 2) 16 48 ≠ 0 ∨ field (a 2) 0 16 = 0 then
      s.finish fn 2 []
    else
      let s1 := s.modPnode node (fun p => { p with trees := (p.trees.set (2 * t) (a 1)).set (2 * t + 1) (a 2) })
      s1.measureConfig.finish fn 0 []))

/-- LOAD_PORT_FIRMWARE (19 R347): the port processor takes no block until every collective it has started is complete; then the image is
measured, and its FIFO goes on. -/
def execLoadPortFirmware (s : State) : Outcome :=
  .next (s.command false 0 (fun fn a =>
    let pp := (a 0).toNat
    let n := (a 2).toNat
    if 143 < pp ∨ 2 ^ 20 < n ∨ !hostOk (a 1) n then s.finish fn 2 []
    else if s.colls.any (fun c => c.full && c.posts.any (fun e => e.2.id / 2 ^ 24 == pp)) then
      (s.modPp pp (fun x => { x with loading := true })).putBack .loadPortFirmware
    else
      let s1 := s.modFw (fun f => { f with mpart := extend f.mpart (Shake.digest (s.hostGet (a 1) n)) })
      let s2 := s1.modPp pp (fun x => { x with loading := false })
      (s2.admitPosts pp).finish fn 0 []))

/-! ## The log (22 R386) -/

/-- The bytes of a log entry: the detail bytes are a free value, but for the address of a silo fault, which is taken to stand first among them
(05 R117, log 64). -/
def LogEnt.bytes (e : LogEnt) : List Byte :=
  toBytes 8 e.time ++ [BitVec.ofNat 8 e.kind, BitVec.ofNat 8 e.node] ++ (match e.addr with
    | none => toBytes 22 (Config.freeDigest e.detail).toNat
    | some a => toBytes 8 a.toNat ++ toBytes 14 (Config.freeDigest e.detail).toNat)

/-- READ_LOG -/
def execReadLog (s : State) : Outcome :=
  .next (s.command true 0 (fun fn a =>
    let l := s.fw.log.take (a 1).toNat
    if !hostOk (a 0) (32 * l.length) then s.finish fn 2 []
    else ((s.hostPut (a 0) (l.flatMap LogEnt.bytes)).modFw (fun f => { f with log := f.log.drop l.length })).finish fn 0 [word l.length]))

/-! ## The stall map (21 R371) -/

/-- The bytes of a sample. -/
abbrev sampleSize : Nat := 65600

/-- SET_STALL_MAP: the samples start over; the tables that the base VA is read through, which the spec does not name, are a free value (log 20). -/
def execSetStallMap (s : State) : Outcome :=
  .next (s.command false 2 (fun fn a =>
    if a 1 = 0 ∨ a 2 = 0 ∨ 65535 < (a 2).toNat then s.finish fn 2 []
    else
      let s1 := s.modFw (fun f => { f with
        stallBase := a 0, stallRing := (a 1).toNat, stallEvery := (a 2).toNat, stallNum := 0, stallSatp := s.freeW })
      (s1.drew.pushOnce .stallMapSample).finish fn 0 []))

/-- A direction of a node leads to a port die or a host die (17 R333). -/
def edgePort (n dir : Nat) : Bool :=
  let x := n % 16
  let y := n / 16
  match dir with
  | 0 => y == 0 && 2 ≤ x && x ≤ 13
  | 1 => x == 15
  | 2 => y == 15 && 2 ≤ x && x ≤ 13
  | _ => x == 0 && (y ≤ 4 || y == 11 || 12 ≤ y)

/-- The counters of a channel count: not of a tied-off or failed link, nor of a HARVESTED node. -/
def State.counts (s : State) (n dir net : Nat) : Bool :=
  (s.pnode n).st != .harvested &&
    (match neighbour n dir with | some _ => s.linkLive n net dir | none => edgePort n dir)

/-- The counters of a sample. What a channel sends and what holds it back in an interval hangs on time, which the model does not keep (log 4): each
counter that counts is a free value. -/
def State.sampleCounters (s : State) : List Byte :=
  (List.range 8192).flatMap (fun i =>
    let k := i % 32
    toBytes 8 (if s.counts (i / 32) (k / 8) (k / 4 % 2) then (Config.freeWord (s.free + i)).toNat else 0))

/-- STALL_MAP_SAMPLE: the counters, then the word at +0, through the captured tables (log 20). -/
def execStallMapSample (s : State) : Outcome :=
  .next (if s.fw.stallRing = 0 ∨ !s.fw.features.getLsbD 2 then s
    else
      let at_ := s.fw.stallBase + word (s.fw.stallNum % s.fw.stallRing * sampleSize)
      let body := toBytes 8 (s.timeAt 64).toNat ++ List.replicate 48 0 ++ s.sampleCounters
      let s1 := State.fwPut s.fw.stallSatp sampleSize s (at_ + 8) body
      let s2 := State.fwPut s.fw.stallSatp 8 s1 at_ (toBytes 8 s.fw.stallNum)
      { s2.modFw (fun f => { f with stallNum := f.stallNum + 1 }) with free := s.free + 8192 }.push .stallMapSample)

/-! ## Power (22 R387 to R391) -/

/-- The power regions. -/
abbrev regions : Nat := 32

/-- A region draws at most 1,000 A (22 R387). -/
abbrev maxAmps : Nat := 1000

/-- The sixteenths of rotations that region `r` has lost by rotation `k`. -/
def State.lostSixteenths (s : State) (r k : Nat) : Nat := s.fw.lost.get 0 r + (k - s.fw.since.get 0 r) * s.fw.steps.get 0 r

/-- A region's step changes from the next rotation on, which the log records; the node named is a free value, and so is the region's measured current. -/
def State.setStep (s : State) (r v : Nat) : State :=
  let k := s.clock / 8 + 1
  let s1 := s.drew.modFw (fun f => { f with
    steps := f.steps.put 0 r v, amps := f.amps.put 0 r (s.freeN / 256 % (maxAmps + 1)),
    lost := f.lost.put 0 r (s.lostSixteenths r k), since := f.since.put 0 r k })
  s1.logEvent 6 (s.freeN % 256)

/-- A region's step rises by 1, to at most 8 (22 R389). -/
def State.stepUp (s : State) (r : Nat) : State :=
  let v := s.fw.steps.get 0 r
  if v < 8 then s.setStep r (v + 1) else s

/-- THROTTLE_UP -/
def execThrottleUp (region : Nat) (s : State) : Outcome := .next (if region < regions then s.stepUp region else s)

/-- THROTTLE_DOWN -/
def execThrottleDown (region : Nat) (s : State) : Outcome :=
  .next (if region < regions ∧ 0 < s.fw.steps.get 0 region then s.setStep region (s.fw.steps.get 0 region - 1) else s)

/-- PACKAGE_POWER_OVER (22 R390) -/
def execPackagePowerOver (s : State) : Outcome := .next ((List.range regions).foldl State.stepUp s)

/-- SET_POWER_CAP -/
def execSetPowerCap (s : State) : Outcome :=
  .next (s.command false 0 (fun fn a =>
    let w := (a 0).toNat
    let r := (a 1).toNat
    if w < 5000 ∨ 25000 < w ∨ r < 200 ∨ 1000 < r then s.finish fn 2 []
    else (s.modFw (fun f => { f with pkgCap := w, regCap := r })).finish fn 0 []))

/-- UNKNOWN_COMMAND -/
def execUnknownCommand (s : State) : Outcome := .next (s.command true 0 (fun fn _ => s.finish fn 1 []))

/-! ## What the host reads (22 R378 to R381, R391, 14 R274) -/

/-- AMPS of a region: the reset value until the first millisecond has given an average, then a free value of at most 1,000 A (22 R387, R391, log 39). -/
def State.ampsNow (s : State) (r : Nat) : Nat :=
  if s.clock < 850000 then s.fw.amps.get 0 r % (maxAmps + 1) else Config.freeNat (s.free + r) % (maxAmps + 1)

/-- PWRSTAT of a region (22 R391): RSENSE is the strap, and 0 once feature 4 has not been accepted (22 R383). -/
def State.powerStat (s : State) (r : Nat) : Word :=
  word (s.ampsNow r * 2 ^ 32 + s.fw.steps.get 0 r % 16 * 16 +
    (if Config.remoteSense && (!s.fw.negotiated || s.fw.features.getLsbD 4) then 1 else 0))

/-- A doubleword of BAR 0 as function `fn` reads it. -/
def State.bar0Read (s : State) (fn off : Nat) : Word :=
  let d := s.die fn
  if off = 0 then word (d.seq.toNat * 2 ^ 32 + d.opcode.toNat)
  else if off = 0x10 then d.stat
  else if 0x100 ≤ off ∧ off < 0x200 then d.req.get 0 ((off - 0x100) / 8)
  else if 0x200 ≤ off ∧ off < 0x300 then d.rsp.get 0 ((off - 0x200) / 8)
  else if off = 0x400 then d.apbase
  else if 0x800 ≤ off ∧ off < 0x900 then s.powerStat ((off - 0x800) / 8)
  else if 0x1000 ≤ off ∧ off < 0x1800 then s.nodeStateWord ((off - 0x1000) / 8)
  else if 0x1000000 ≤ off ∧ off < 0x2000000 ∧ (off - 0x1000000) % 0x10000 < 0x4000 then
    let r := off - 0x1000000
    let c := 16 * (r / 0x10000) + r % 0x10000 / 0x400
    (s.dmiRead c (r % 0x400 / 4 + 1) ++ s.dmiRead c (r % 0x400 / 4) : BitVec 64)
  else 0

/-- A doubleword of BAR 4 as function `fn` reads it: the value at the home; none where the read completes with Unsupported Request (22 R381). -/
def State.bar4Read (s : State) (fn off : Nat) : Option Word := (s.aperture fn off).map (fun pa => word (s.readN pa 8))

/-- The number of STATE of a queue. -/
def QState.num : QState → Nat
  | .active => 0 | .stopped => 1 | .killed => 2 | .destroyed => 3

/-- A doubleword of the control page of queue `q` as function `fn` reads it (14 R274). -/
def State.queuePage (s : State) (fn q off : Nat) : Word :=
  match s.queues.find q with
  | none => 0
  | some h =>
    if h.fn ≠ fn then 0
    else match off with
    | 0 => h.tail.setWidth 64
    | 8 => h.head.setWidth 64
    | 16 => word (h.home * 2 ^ 8 + (if h.sq then 128 else 0) + h.prio * 16 + h.log2n)
    | 24 => word h.ring
    | 32 => word (s.qLive q * 2 ^ 32 + s.eprio h * 2 ^ 8 + (if h.ovr then 4 else 0) + h.st.num)
    | _ => 0

end Sys2Proof.Machine
end

