-- ==== Sys2Proof/Machine/Partition.lean ====
section
/-!
DEFINITION. Partitions, spatial pre-emption and the warm reset of a node (15 R319 to R322, 17 R336 to R341, 22 R380, R382, R393).
-/
namespace Sys2Proof.Machine

/-! ## Creating a partition -/

/-- The nodes of a bitmap, ascending. -/
def bitmapNodes (a : Nat → Word) : List Nat := (List.range 256).filter (fun n => (a (n / 64)).getLsbD (n % 64))

/-- A run of `n` bytes at `pa` lies in region 0 or 1, or in region 1 alone. -/
def inHbm (pa : Word) (n : Nat) : Bool := regionOf pa.toNat == 1 && pa.toNat % 2 ^ 48 + n ≤ 2304 * 2 ^ 30

/-- The first id that no partition has, from `n` on; 0 where there is none. -/
def State.freePart (s : State) : Nat → Nat → Nat
  | 0, _ => 0
  | k + 1, n =>
    let id := if n = 0 ∨ 65535 < n then 1 else n
    if (s.parts.find id).isNone then id else s.freePart k (id + 1)

/-- The logical core `k`, quad and node of a new partition come to node `n` (01 R10, 05 R393, 08 R171); its guards start unresolved, as after a cold reset
(log 70). -/
def State.admitNode (s : State) (p : Nat) (silo : Word) (dir : Nat) (n k : Nat) : State :=
  let s1 := s.modPnode n (fun x => { x with st := .admitted, l2dir := dir })
  let s2 := s1.setLnode (p * 256 + k) (LNode.reset n)
  let s3 := (List.range 4).foldl (fun (st : State) q => st.setLquad (p * 1024 + 4 * k + q) (LQuad.reset (4 * n + q))) s2
  (List.range 16).foldl (fun (st : State) i =>
    ((st.setLcore (p * 4096 + 16 * k + i) { LCore.reset (16 * n + i) with silob := silo + word ((16 * k + i) * 2 ^ 21) }).modPcore
      (16 * n + i) (fun c => { c with csrs := { c.csrs with satp := 0 } })).wakeCore (16 * n + i)) s3

/-- The objects of the partitions in all. -/
def State.objects (s : State) (f : Part → Nat) : Nat := (s.parts.map (fun e => f e.2)).sum

/-- The physical quads that a PREEMPT vacates, and those of the node that stay. -/
def vacated (a : Nat → Word) : List Nat × List Nat :=
  let n := field (a 1) 0 8
  let qs := (List.range 4).map (fun q => (4 * n + q, (a 1).getLsbD (8 + q)))
  ((qs.filter (·.2)).map (·.1), (qs.filter (fun q => !q.2)).map (·.1))

/-- READY nodes that no PREEMPT under way still needs for a logical node that it moves, so that what a PREEMPT has begun succeeds (22 R380). -/
def State.readyLeft (s : State) : Nat :=
  ((List.range 256).filter (fun m => (s.pnode m).st == .ready)).length -
    (s.fw.ongoing.filter (fun fn => (s.die fn).cmd == 0x0B && (vacated (fun i => (s.die fn).args.get 0 i)).2.isEmpty)).length

/-- CREATE_PARTITION -/
def execCreatePartition (s : State) : Outcome :=
  .next (s.command false 0 (fun fn a =>
    let nodes := bitmapNodes a
    let pkg := field (a 4) 0 13
    let pod := field (a 4) 13 11
    let dir := field (a 4) 24 6
    let id := s.freePart 65535 (s.freeN % 65535 + 1)
    if nodes.isEmpty ∨ 4096 < pkg ∨ 1024 < pod ∨ 32 < dir ∨ field (a 4) 30 34 ≠ 0 ∨ !(regionOf (a 7).toNat == 0 || inHbm (a 7) 0) ∨
        (a 8).toNat % 2 ^ 21 ≠ 0 ∨ !inHbm (a 8) (nodes.length * 16 * 2 ^ 21) then s.finish fn 2 []
    else if s.fw.failed ∨ !nodes.all (fun n => (s.pnode n).st == .ready) ∨ s.readyLeft < nodes.length then s.finish fn 5 []
    else if 4096 < s.objects (·.pkgCount) + pkg ∨ 1024 < s.objects (·.podCount) + pod ∨ id = 0 then s.finish fn 4 []
    else
      let pt : Part := { Part.blank with nodes := nodes, pkgCount := pkg, podCount := pod, dir := dir, errRing := a 5, chain := a 6,
                                         standing := (a 7).toNat, silo := (a 8).toNat, errSatp := s.freeW }
      let s1 := s.drew.setPart id pt
      let s2 := nodes.zipIdx.foldl (fun (st : State) e => st.admitNode id (a 8) dir e.1 e.2) s1
      s2.measureConfig.measurePart.finish fn 0 [word id, word (16 * nodes.length), word pkg, word pod]))

/-- The physical quads of a node. -/
def quadsOf (n : Nat) : List Nat := (List.range 4).map (4 * n + ·)

/-! ## Vacating cores (15 R321, 21 R369) -/

/-- Step 1 and the marks of step 2: the core fills no slot, a debug halt is released, and each resident thread owes a forced yield. -/
def State.stopCore (s : State) (c : Nat) : State :=
  let s1 := s.modPcore c (fun p => { p with stopped := true, stealTry := none, stealPause := false })
  (if (s1.pcore c).halted then s1.resumeCore c else s1).modPcore c (fun p => { p with slots := p.slots.map (fun (e : Nat × Slot) => (e.1, { e.2 with
    thread := e.2.thread.map (fun (t : Thread) => if t.mark = .none then { t with mark := .yield } else t) })) })

/-- Held threads go whole into their held areas (05 R116). -/
def State.parkHeld (s : State) (c : Nat) : State :=
  (List.range 8).foldl (fun (st : State) i => match (st.slot c i).thread with
    | some t => if t.held then st.parkSlot c i else st
    | none => st) s

/-- The write-combining buffers of the threads that stand on a core that fills no slot any more drain (11 R241, R255). -/
def State.drainSlots (s : State) (c : Nat) : State :=
  (s.pcore c).slots.foldl (fun (st : State) e => match e.2.thread with
    | some t => if t.wc.isNone then st else (st.drainWc c t).putThread c e.1 { t with wc := none }
    | none => st) s

/-- Nothing of core `c` is under way: no thread, no credit, no store and no barrier message on its way. The slots of a core that the watchdog has fenced
do not count. -/
def State.coreDrained (s : State) (c : Nat) : Bool :=
  let p := s.pcore c
  (p.fenced || p.slots.all (fun e => e.2.thread.isNone && e.2.credit.isNone)) && p.sb.isEmpty &&
    !(s.pquad (c / 4)).path.any (fun e => e.core == c) && !s.barInFlight c

/-- No command and no copy of a logical quad has started without completing (step 3). -/
def State.quadDrained (s : State) (lq : Nat) : Bool :=
  (s.lquad lq).queue.all (fun c => c.st != .started) && (s.lquad lq).copies.all (fun c => !c.started)

/-- Steps 1 to 3 go on for physical quads; the answer says whether they are through. On a core that the watchdog has fenced no held header is kept (17
R338). -/
def State.vacate (s : State) (quads : List Nat) : State × Bool :=
  let cores := quads.flatMap (fun q => (List.range 4).map (fun i => 4 * q + i))
  let s1 := cores.foldl (fun (st : State) c =>
    let st1 := st.stopCore c
    if (st1.pcore c).fenced then st1.drainSlots c else st1.parkHeld c) s
  (s1, cores.all s1.coreDrained && quads.all (fun q => (s1.quadsOn q).all s1.quadDrained))

/-- Step 4: the pages of a core go back, and its pins end (09 R226, 11 R241). -/
def State.flushFrames (s : State) (c : Nat) : State :=
  (s.pcore c).frames.foldl (fun (st : State) f => st.evictFrame c f.1 f.2) s

/-- A task whose thread stands on a fenced core ends with the reset, and a held header there is freed (17 R338). -/
def State.clearFenced (s : State) (c : Nat) : State :=
  if !(s.pcore c).fenced then s
  else
    let ks := (s.pcore c).slots.filterMap (fun e => e.2.thread.map (·.task))
    let s1 := (s.hosted c).foldl (fun (st : State) lc => st.modLcore lc (fun l => { l with
      recs := l.recs.filter (fun r => !(r.heldSlot.isSome && ks.contains r.task)) })) (s.drainSlots c)
    (ks.foldl State.endTask s1).modPcore c (fun p => { p with slots := [] })

/-- The core fills slots again, and its logical quad's queues go on (15 R321 step 6). -/
def State.restart (s : State) (q : Nat) : State :=
  let s1 := (List.range 4).foldl (fun (st : State) i =>
    (st.modPcore (4 * q + i) (fun p => { p with stopped := false })).wakeCore (4 * q + i)) s
  (s1.quadsOn q).foldl (fun (st : State) lq => State.kickCopies lq 8 (st.kick lq)) s1

/-- The partition that a physical node belongs to; 0 for none. -/
def State.partOfNode (s : State) (n : Nat) : Nat := ((s.parts.find? (fun e => e.2.nodes.contains n)).map (·.1)).getD 0

/-- The partition that the PREEMPT or RESET_COMPUTE of a function names. -/
def State.namedPart (s : State) (fn : Nat) : Nat :=
  let d := s.die fn
  let a := d.args.get 0 0
  if d.cmd = 0x0D then s.partOfNode (field a 0 8) else a.toNat

/-- An earlier PREEMPT or RESET_COMPUTE that names partition `p` is under way (22 R380). -/
def State.partBusy (s : State) (p : Nat) : Bool := s.fw.ongoing.any (fun fn => s.namedPart fn == p)

/-- The command at the head of the command processor has opcode `op`. -/
def State.headIs (s : State) (op : Nat) : Bool := match s.fw.pending with | fn :: _ => (s.die fn).cmd == op | [] => false

/-- The command of `fn` goes on over time, and the command processor takes its next one (22 R380). -/
def State.detach (s : State) (fn : Nat) : State :=
  let s1 := s.modFw (fun f => { f with pending := f.pending.filter (· != fn), ongoing := f.ongoing ++ [fn] })
  match s1.fw.pending with
  | n :: _ => s1.pushOnce (commandOf (s1.die n).cmd)
  | [] => s1

/-! ## Pre-emption (15 R319 to R322) -/

/-- The caches and TLBs of a quad and its cores are emptied, but for the instruction lines that are pinned there (09 R225). -/
def State.emptyCaches (s : State) (q : Nat) : State :=
  let kept := fun (pins : List Nat) (l : Tbl Line) => l.filter (fun (e : Nat × Line) => pins.contains e.1)
  (List.range 4).foldl (fun (st : State) i => st.modPcore (4 * q + i) (fun p => { p with icache := kept p.ipins p.icache, tlb := [] }))
    (s.modPquad q (fun x => { x with l1 := [], icache := kept x.ipins x.icache, tlb := [] }))

/-- The SEQ counter of core `c` goes on past that of the core whose records come to it, so that the older record still has the greater age (05 R114, log
33). -/
def State.seqOn (s : State) (from_ c : Nat) : State :=
  let k := (s.pcore from_).seq
  s.modPcore c (fun p => { p with seq := if p.seq.toNat < k.toNat then k else p.seq })

/-- A logical core comes to physical core `c`; its core CSRs come with it (15 R322). -/
def State.settle (s : State) (lc c : Nat) : State :=
  let k := s.csrs lc
  if (s.hosted c).isEmpty then
    (s.modLcore lc (fun l => { l with phys := c, own := none })).modPcore c (fun p => { p with csrs := k })
  else s.modLcore lc (fun l => { l with phys := c, own := some k })

/-- A logical quad moves whole onto physical quad `q`, each logical core onto the core of the same place; the stages that the cores it
leaves served are served on with it. The target's caches are emptied, so that no task reads there what is older than its own accesses (11
R251). -/
def State.moveQuad (s : State) (lq q : Nat) : State :=
  let old := (s.lquad lq).phys
  let s1 := (s.modLquad lq (fun x => { x with phys := q })).emptyCaches q
  (List.range 4).foldl (fun (st : State) i =>
    let lc := 4 * lq + i
    let from_ := (s.pnode (old / 4)).mask (4 * (old % 4) + i)
    ((st.settle lc (4 * q + i)).seqOn (4 * old + i) (4 * q + i)).modPnode (q / 4) (fun p =>
      { p with masks := p.masks.set (4 * (q % 4) + i) (p.mask (4 * (q % 4) + i) ||| from_) })) s1

/-- A logical quad folds onto one of the quads that stay and host fewer than two; which of them is a free choice. -/
def State.foldQuad (s : State) (stay : List Nat) (lq : Nat) : State :=
  let able := stay.filter (fun q => (s.quadsOn q).length < 2)
  match able[s.freeN % able.length]? with
  | some q => s.drew.moveQuad lq q
  | none => s

/-- Cores that logical state has left serve no stage any more, and their pins are over. -/
def State.leaveCores (s : State) (quads : List Nat) : State :=
  quads.foldl (fun (st : State) q =>
    (List.range 4).foldl (fun (st : State) i =>
      (st.modPnode (q / 4) (fun p => { p with masks := p.masks.set (4 * (q % 4) + i) 0 })).modPcore (4 * q + i) (fun p => { p with ipins := [] }))
      (st.modPquad q (fun x => { x with ipins := [] }))) s

/-- A node id in a TREE word renamed (19 R360). -/
def renameTree (f : Nat → Nat) (w : Word) : Word :=
  word ((List.range 5).map (fun i => f (field w (24 + 8 * i) 8) * 2 ^ (24 + 8 * i))).sum ||| (w &&& 0xFFFFFF)

/-- Steps under way at a node renamed. -/
def renameStep (f : Nat → Nat) : Instr → Instr
  | .reductionInput r => .reductionInput { r with node := f r.node }
  | .reductionResult r => .reductionResult { r with node := f r.node }
  | .roundTimeout n t g => .roundTimeout (f n) t g
  | .roundDiscardExpiry n t g => .roundDiscardExpiry (f n) t g
  | .governorPeriod n => .governorPeriod (f n)
  | i => i

/-- A logical node moves whole from physical node `a` to the free node `b`: its cores and quads with their core CSRs, its dispatcher, its
stage rings, and the reduction rounds and trees that name it. -/
def State.moveNode (s : State) (p a b : Nat) : State :=
  let f := fun (n : Nat) => if n = a then b else n
  let old := s.pnode a
  let trees := fun (t : Tbl Word) => t.map (fun (e : Nat × Word) => if e.1 % 2 = 0 then (e.1, renameTree f e.2) else e)
  let s1 : State := { s with
    lcores := s.lcores.map (fun (e : Nat × LCore) => if e.2.phys / 16 = a then (e.1, { e.2 with phys := 16 * b + e.2.phys % 16 }) else e)
    lquads := s.lquads.map (fun (e : Nat × LQuad) => if e.2.phys / 4 = a then (e.1, { e.2 with phys := 4 * b + e.2.phys % 4 }) else e)
    lnodes := s.lnodes.map (fun (e : Nat × LNode) => if e.2.phys = a then (e.1, { e.2 with phys := b }) else e)
    queues := s.queues.map (fun (e : Nat × HQueue) => if e.2.part = p then (e.1, { e.2 with home := f e.2.home }) else e)
    pnodes := s.pnodes.map (fun (e : Nat × PNode) => (e.1, { e.2 with
      trees := trees e.2.trees, gleans := e.2.gleans.map (fun (g : Glean) => { g with node := f g.node }) }))
    agenda := s.agenda.map (renameStep f) }
  let s2 := s1.modPart p (fun q => { q with nodes := q.nodes.map f })
  let s3 := s2.modPnode b (fun n => { n with
    st := .admitted, l2dir := (s.partOf p).dir, gov := old.gov, govRing := old.govRing, masks := old.masks, rings := old.rings,
    trees := trees old.trees, rounds := old.rounds, gleans := (s2.pnode a).gleans, discard := old.discard })
  let s4 := s3.modPnode a (fun n => { n with
    st := if n.st = .admitted then .ready else n.st, rings := [], masks := [], trees := [], rounds := [], gleans := [], discard := [] })
  (List.range 16).foldl (fun (st : State) i =>
    (st.modPcore (16 * b + i) (fun q => { q with csrs := (s.pcore (16 * a + i)).csrs })).seqOn (16 * a + i) (16 * b + i))
    ((quadsOf b).foldl State.emptyCaches s4.measureConfig)

/-- Steps 4 to 6 of a PREEMPT whose cores are drained: pages go back, state moves, the targets fill slots. -/
def State.preemptMove (s : State) (fn : Nat) (a : Nat → Word) : State :=
  let n := field (a 1) 0 8
  let (out, stay) := vacated a
  let cores := out.flatMap (fun q => (List.range 4).map (fun i => 4 * q + i))
  let s1 := cores.foldl State.flushFrames (cores.foldl State.clearFenced s)
  let free := (List.range 256).filter (fun m => (s1.pnode m).st == .ready)
  if !stay.isEmpty then
    let s2 := (out.flatMap s1.quadsOn).foldl (fun (st : State) lq => st.foldQuad stay lq) s1
    ((stay ++ out).foldl State.restart (s2.leaveCores out)).finish fn 0 []
  else match free[s1.freeN % free.length]? with
    | none => s
    | some m =>
      let s2 := s1.drew.moveNode (a 0).toNat n m
      let s3 := (List.range 4).foldl (fun (st : State) q => (st.restart (4 * m + q)).restart (4 * n + q)) s2
      let s4 := (s3.lnodes.filter (fun e => e.2.phys == m)).foldl (fun (st : State) e =>
        State.drainPlacing e.1 e.2.placing.length (st.pushOnce (.dispatcherTake e.1))) s3
      s4.finish fn 0 []

/-- The PREEMPT of a function under way goes on. -/
def State.preemptOn (s : State) (fn : Nat) : State :=
  if (s.die fn).cmd ≠ 0x0B ∨ !s.fw.ongoing.contains fn then s
  else
    let a := fun (i : Nat) => (s.die fn).args.get 0 i
    match s.vacate (vacated a).1 with
    | (s1, true) => s1.preemptMove fn a
    | (s1, false) => s1

/-- A PREEMPT begins (22 R382): its node belongs to the partition and there is room for what it vacates; one that cannot succeed changes nothing and
returns 5 (22 R380). -/
def State.preemptStart (s : State) (fn : Nat) (a : Nat → Word) : State :=
  let p := (a 0).toNat
  let n := field (a 1) 0 8
  let (out, stay) := vacated a
  let hosted := ((out ++ stay).flatMap s.quadsOn).length
  let st := (s.pnode n).st
  if 65535 < p ∨ p = 0 ∨ bits (a 1) 12 52 ≠ 0 then s.finish fn 2 []
  else if (s.parts.find p).isNone ∨ !(s.partOf p).nodes.contains n ∨ !(st == .admitted || (st == .fenced && stay.isEmpty)) then
    s.finish fn 5 []
  else if (if stay.isEmpty then decide (s.readyLeft = 0) else decide (2 * stay.length < hosted)) then s.finish fn 5 []
  else s.detach fn

/-- PREEMPT: a new one begins unless an earlier one names its partition, and those under way go on. -/
def execPreempt (s : State) : Outcome :=
  .next (
    let wait := fun (st : State) => match st.fw.pending with
      | fn :: _ => st.headIs 0x0B && st.partBusy (st.namedPart fn)
      | [] => false
    let s1 := if s.headIs 0x0B ∧ !wait s then s.command false 0 s.preemptStart else s
    let s2 := s1.fw.ongoing.foldl State.preemptOn s1
    if wait s2 ∨ s2.fw.ongoing.any (fun fn => (s2.die fn).cmd == 0x0B) then s2.pushOnce .preempt else s2)

/-! ## Warm reset (17 R336 to R338) -/

/-- The physical cores of a node. -/
def pcoresOf (n : Nat) : List Nat := (List.range 16).map (16 * n + ·)

/-- The weighbridge channels of a logical core come back unlinked and cleared (17 R338). -/
def State.clearWeighs (s : State) (lc : Nat) : State :=
  ((List.range 4).foldl (fun (st : State) ch => st.unlinkWeigh lc ch) s).modLcore lc (fun l => { l with wb := [] })

/-- The triggers and the debug module's state of a core after a warm reset (21 R369). -/
def PCore.debugReset (p : PCore) : PCore :=
  { p with halted := false, ebreaku := false, ebreaks := false, triggers := [], tselect := 0, dmSel := 0, dmData := 0, dmErr := 0, dcause := 0,
           dstep := false, stepping := false, resumeAck := false }

/-- Step 6 and what R338 and 21 R369 list, which is all that programs see: the V and M dies of a node are reset. -/
def State.resetDies (s : State) (n : Nat) : State :=
  let s1 := (pcoresOf n).foldl State.clearFenced s
  let s2 := ((pcoresOf n).flatMap s1.hosted).foldl State.clearWeighs s1
  let s3 := (pcoresOf n).foldl (fun (st : State) c => st.modPcore c (fun p => { p.debugReset with
    slots := [], sb := [], frames := [], ipins := [], isync := false, cycleBase := (st.cyclesAt c st.clock + 7) / 8 * 8, fenced := false })) s2
  (quadsOf n).foldl (fun (st : State) q => (st.modPquad q (fun x => { x with ipins := [] })).emptyCaches q) s3

/-- Steps 5 to 9 with the links of the dies ACTIVE again, or the failure of step 7 on dies that step 6 has reset, by a free choice; the status of a reset
that fails is a free value. -/
def State.readmit (s : State) (fn n : Nat) : State :=
  if s.freeN % 2 = 0 then
    let s1 := (s.drew.resetDies n).modPnode n (fun p => { p with st := .admitted, vLink := .active, mLink := .active })
    let s2 := (quadsOf n).foldl State.restart s1
    let s3 := (s2.lnodes.filter (fun e => e.2.phys == n)).foldl (fun (st : State) e =>
      State.drainPlacing e.1 e.2.placing.length (st.pushOnce (.dispatcherTake e.1))) s2
    (s3.lnodes.foldl (fun (st : State) e => if e.2.inbox.isEmpty then st else st.pushOnce (.dispatcherTake e.1)) s3).finish fn 0 []
  else (((s.drew.resetDies n).fenceNode n 4).modPnode n (fun p => { p with vLink := .failed, mLink := .failed })).finish fn (s.freeN / 2 % 6) []

/-- The warm reset of a function under way goes on. -/
def State.resetOn (s : State) (fn : Nat) : State :=
  if (s.die fn).cmd ≠ 0x0D ∨ !s.fw.ongoing.contains fn then s
  else
    let n := field ((s.die fn).args.get 0 0) 0 8
    match (s.pnode n).st with
    | .quiescing =>
      match s.vacate (quadsOf n) with
      | (s1, true) =>
        (((pcoresOf n).foldl State.flushFrames s1).modPnode n (fun p => { p with
          st := .resetting, vLink := .l1, mLink := .l1 })).drop (· == .quiesceTimeout n)
      | (s1, false) => s1
    | .resetting => s.readmit fn n
    | _ => s

/-- A warm reset begins: for a node in ADMITTED, and for one that a failed warm reset left FENCED (17 R336). -/
def State.resetStart (s : State) (fn : Nat) (a : Nat → Word) : State :=
  let n := (a 0).toNat
  let p := s.pnode n
  if 255 < n then s.finish fn 2 []
  else if !(p.st == .admitted || (p.st == .fenced && (p.fcode == 4 || p.fcode == 5))) then s.finish fn 5 []
  else
    let s1 := s.modPnode n (fun x => { x with st := .quiescing, fcode := 0 })
    (((pcoresOf n).foldl State.stopCore s1).push (.quiesceTimeout n)).detach fn

/-- RESET_COMPUTE: a new one begins unless an earlier one names its partition, and those under way go on. -/
def execResetCompute (s : State) : Outcome :=
  .next (
    let wait := fun (st : State) => match st.fw.pending with
      | fn :: _ => st.headIs 0x0D && st.partBusy (st.namedPart fn)
      | [] => false
    let s1 := if s.headIs 0x0D ∧ !wait s then s.command false 0 s.resetStart else s
    let s2 := s1.fw.ongoing.foldl State.resetOn s1
    if wait s2 ∨ s2.fw.ongoing.any (fun fn => (s2.die fn).cmd == 0x0D) then s2.pushOnce .resetCompute else s2)

/-- QUIESCE_TIMEOUT (17 R336): the node becomes FENCED with FCODE 5. -/
def execQuiesceTimeout (node : Nat) (s : State) : Outcome :=
  .next (if (s.pnode node).st ≠ .quiescing then s
    else
      let s1 := s.fenceNode node 5
      match s1.fw.ongoing.find? (fun fn => (s1.die fn).cmd == 0x0D && field ((s1.die fn).args.get 0 0) 0 8 == node) with
      | some fn => s1.drew.finish fn (s1.freeN % 6) []
      | none => s1)

/-! ## Destroying a partition -/

/-- The partition that a step belongs to. -/
def stepPart : Instr → Option Nat
  | .recordReply r _ => some (r.lc / 4096)
  | .homeRequest r => some (r.lc / 4096)
  | .homeReservation r => some (r.lc / 4096)
  | .icacheFill r => some (r.lc / 4096)
  | .tlbWalkComplete r => some (r.lc / 4096)
  | .pageInComplete p => some (p.lc / 4096)
  | .dispatcherTake ln => some (ln / 256)
  | .keyRequest m => some m.part
  | .keyGrant m => some m.part
  | .keyRelease m => some m.part
  | .stealRequest t _ => some (t / 4096)
  | .stealAnswer t _ => some (t / 4096)
  | .stealPauseEnd t => some (t / 4096)
  | .mnop c => some (c.lq / 1024)
  | .mma c => some (c.lq / 1024)
  | .mzero c => some (c.lq / 1024)
  | .mload c => some (c.lq / 1024)
  | .mdrain c => some (c.lq / 1024)
  | .mdrq c => some (c.lq / 1024)
  | .msums c => some (c.lq / 1024)
  | .mgrp c => some (c.lq / 1024)
  | .mbar c => some (c.lq / 1024)
  | .tileCommandComplete c => some (c.lq / 1024)
  | .poolForward c => some (c.lq / 1024)
  | .groupForward c => some (c.lq / 1024)
  | .copyStart c => some (c.lq / 1024)
  | .copyComplete c => some (c.lq / 1024)
  | .barrierInitApply m _ _ => some (objectPart m.bar)
  | .barrierArrivalApply m _ _ => some (objectPart m.bar)
  | .barrierByteCount b _ _ _ _ _ => some (objectPart b)
  | .channelElementsArrive c _ => some c.part
  | .channelCreditReturn c _ => some c.part
  | .channelCloseArrives c => some c.part
  | _ => none
where
  /-- The partition of a barrier object. -/
  objectPart (b : BarRef) : Nat :=
    match b.level with
    | 0 => b.owner / 4096
    | 1 => b.owner / 1024
    | 2 => b.owner / 256
    | _ => b.owner

/-- What is left of a partition without tasks goes: its nodes become READY, its queues are destroyed, its pages go back. -/
def State.dissolve (s : State) (p : Nat) : State :=
  let nodes := (s.partOf p).nodes
  let s1 := (nodes.flatMap pcoresOf).foldl State.flushFrames s
  let s2 := (s1.queues.filter (fun e => e.2.part == p && e.2.st != .destroyed)).foldl (fun (st : State) e => st.destroyQueue e.1) s1
  let s3 : State := { s2 with
    lcores := s2.lcores.filter (fun e => e.1 / 4096 != p), lquads := s2.lquads.filter (fun e => e.1 / 1024 != p)
    lnodes := s2.lnodes.filter (fun e => e.1 / 256 != p), launches := s2.launches.filter (fun e => e.1 / 65536 != p)
    colls := s2.colls.filter (fun c => !c.posts.any (fun e => partOfLc e.2.lc == p))
    pps := s2.pps.map (fun (e : Nat × PortProc) => (e.1, { e.2 with fifo := e.2.fifo.filter (fun x => partOfLc x.lc != p) }))
    chans := s2.chans.filter (fun c => c.ref.part != p), binds := s2.binds.filter (fun b => b.part != p)
    parts := s2.parts.erase p, agenda := s2.agenda.filter (fun i => stepPart i != some p) }
  (nodes.foldl (fun (st : State) n => st.modPnode n (fun x =>
    { x with st := if x.st = .admitted then .ready else x.st, rings := [], l2dir := 0 })) s3).measureConfig.measurePart

/-- DESTROY_PARTITION (22 R380, R382): it waits for a PREEMPT or RESET_COMPUTE of the partition, kills every task, and is done once no
thread is resident and every store has been performed. -/
def execDestroyPartition (s : State) : Outcome :=
  .next (s.command false 0 (fun fn a =>
    let p := (a 0).toNat
    if 65535 < p ∨ p = 0 then s.finish fn 2 []
    else if (s.parts.find p).isNone then s.finish fn 5 []
    else if s.partBusy p then s.putBack .destroyPartition
    else
      let s0 : State := { s with lnodes := s.lnodes.map (fun (e : Nat × LNode) => if e.1 / 256 = p then (e.1, { e.2 with inbox := [], waiters := [] }) else e) }
      let s1 := s0.killTasks (fun k => (s0.task k).part == p) (fun _ => false)
      let cores := (s1.partOf p).nodes.flatMap pcoresOf
      let s2 := cores.foldl State.clearFenced s1
      if s2.tasks.any (fun e => e.2.part == p) ∨ !cores.all s2.coreDrained then s2.putBack .destroyPartition
      else (s2.dissolve p).finish fn 0 []))

end Sys2Proof.Machine
end

