-- ==== Sys2Proof/Machine/Replies.lean ====
section
/-!
DEFINITION. The reply to a waiting record, by what its access was for (05 R113, 15 R302), and the word that is no instruction (04 R93).
-/
namespace Sys2Proof.Machine

/-- A load's reply: it acquires at the load's scope, and a walk that fed it moves (06 R121, R147). -/
def State.replyLoad (s : State) (r : RecRef) (x : Rec) (a : Acc) (rep : Reply) : State :=
  let s1 := match a.scope with | some n => s.acquireAt (s.coreOf r) n | none => s
  (s1.streamDone x.task a.cmp).makeReady r rep

/-- A descriptor's reply that configures a channel (09 R216). -/
def State.replyWb (s : State) (r : RecRef) (x : Rec) (a : Acc) (rep : Reply) : State :=
  match s.cfgWeigh (s.coreOf r) x.task r.lc a.arg.toNat (rep.val.setWidth 512) with
  | none => s.makeReady r (Reply.trap_ 7 x.obj)
  | some s1 => s1.makeReady r Reply.none_

/-- A descriptor's reply that binds a stream (06 R144). -/
def State.replyStream (s : State) (r : RecRef) (x : Rec) (a : Acc) (rep : Reply) : State :=
  match s.bindStream x.task a.arg.toNat x.obj (rep.val.setWidth 256) with
  | none => s.makeReady r (Reply.trap_ 52 x.obj)
  | some s1 => s1.makeReady r Reply.none_

/-- A record's reply that binds a mailbox word (09 R232). -/
def State.replyMb (s : State) (r : RecRef) (x : Rec) (a : Acc) (rep : Reply) : State :=
  match s.bindWord (s.coreOf r) x.task a.arg rep.val with
  | (s1, some cause) => s1.makeReady r (Reply.trap_ cause a.arg)
  | (s1, none) => s1.makeReady r Reply.none_

/-- What the reply to an access does. -/
def State.replyAccess (s : State) (r : RecRef) (x : Rec) (a : Acc) (rep : Reply) : State :=
  match a.op with
  | .load => s.replyLoad r x a rep
  | .amo _ => State.makeReady (match a.scope with | some n => s.acquireAt (s.coreOf r) n | none => s) r rep
  | .waitNe | .waitEq | .join | .resAcq => (s.acquireL1 (s.coreOf r)).makeReady r rep
  | .readTask => s.submitRead r false rep.val
  | .readLaunch => s.submitRead r true rep.val
  | .readColl => s.postRead r x rep.val
  | .readWb => s.replyWb r x a rep
  | .readStream => s.replyStream r x a rep
  | .readMb => s.replyMb r x a rep
  | .store | .fetch => s.makeReady r rep

/-- What the weighbridges see when a reply arrives (09 R215). -/
def State.replySeen (s : State) (rep : Reply) : State := match rep.see with | some (lc, l) => s.weigh lc [l] | none => s

/-- The word that a record's reply binds has a table entry that is repair-pending: its walk waits (15 R316). -/
def State.replyParked (s : State) (r : RecRef) (rep : Reply) : Bool :=
  match s.recOf r with
  | some { want := .access a, .. } =>
    a.op == .readMb && rep.err.isNone && (s.tableParked (s.coreOf r) (s.csrs r.lc).satp .load a.arg).isSome
  | _ => false

/-- RECORD_REPLY: the reply of a record that waits; a trap that it brings is taken at the relaunch, and a record that has gone discards it. -/
def execRecordReply (r : RecRef) (reply : Reply) (s : State) : Outcome :=
  let s := s.replySeen reply
  .next (match s.recOf r with
    | none => s
    | some x =>
      if x.st ≠ .waiting then s
      else if s.replyParked r reply then s.putBack (.recordReply r reply)
      else match x.want, reply.err with
        | .access a, none => s.replyAccess r x a reply
        | _, _ => s.makeReady r reply)

/-- ILLEGAL_INSTRUCTION (04 R93): cause 2 with the word. -/
def execIllegalInstruction (w : BitVec 32) (s : State) : Outcome := .next (s.issue (fun t => s.trap t 2 (w.setWidth 64)))

end Sys2Proof.Machine
end

