-- ==== Sys2Proof/Machine/Vector.lean ====
section
/-!
DEFINITION. Vector arithmetic: integer, floating, compares, conversions, reductions, permutes and predicates (07 R152 to R164).
-/
namespace Sys2Proof.Machine

/-! ## Shapes -/

/-- Active elements of vd receive `g i`; the instruction completes (07 R153). -/
def State.vecInt (s : State) (f : KV) (g : Thread → Nat → Nat) : State :=
  s.issue (fun t => s.retire ((t.setV f.vd (mapElems (t.getV f.vd) f.ew (t.active f.ew f.pg) (g t))).vdone))

/-- As `vecInt`, with the flags of the active elements (03 R59). -/
def State.vecFloat (s : State) (f : KV) (g : Thread → Nat → FRes) : State :=
  s.issue (fun t =>
    let act := t.active f.ew f.pg
    s.retire (((t.setV f.vd (mapElems (t.getV f.vd) f.ew act (fun i => (g t i).bits))).flag
      (orFlags f.ew act (fun i => (g t i).flags))).vdone))

/-- A compare writes the predicate register of the vd field (07 R153, R158). -/
def State.vecCmp (s : State) (f : KV) (g : Thread → Nat → Bool × Flags) : State :=
  s.issue (fun t =>
    let act := t.active f.ew f.pg
    s.retire (((t.setP f.vd.toNat (mapPred f.ew act (fun i => (g t i).1))).flag
      (orFlags f.ew act (fun i => (g t i).2))).vdone))

/-- Element `i` of va, the vs2 field. -/
def Thread.va (t : Thread) (f : KV) (i : Nat) : Nat := elem (t.getV f.vs2) f.ew i
/-- Element `i` of vb, the vs1 field. -/
def Thread.vb (t : Thread) (f : KV) (i : Nat) : Nat := elem (t.getV f.vs1) f.ew i
/-- Element `i` of vd. -/
def Thread.ve (t : Thread) (f : KV) (i : Nat) : Nat := elem (t.getV f.vd) f.ew i
/-- The scalar operand of a `.vx` form. -/
def Thread.vs (t : Thread) (f : KV) : Nat := t.scalar f.ew f.vs1

/-- The format of the elements of a floating instruction. -/
def kvFmt (f : KV) : Fmt := Fmt.ofEw f.ew.toNat
/-- The rounding mode of a vector instruction (03 R58). -/
abbrev Thread.rm (t : Thread) : RMode := t.frm.toNat

/-! ## Integer elements of `w` bits (07 R155) -/

/-- a - b modulo 2^w -/
def subW (w a b : Nat) : Nat := (a + (2 ^ w - b % 2 ^ w)) % 2 ^ w
/-- High half of the signed product. -/
def mulhW (w a b : Nat) : Nat := ((signedOf w a * signedOf w b / 2 ^ w) % 2 ^ w).toNat
/-- Signed minimum. -/
def minW (w a b : Nat) : Nat := if signedOf w a < signedOf w b then a else b
/-- Signed maximum. -/
def maxW (w a b : Nat) : Nat := if signedOf w a < signedOf w b then b else a
/-- Arithmetic shift right by `n`. -/
def sraW (w a n : Nat) : Nat := ((signedOf w a / 2 ^ n) % 2 ^ w).toNat

/-- Element result (07 R155: va + vb). -/
def vaddElem (_w a b : Nat) : Nat := a + b

/-- VADD (07 R155) -/
def execVadd (f : KV) (s : State) : Host.Outcome State Fault Refusal :=
  .next (s.vecInt f (fun t i => vaddElem (ewBits f.ew) (t.va f i) (t.vb f i)))

/-- Element result (07 R155: va - vb). -/
def vsubElem (w a b : Nat) : Nat := subW w a b

/-- VSUB (07 R155) -/
def execVsub (f : KV) (s : State) : Host.Outcome State Fault Refusal :=
  .next (s.vecInt f (fun t i => vsubElem (ewBits f.ew) (t.va f i) (t.vb f i)))

/-- Element result (07 R155: low half of va × vb). -/
def vmulElem (_w a b : Nat) : Nat := a * b

/-- VMUL (07 R155) -/
def execVmul (f : KV) (s : State) : Host.Outcome State Fault Refusal :=
  .next (s.vecInt f (fun t i => vmulElem (ewBits f.ew) (t.va f i) (t.vb f i)))

/-- Element result (07 R155: high half of the signed product). -/
def vmulhElem (w a b : Nat) : Nat := mulhW w a b

/-- VMULH (07 R155) -/
def execVmulh (f : KV) (s : State) : Host.Outcome State Fault Refusal :=
  .next (s.vecInt f (fun t i => vmulhElem (ewBits f.ew) (t.va f i) (t.vb f i)))

/-- Element result (07 R155: high half of the unsigned product). -/
def vmulhuElem (w a b : Nat) : Nat := a * b / 2 ^ w

/-- VMULHU (07 R155) -/
def execVmulhu (f : KV) (s : State) : Host.Outcome State Fault Refusal :=
  .next (s.vecInt f (fun t i => vmulhuElem (ewBits f.ew) (t.va f i) (t.vb f i)))

/-- Element result (07 R155: signed minimum). -/
def vminElem (w a b : Nat) : Nat := minW w a b

/-- VMIN (07 R155) -/
def execVmin (f : KV) (s : State) : Host.Outcome State Fault Refusal :=
  .next (s.vecInt f (fun t i => vminElem (ewBits f.ew) (t.va f i) (t.vb f i)))

/-- Element result (07 R155: signed maximum). -/
def vmaxElem (w a b : Nat) : Nat := maxW w a b

/-- VMAX (07 R155) -/
def execVmax (f : KV) (s : State) : Host.Outcome State Fault Refusal :=
  .next (s.vecInt f (fun t i => vmaxElem (ewBits f.ew) (t.va f i) (t.vb f i)))

/-- Element result (07 R155: unsigned minimum). -/
def vminuElem (_w a b : Nat) : Nat := min a b

/-- VMINU (07 R155) -/
def execVminu (f : KV) (s : State) : Host.Outcome State Fault Refusal :=
  .next (s.vecInt f (fun t i => vminuElem (ewBits f.ew) (t.va f i) (t.vb f i)))

/-- Element result (07 R155: unsigned maximum). -/
def vmaxuElem (_w a b : Nat) : Nat := max a b

/-- VMAXU (07 R155) -/
def execVmaxu (f : KV) (s : State) : Host.Outcome State Fault Refusal :=
  .next (s.vecInt f (fun t i => vmaxuElem (ewBits f.ew) (t.va f i) (t.vb f i)))

/-- Element result (07 R155). -/
def vandElem (_w a b : Nat) : Nat := a &&& b

/-- VAND (07 R155) -/
def execVand (f : KV) (s : State) : Host.Outcome State Fault Refusal :=
  .next (s.vecInt f (fun t i => vandElem (ewBits f.ew) (t.va f i) (t.vb f i)))

/-- Element result (07 R155). -/
def vorElem (_w a b : Nat) : Nat := a ||| b

/-- VOR (07 R155) -/
def execVor (f : KV) (s : State) : Host.Outcome State Fault Refusal :=
  .next (s.vecInt f (fun t i => vorElem (ewBits f.ew) (t.va f i) (t.vb f i)))

/-- Element result (07 R155). -/
def vxorElem (_w a b : Nat) : Nat := a ^^^ b

/-- VXOR (07 R155) -/
def execVxor (f : KV) (s : State) : Host.Outcome State Fault Refusal :=
  .next (s.vecInt f (fun t i => vxorElem (ewBits f.ew) (t.va f i) (t.vb f i)))

/-- Element result (07 R155: the amount is taken modulo 8b). -/
def vsllElem (w a b : Nat) : Nat := a * 2 ^ (b % w)

/-- VSLL (07 R155) -/
def execVsll (f : KV) (s : State) : Host.Outcome State Fault Refusal :=
  .next (s.vecInt f (fun t i => vsllElem (ewBits f.ew) (t.va f i) (t.vb f i)))

/-- Element result (07 R155). -/
def vsrlElem (w a b : Nat) : Nat := a / 2 ^ (b % w)

/-- VSRL (07 R155) -/
def execVsrl (f : KV) (s : State) : Host.Outcome State Fault Refusal :=
  .next (s.vecInt f (fun t i => vsrlElem (ewBits f.ew) (t.va f i) (t.vb f i)))

/-- Element result (07 R155). -/
def vsraElem (w a b : Nat) : Nat := sraW w a (b % w)

/-- VSRA (07 R155) -/
def execVsra (f : KV) (s : State) : Host.Outcome State Fault Refusal :=
  .next (s.vecInt f (fun t i => vsraElem (ewBits f.ew) (t.va f i) (t.vb f i)))

/-- VADD_VX: vb is the scalar operand (07 R155) -/
def execVaddVx (f : KV) (s : State) : Host.Outcome State Fault Refusal :=
  .next (s.vecInt f (fun t i => vaddElem (ewBits f.ew) (t.va f i) (t.vs f)))

/-- VSUB_VX: vb is the scalar operand (07 R155) -/
def execVsubVx (f : KV) (s : State) : Host.Outcome State Fault Refusal :=
  .next (s.vecInt f (fun t i => vsubElem (ewBits f.ew) (t.va f i) (t.vs f)))

/-- VMUL_VX: vb is the scalar operand (07 R155) -/
def execVmulVx (f : KV) (s : State) : Host.Outcome State Fault Refusal :=
  .next (s.vecInt f (fun t i => vmulElem (ewBits f.ew) (t.va f i) (t.vs f)))

/-- VAND_VX: vb is the scalar operand (07 R155) -/
def execVandVx (f : KV) (s : State) : Host.Outcome State Fault Refusal :=
  .next (s.vecInt f (fun t i => vandElem (ewBits f.ew) (t.va f i) (t.vs f)))

/-- VSLL_VX: vb is the scalar operand (07 R155) -/
def execVsllVx (f : KV) (s : State) : Host.Outcome State Fault Refusal :=
  .next (s.vecInt f (fun t i => vsllElem (ewBits f.ew) (t.va f i) (t.vs f)))

/-- VSRL_VX: vb is the scalar operand (07 R155) -/
def execVsrlVx (f : KV) (s : State) : Host.Outcome State Fault Refusal :=
  .next (s.vecInt f (fun t i => vsrlElem (ewBits f.ew) (t.va f i) (t.vs f)))

/-- VSRA_VX: vb is the scalar operand (07 R155) -/
def execVsraVx (f : KV) (s : State) : Host.Outcome State Fault Refusal :=
  .next (s.vecInt f (fun t i => vsraElem (ewBits f.ew) (t.va f i) (t.vs f)))

/-- VMV_VX (07 R155) -/
def execVmvVx (f : KV) (s : State) : Host.Outcome State Fault Refusal := .next (s.vecInt f (fun t _ => t.vs f))

/-- VSEL (07 R156): below `kxvl`, vb where pg is set and va elsewhere. -/
def execVsel (f : KV) (s : State) : Host.Outcome State Fault Refusal :=
  .next (s.issue (fun t =>
    let sel := fun i => (t.getP f.pg.toNat).getLsbD (ewBytes f.ew * i)
    let act := fun i => i * ewBytes f.ew < t.vl.toNat
    s.retire ((t.setV f.vd (mapElems (t.getV f.vd) f.ew act (fun i => if sel i then t.vb f i else t.va f i))).vdone)))

/-! ## Compares (07 R158) -/

/-- Element condition (07 R158). -/
def vseqElem (_w a b : Nat) : Bool := a == b

/-- VSEQ (07 R158) -/
def execVseq (f : KV) (s : State) : Host.Outcome State Fault Refusal :=
  .next (s.vecCmp f (fun t i => (vseqElem (ewBits f.ew) (t.va f i) (t.vb f i), 0)))

/-- Element condition (07 R158). -/
def vsneElem (_w a b : Nat) : Bool := a != b

/-- VSNE (07 R158) -/
def execVsne (f : KV) (s : State) : Host.Outcome State Fault Refusal :=
  .next (s.vecCmp f (fun t i => (vsneElem (ewBits f.ew) (t.va f i) (t.vb f i), 0)))

/-- Element condition (07 R158). -/
def vsltElem (w a b : Nat) : Bool := decide (signedOf w a < signedOf w b)

/-- VSLT (07 R158) -/
def execVslt (f : KV) (s : State) : Host.Outcome State Fault Refusal :=
  .next (s.vecCmp f (fun t i => (vsltElem (ewBits f.ew) (t.va f i) (t.vb f i), 0)))

/-- Element condition (07 R158). -/
def vsltuElem (_w a b : Nat) : Bool := decide (a < b)

/-- VSLTU (07 R158) -/
def execVsltu (f : KV) (s : State) : Host.Outcome State Fault Refusal :=
  .next (s.vecCmp f (fun t i => (vsltuElem (ewBits f.ew) (t.va f i) (t.vb f i), 0)))

/-- Element condition (07 R158). -/
def vsleElem (w a b : Nat) : Bool := decide (signedOf w a ≤ signedOf w b)

/-- VSLE (07 R158) -/
def execVsle (f : KV) (s : State) : Host.Outcome State Fault Refusal :=
  .next (s.vecCmp f (fun t i => (vsleElem (ewBits f.ew) (t.va f i) (t.vb f i), 0)))

/-- Element condition (07 R158). -/
def vsleuElem (_w a b : Nat) : Bool := decide (a ≤ b)

/-- VSLEU (07 R158) -/
def execVsleu (f : KV) (s : State) : Host.Outcome State Fault Refusal :=
  .next (s.vecCmp f (fun t i => (vsleuElem (ewBits f.ew) (t.va f i) (t.vb f i), 0)))

/-- VSEQ_VX (07 R158) -/
def execVseqVx (f : KV) (s : State) : Host.Outcome State Fault Refusal :=
  .next (s.vecCmp f (fun t i => (vseqElem (ewBits f.ew) (t.va f i) (t.vs f), 0)))

/-- VSLT_VX (07 R158) -/
def execVsltVx (f : KV) (s : State) : Host.Outcome State Fault Refusal :=
  .next (s.vecCmp f (fun t i => (vsltElem (ewBits f.ew) (t.va f i) (t.vs f), 0)))

/-- VFEQ (07 R158) -/
def execVfeq (f : KV) (s : State) : Host.Outcome State Fault Refusal :=
  .next (s.vecCmp f (fun t i => fEq (kvFmt f) (t.va f i) (t.vb f i)))

/-- VFLT (07 R158) -/
def execVflt (f : KV) (s : State) : Host.Outcome State Fault Refusal :=
  .next (s.vecCmp f (fun t i => fLt (kvFmt f) false (t.va f i) (t.vb f i)))

/-- VFLE (07 R158) -/
def execVfle (f : KV) (s : State) : Host.Outcome State Fault Refusal :=
  .next (s.vecCmp f (fun t i => fLt (kvFmt f) true (t.va f i) (t.vb f i)))

/-! ## Floating arithmetic (07 R157) -/

/-- VFADD (07 R157) -/
def execVfadd (f : KV) (s : State) : Host.Outcome State Fault Refusal :=
  .next (s.vecFloat f (fun t i => fAdd (kvFmt f) t.rm (t.va f i) (t.vb f i)))

/-- VFSUB (07 R157) -/
def execVfsub (f : KV) (s : State) : Host.Outcome State Fault Refusal :=
  .next (s.vecFloat f (fun t i => fSub (kvFmt f) t.rm (t.va f i) (t.vb f i)))

/-- VFMUL (07 R157) -/
def execVfmul (f : KV) (s : State) : Host.Outcome State Fault Refusal :=
  .next (s.vecFloat f (fun t i => fMul (kvFmt f) t.rm (t.va f i) (t.vb f i)))

/-- VFMA (07 R157) -/
def execVfma (f : KV) (s : State) : Host.Outcome State Fault Refusal :=
  .next (s.vecFloat f (fun t i => fFma (kvFmt f) t.rm false (t.ve f i) (t.va f i) (t.vb f i)))

/-- VFNMA (07 R157) -/
def execVfnma (f : KV) (s : State) : Host.Outcome State Fault Refusal :=
  .next (s.vecFloat f (fun t i => fFma (kvFmt f) t.rm true (t.ve f i) (t.va f i) (t.vb f i)))

/-- VFMIN (07 R157) -/
def execVfmin (f : KV) (s : State) : Host.Outcome State Fault Refusal :=
  .next (s.vecFloat f (fun t i => fMinMax (kvFmt f) false (t.va f i) (t.vb f i)))

/-- VFMAX (07 R157) -/
def execVfmax (f : KV) (s : State) : Host.Outcome State Fault Refusal :=
  .next (s.vecFloat f (fun t i => fMinMax (kvFmt f) true (t.va f i) (t.vb f i)))

/-- VFDIV (07 R157) -/
def execVfdiv (f : KV) (s : State) : Host.Outcome State Fault Refusal :=
  .next (s.vecFloat f (fun t i => fDiv (kvFmt f) t.rm (t.va f i) (t.vb f i)))

/-- VFSQRT (07 R157) -/
def execVfsqrt (f : KV) (s : State) : Host.Outcome State Fault Refusal :=
  .next (s.vecFloat f (fun t i => fSqrt (kvFmt f) t.rm (t.va f i)))

/-- VFRCP (07 R157) -/
def execVfrcp (f : KV) (s : State) : Host.Outcome State Fault Refusal :=
  .next (s.vecFloat f (fun t i => fRcp (kvFmt f) t.rm (t.va f i)))

/-- VFEXP2 (07 R157) -/
def execVfexp2 (f : KV) (s : State) : Host.Outcome State Fault Refusal :=
  .next (s.vecFloat f (fun t i => fExp2 (kvFmt f) t.rm (t.va f i)))

/-- VFLOG2 (07 R157) -/
def execVflog2 (f : KV) (s : State) : Host.Outcome State Fault Refusal :=
  .next (s.vecFloat f (fun t i => fLog2 (kvFmt f) t.rm (t.va f i)))

/-- VFADD_VX (07 R157) -/
def execVfaddVx (f : KV) (s : State) : Host.Outcome State Fault Refusal :=
  .next (s.vecFloat f (fun t i => fAdd (kvFmt f) t.rm (t.va f i) (t.vs f)))

/-- VFMUL_VX (07 R157) -/
def execVfmulVx (f : KV) (s : State) : Host.Outcome State Fault Refusal :=
  .next (s.vecFloat f (fun t i => fMul (kvFmt f) t.rm (t.va f i) (t.vs f)))

/-- VFMA_VX (07 R157) -/
def execVfmaVx (f : KV) (s : State) : Host.Outcome State Fault Refusal :=
  .next (s.vecFloat f (fun t i => fFma (kvFmt f) t.rm false (t.ve f i) (t.va f i) (t.vs f)))

/-- VFMAX_VX (07 R157) -/
def execVfmaxVx (f : KV) (s : State) : Host.Outcome State Fault Refusal :=
  .next (s.vecFloat f (fun t i => fMinMax (kvFmt f) true (t.va f i) (t.vs f)))

/-! ## Conversions (07 R159) -/

/-- The widths in bytes of source and destination elements of a conversion code. -/
def cvtSizes (code : Nat) : Nat × Nat :=
  match code with
  | 0 => (4, 2) | 1 => (4, 2) | 2 => (2, 4) | 3 => (2, 4) | 4 => (4, 8) | 5 => (8, 4)
  | 6 => (4, 1) | 7 => (4, 1) | 8 => (4, 1) | 9 => (4, 1) | 10 => (1, 4) | 11 => (1, 4)
  | 12 => (4, 4) | 13 => (4, 4) | 14 => (4, 4) | 15 => (4, 4) | 16 => (4, 4)
  | 17 => (8, 8) | 18 => (8, 8) | 19 => (2, 2) | 20 => (2, 2) | 21 => (4, 1) | 22 => (1, 4) | 23 => (1, 4)
  | 24 => (2, 1) | 25 => (1, 2) | 26 => (4, 2) | _ => (4, 4)

/-- The conversion of one element by its code (07 R159, 03 R60). -/
def cvtElem (code : Nat) (rm : RMode) (a : Nat) : FRes :=
  match code with
  | 0 => fCvt .fp32 .fp16 rm a
  | 1 => fCvt .fp32 .bf16 rm a
  | 2 => fCvt .fp16 .fp32 rm a
  | 3 => fCvt .bf16 .fp32 rm a
  | 4 => fCvt .fp32 .fp64 rm a
  | 5 => fCvt .fp64 .fp32 rm a
  | 6 => fCvt8 .fp32 .e4m3 true rm a
  | 7 => fCvt8 .fp32 .e4m3 false rm a
  | 8 => fCvt8 .fp32 .e5m2 true rm a
  | 9 => fCvt8 .fp32 .e5m2 false rm a
  | 10 => fCvt .e4m3 .fp32 rm a
  | 11 => fCvt .e5m2 .fp32 rm a
  | 12 => fToInt .fp32 rm (-2 ^ 31) (2 ^ 31 - 1) 32 a
  | 13 => fToInt .fp32 rm 0 (2 ^ 32 - 1) 32 a
  | 14 => intToF .fp32 rm (signedOf 32 a)
  | 15 => intToF .fp32 rm a
  | 16 => fToInt .fp32 1 (-2 ^ 31) (2 ^ 31 - 1) 32 a
  | 17 => fToInt .fp64 rm (-2 ^ 63) (2 ^ 63 - 1) 64 a
  | 18 => intToF .fp64 rm (signedOf 64 a)
  | 19 => fToInt .fp16 rm (-2 ^ 15) (2 ^ 15 - 1) 16 a
  | 20 => intToF .fp16 rm (signedOf 16 a)
  | 21 => fToInt .fp32 rm (-128) 127 8 a
  | 22 => intToF .fp32 rm (signedOf 8 a)
  | 23 => intToF .fp32 rm a
  | 24 => fCvt8 .fp16 .e4m3 true rm a
  | 25 => fCvt .e4m3 .fp16 rm a
  | 26 => fCvt .fp32 .bf16 0 a
  | _ => fRint .fp32 rm a

/-- Element `i` of `n` bytes, counted from byte 0. -/
def packed (v : VReg) (n i : Nat) : Nat := field v (8 * n * i) (8 * n)

/-- `v` with its `i`-th element of `n` bytes replaced. -/
def setPacked (v : VReg) (n i x : Nat) : VReg :=
  (v &&& ~~~(BitVec.ofNat 1024 (2 ^ (8 * n) - 1) <<< (8 * n * i))) ||| (BitVec.ofNat 1024 (x % 2 ^ (8 * n)) <<< (8 * n * i))

/-- VFCVT (07 R159): narrow elements are packed at the low end; every other byte of vd keeps its value. -/
def execVfcvt (f : KV) (s : State) : Host.Outcome State Fault Refusal :=
  .next (s.issue (fun t =>
    let code := f.vs2.toNat
    let act := t.active f.ew f.pg
    let src := t.getV f.vs1
    let r := fun i => cvtElem code t.rm (packed src (cvtSizes code).1 i)
    let v := (List.range (elems f.ew)).foldl (fun v i => if act i then setPacked v (cvtSizes code).2 i (r i).bits else v)
      (t.getV f.vd)
    s.retire (((t.setV f.vd v).flag (orFlags f.ew act (fun i => (r i).flags))).vdone)))

/-! ## Reductions (03 R69, 07 R160) -/

/-- One round of the pairwise tree. -/
def pairUp (op : Nat → Nat → FRes) : List Nat → List Nat × Flags
  | a :: b :: t => let r := op a b; let q := pairUp op t; (r.bits :: q.1, r.flags ||| q.2)
  | l => (l, 0)

/-- The pairwise tree, `n` rounds. -/
def treeFold (op : Nat → Nat → FRes) : Nat → List Nat → Flags → FRes
  | 0, l, fl => { bits := l.headD 0, flags := fl }
  | n + 1, l, fl => let r := pairUp op l; treeFold op n r.1 (fl ||| r.2)

/-- A reduction over all elements, an inactive one giving the identity; element 0 of vd is the result, the others 0 (07 R160). -/
def State.vecRed (s : State) (f : KV) (ident : Nat) (op : Thread → Nat → Nat → FRes) : State :=
  s.issue (fun t =>
    let l := (List.range (elems f.ew)).map (fun i => if t.active f.ew f.pg i then t.va f i else ident)
    let r := treeFold (op t) 7 l 0
    s.retire (((t.setV f.vd (setElem 0 f.ew 0 r.bits)).flag r.flags).vdone))

/-- VREDSUM -/
def execVredsum (f : KV) (s : State) : Host.Outcome State Fault Refusal :=
  .next (s.vecRed f 0 (fun _ a b => { bits := (a + b) % 2 ^ ewBits f.ew, flags := 0 }))

/-- VREDMAX: signed; the identity is the most negative value. -/
def execVredmax (f : KV) (s : State) : Host.Outcome State Fault Refusal :=
  .next (s.vecRed f (2 ^ (ewBits f.ew - 1)) (fun _ a b => { bits := maxW (ewBits f.ew) a b, flags := 0 }))

/-- VREDMIN: signed; the identity is the most positive value. -/
def execVredmin (f : KV) (s : State) : Host.Outcome State Fault Refusal :=
  .next (s.vecRed f (2 ^ (ewBits f.ew - 1) - 1) (fun _ a b => { bits := minW (ewBits f.ew) a b, flags := 0 }))

/-- VFREDSUM: the identity is -0. -/
def execVfredsum (f : KV) (s : State) : Host.Outcome State Fault Refusal :=
  .next (s.vecRed f ((kvFmt f).signBit true) (fun t a b => fAdd (kvFmt f) t.rm a b))

/-- VFREDMAX: the identity is -∞. -/
def execVfredmax (f : KV) (s : State) : Host.Outcome State Fault Refusal :=
  .next (s.vecRed f ((kvFmt f).signBit true + (kvFmt f).infBits) (fun _ a b => fMinMax (kvFmt f) true a b))

/-- VFREDMIN: the identity is +∞. -/
def execVfredmin (f : KV) (s : State) : Host.Outcome State Fault Refusal :=
  .next (s.vecRed f (kvFmt f).infBits (fun _ a b => fMinMax (kvFmt f) false a b))

/-! ## Permutes and predicates (07 R161 to R164) -/

/-- VPERM -/
def execVperm (f : KV) (s : State) : Host.Outcome State Fault Refusal :=
  .next (s.vecInt f (fun t i => if t.vb f i < elems f.ew then t.va f (t.vb f i) else 0))

/-- VSLIDE: the amount is signed. -/
def execVslide (f : KV) (s : State) : Host.Outcome State Fault Refusal :=
  .next (s.vecInt f (fun t i =>
    let j : Int := i + (t.getX f.vs1).toInt
    if 0 ≤ j ∧ j < elems f.ew then t.va f j.toNat else 0))

/-- VIOTA: the number of active elements below. -/
def execViota (f : KV) (s : State) : Host.Outcome State Fault Refusal :=
  .next (s.vecInt f (fun t i => ((List.range i).filter (t.active f.ew f.pg)).length))

/-- VMV_XV: the lane in the vs2 field, sign-extended. -/
def execVmvXv (f : KV) (s : State) : Host.Outcome State Fault Refusal :=
  .next (s.issue (fun t =>
    let v := word ((signedOf (ewBits f.ew) (t.vb f f.vs2.toNat)) % 2 ^ 64).toNat
    s.retire ((t.setX f.vd v).vdone)))

/-- The predicate operations (04 R91, 07 R163). -/
def predOp (op : Nat) (a b : PReg) : PReg :=
  match op with
  | 0 => a &&& b
  | 1 => a ||| b
  | 2 => a ^^^ b
  | 3 => a &&& ~~~b
  | 4 => ~~~a
  | 5 => BitVec.allOnes 128
  | _ => 0

/-- VPRED: all 128 bits, whatever `kxvl` holds. -/
def execVpred (f : KV) (s : State) : Host.Outcome State Fault Refusal :=
  .next (s.issue (fun t =>
    s.retire ((t.setP f.vd.toNat (predOp f.vs2.toNat (t.getP f.vs1.toNat) (t.getP f.pg.toNat))).vdone)))

/-- VPCNT: the active elements of pg. -/
def execVpcnt (f : KV) (s : State) : Host.Outcome State Fault Refusal :=
  .next (s.issue (fun t =>
    s.retire ((t.setX f.vd (word ((List.range (elems f.ew)).filter (t.active f.ew f.pg)).length)).vdone)))

end Sys2Proof.Machine
end

