-- ==== Sys2Proof/Machine/VectorMem.lean ====
section
/-!
DEFINITION. Vector loads and stores (07 R165 to R169).
-/
namespace Sys2Proof.Machine

/-- The addressing modes of 07 R165. -/
inductive VMode where
  | unit | strided | indexed | broadcast
deriving DecidableEq, Repr

/-- The address of element `i` (07 R165). -/
def vAddr (t : Thread) (m : VMode) (f : KM) (i : Nat) : Word :=
  let base := t.getX f.rs1
  match m with
  | .unit => base + word (ewBytes f.ew * i)
  | .strided => base + t.getX f.f * word i
  | .indexed => base + (bits (t.getV f.f) (32 * i) 32).signExtend 64
  | .broadcast => base

/-- The elements that an access touches: active and at or above `kxvstart`. -/
def vElems (t : Thread) (f : KM) : List Nat :=
  (List.range (elems f.ew)).filter (fun i => t.vstart.toNat ≤ i && t.active f.ew f.pg i)

/-- The pieces of a load. -/
def vLoadPieces (t : Thread) (m : VMode) (f : KM) : List Piece :=
  (vElems t f).map (fun i => { off := ewBytes f.ew * i, va := vAddr t m f i, size := ewBytes f.ew, data := 0 })

/-- The access of a vector load: `vldb` reads once and spreads (07 R166). -/
def vLoadAcc (t : Thread) (m : VMode) (f : KM) : Acc :=
  let ps := vLoadPieces t m f
  match m with
  | .broadcast =>
    { Acc.plain .load ((ps.take 1).map (fun p => { p with off := 0 })) with
      nt := f.nt, mask := pieceMask ps, vec := true, spread := (vElems t f).map (fun i => ewBytes f.ew * i) }
  | _ => { Acc.plain .load ps with nt := f.nt, mask := pieceMask ps, vec := true }

/-- A vector load: vd is the reply register (07 R168). -/
def State.vload (s : State) (m : VMode) (f : KM) : State :=
  s.issue (fun t =>
    let a := vLoadAcc t m f
    s.readPath t t.vdone (32 + f.vd.toNat) a denyNone (((a.pieces.head?).map (·.va)).getD 0)
      (fun s t got => s.retire (t.putReply (32 + f.vd.toNat) (accValue a got) a.mask).vdone))

/-- The pieces of a store; `vstb` writes only the highest active element, which is also the one that its fault names (07 R166, R169, log 72). -/
def vStorePieces (t : Thread) (m : VMode) (f : KM) : List Piece :=
  let one := fun i => ({ off := ewBytes f.ew * i, va := vAddr t m f i, size := ewBytes f.ew, data := elem (t.getV f.vd) f.ew i } : Piece)
  match m with
  | .broadcast => ((vElems t f).getLast?).toList.map one
  | _ => (vElems t f).map one

/-- A vector store: posted (07 R168). -/
def State.vstore (s : State) (m : VMode) (f : KM) : State :=
  s.issue (fun t =>
    s.writePath t t.vdone { Acc.plain .store (vStorePieces t m f) with nt := f.nt, vec := true }
      (m == .unit) false)

/-- VLD -/
def execVld (f : KM) (s : State) : Host.Outcome State Fault Refusal := .next (s.vload .unit f)
/-- VLDS -/
def execVlds (f : KM) (s : State) : Host.Outcome State Fault Refusal := .next (s.vload .strided f)
/-- VLDX -/
def execVldx (f : KM) (s : State) : Host.Outcome State Fault Refusal := .next (s.vload .indexed f)
/-- VLDB -/
def execVldb (f : KM) (s : State) : Host.Outcome State Fault Refusal := .next (s.vload .broadcast f)
/-- VST -/
def execVst (f : KM) (s : State) : Host.Outcome State Fault Refusal := .next (s.vstore .unit f)
/-- VSTS -/
def execVsts (f : KM) (s : State) : Host.Outcome State Fault Refusal := .next (s.vstore .strided f)
/-- VSTX -/
def execVstx (f : KM) (s : State) : Host.Outcome State Fault Refusal := .next (s.vstore .indexed f)
/-- VSTB -/
def execVstb (f : KM) (s : State) : Host.Outcome State Fault Refusal := .next (s.vstore .broadcast f)

end Sys2Proof.Machine
end

