-- ==== Sys2Proof/Machine/Dispatch.lean ====
section
/-!
DEFINITION. The meaning of every instruction and step: one arm per constructor of `Instr`.
-/
namespace Sys2Proof.Machine

/-- What an instruction does: one direct call of its meaning. -/
def exec (i : Instr) (s : State) : Host.Outcome State Fault Refusal :=
  match i with
  | .load op rd rs1 imm => Sys2Proof.Machine.execLoad op rd rs1 imm s
  | .store op rs2 rs1 imm => Sys2Proof.Machine.execStore op rs2 rs1 imm s
  | .integerOp f => Sys2Proof.Machine.execIntegerOp f s
  | .lui rd imm => Sys2Proof.Machine.execLui rd imm s
  | .auipc rd imm => Sys2Proof.Machine.execAuipc rd imm s
  | .jal rd imm => Sys2Proof.Machine.execJal rd imm s
  | .jalr rd rs1 imm => Sys2Proof.Machine.execJalr rd rs1 imm s
  | .branch op rs1 rs2 imm => Sys2Proof.Machine.execBranch op rs1 rs2 imm s
  | .csrrw csr rs1 rd => Sys2Proof.Machine.execCsrrw csr rs1 rd s
  | .csrrs csr rs1 rd => Sys2Proof.Machine.execCsrrs csr rs1 rd s
  | .csrrc csr rs1 rd => Sys2Proof.Machine.execCsrrc csr rs1 rd s
  | .csrrwi csr uimm rd => Sys2Proof.Machine.execCsrrwi csr uimm rd s
  | .csrrsi csr uimm rd => Sys2Proof.Machine.execCsrrsi csr uimm rd s
  | .csrrci csr uimm rd => Sys2Proof.Machine.execCsrrci csr uimm rd s
  | .fence fm pred succ => Sys2Proof.Machine.execFence fm pred succ s
  | .quit rs1 scope => Sys2Proof.Machine.execQuit rs1 scope s
  | .spawn rd rs1 rs2 => Sys2Proof.Machine.execSpawn rd rs1 rs2 s
  | .fork rs1 rs2 => Sys2Proof.Machine.execFork rs1 rs2 s
  | .join rs1 => Sys2Proof.Machine.execJoin rs1 s
  | .taskSub rd rs1 => Sys2Proof.Machine.execTaskSub rd rs1 s
  | .launch rd rs1 => Sys2Proof.Machine.execLaunch rd rs1 s
  | .hl0 rs1 len => Sys2Proof.Machine.execHl0 rs1 len s
  | .hl1 rs1 len => Sys2Proof.Machine.execHl1 rs1 len s
  | .hl0i uimm len => Sys2Proof.Machine.execHl0i uimm len s
  | .hl1i uimm len => Sys2Proof.Machine.execHl1i uimm len s
  | .gSet g rs1 => Sys2Proof.Machine.execGSet g rs1 s
  | .gClr g => Sys2Proof.Machine.execGClr g s
  | .bEod q dim imm => Sys2Proof.Machine.execBEod q dim imm s
  | .bNeod q dim imm => Sys2Proof.Machine.execBNeod q dim imm s
  | .lda f => Sys2Proof.Machine.execLda f s
  | .ldsc f => Sys2Proof.Machine.execLdsc f s
  | .stl f => Sys2Proof.Machine.execStl f s
  | .stsc f => Sys2Proof.Machine.execStsc f s
  | .amoAdd f => Sys2Proof.Machine.execAmoAdd f s
  | .amoAnd f => Sys2Proof.Machine.execAmoAnd f s
  | .amoOr f => Sys2Proof.Machine.execAmoOr f s
  | .amoXor f => Sys2Proof.Machine.execAmoXor f s
  | .amoMin f => Sys2Proof.Machine.execAmoMin f s
  | .amoMax f => Sys2Proof.Machine.execAmoMax f s
  | .amoMinu f => Sys2Proof.Machine.execAmoMinu f s
  | .amoMaxu f => Sys2Proof.Machine.execAmoMaxu f s
  | .amoSwap f => Sys2Proof.Machine.execAmoSwap f s
  | .amoCas f => Sys2Proof.Machine.execAmoCas f s
  | .amoFadd f => Sys2Proof.Machine.execAmoFadd f s
  | .amoFmax f => Sys2Proof.Machine.execAmoFmax f s
  | .amoFmin f => Sys2Proof.Machine.execAmoFmin f s
  | .waitNe rd rs2 rs1 => Sys2Proof.Machine.execWaitNe rd rs2 rs1 s
  | .waitEq rd rs2 rs1 => Sys2Proof.Machine.execWaitEq rd rs2 rs1 s
  | .fenceAcq scope => Sys2Proof.Machine.execFenceAcq scope s
  | .fenceRel scope => Sys2Proof.Machine.execFenceRel scope s
  | .fenceAr scope => Sys2Proof.Machine.execFenceAr scope s
  | .fenceSc scope => Sys2Proof.Machine.execFenceSc scope s
  | .barInit rs1 rs2 => Sys2Proof.Machine.execBarInit rs1 rs2 s
  | .barArrive rd rs1 rs2 => Sys2Proof.Machine.execBarArrive rd rs1 rs2 s
  | .barWait rs1 rs2 => Sys2Proof.Machine.execBarWait rs1 rs2 s
  | .barAw rd rs1 => Sys2Proof.Machine.execBarAw rd rs1 s
  | .resAcq vd rs1 => Sys2Proof.Machine.execResAcq vd rs1 s
  | .resRel vs rs1 rs2 => Sys2Proof.Machine.execResRel vs rs1 rs2 s
  | .qBind q rs1 => Sys2Proof.Machine.execQBind q rs1 s
  | .qPop rd q => Sys2Proof.Machine.execQPop rd q s
  | .qPush q rs1 => Sys2Proof.Machine.execQPush q rs1 s
  | .vqPop vd q => Sys2Proof.Machine.execVqPop vd q s
  | .vqPush q vs => Sys2Proof.Machine.execVqPush q vs s
  | .qStat rd q => Sys2Proof.Machine.execQStat rd q s
  | .qClose q => Sys2Proof.Machine.execQClose q s
  | .mxIssue vs sel => Sys2Proof.Machine.execMxIssue vs sel s
  | .cpIssue vs sel => Sys2Proof.Machine.execCpIssue vs sel s
  | .collPost rd rs1 => Sys2Proof.Machine.execCollPost rd rs1 s
  | .redSend vs rs1 => Sys2Proof.Machine.execRedSend vs rs1 s
  | .redRecv vd rs1 => Sys2Proof.Machine.execRedRecv vd rs1 s
  | .wbCfg rs1 rs2 => Sys2Proof.Machine.execWbCfg rs1 rs2 s
  | .wbRd rd rs1 => Sys2Proof.Machine.execWbRd rd rs1 s
  | .wbClr rs1 => Sys2Proof.Machine.execWbClr rs1 s
  | .wbAck rs1 => Sys2Proof.Machine.execWbAck rs1 s
  | .cenMode rs1 => Sys2Proof.Machine.execCenMode rs1 s
  | .cenBuf rs1 => Sys2Proof.Machine.execCenBuf rs1 s
  | .cenRd rd rs1 => Sys2Proof.Machine.execCenRd rd rs1 s
  | .icInv scope => Sys2Proof.Machine.execIcInv scope s
  | .icPin rs1 rs2 level => Sys2Proof.Machine.execIcPin rs1 rs2 level s
  | .icUnpin rs1 rs2 => Sys2Proof.Machine.execIcUnpin rs1 rs2 s
  | .icPf rs1 rs2 level => Sys2Proof.Machine.execIcPf rs1 rs2 level s
  | .spPin rs1 rs2 => Sys2Proof.Machine.execSpPin rs1 rs2 s
  | .spUnpin rs1 rs2 => Sys2Proof.Machine.execSpUnpin rs1 rs2 s
  | .spFlush rs1 rs2 => Sys2Proof.Machine.execSpFlush rs1 rs2 s
  | .tlbInv rs1 scope => Sys2Proof.Machine.execTlbInv rs1 scope s
  | .contResume rs1 => Sys2Proof.Machine.execContResume rs1 s
  | .contSkip rs1 => Sys2Proof.Machine.execContSkip rs1 s
  | .contKill rs1 => Sys2Proof.Machine.execContKill rs1 s
  | .contMove rs1 rs2 => Sys2Proof.Machine.execContMove rs1 rs2 s
  | .mbBind rs1 rs2 => Sys2Proof.Machine.execMbBind rs1 rs2 s
  | .mbUnbind rs1 => Sys2Proof.Machine.execMbUnbind rs1 s
  | .trcMark imm => Sys2Proof.Machine.execTrcMark imm s
  | .vadd f => Sys2Proof.Machine.execVadd f s
  | .vsub f => Sys2Proof.Machine.execVsub f s
  | .vmul f => Sys2Proof.Machine.execVmul f s
  | .vmulh f => Sys2Proof.Machine.execVmulh f s
  | .vmulhu f => Sys2Proof.Machine.execVmulhu f s
  | .vmin f => Sys2Proof.Machine.execVmin f s
  | .vmax f => Sys2Proof.Machine.execVmax f s
  | .vminu f => Sys2Proof.Machine.execVminu f s
  | .vmaxu f => Sys2Proof.Machine.execVmaxu f s
  | .vand f => Sys2Proof.Machine.execVand f s
  | .vor f => Sys2Proof.Machine.execVor f s
  | .vxor f => Sys2Proof.Machine.execVxor f s
  | .vsll f => Sys2Proof.Machine.execVsll f s
  | .vsrl f => Sys2Proof.Machine.execVsrl f s
  | .vsra f => Sys2Proof.Machine.execVsra f s
  | .vsel f => Sys2Proof.Machine.execVsel f s
  | .vaddVx f => Sys2Proof.Machine.execVaddVx f s
  | .vsubVx f => Sys2Proof.Machine.execVsubVx f s
  | .vmulVx f => Sys2Proof.Machine.execVmulVx f s
  | .vandVx f => Sys2Proof.Machine.execVandVx f s
  | .vsllVx f => Sys2Proof.Machine.execVsllVx f s
  | .vsrlVx f => Sys2Proof.Machine.execVsrlVx f s
  | .vsraVx f => Sys2Proof.Machine.execVsraVx f s
  | .vmvVx f => Sys2Proof.Machine.execVmvVx f s
  | .vseq f => Sys2Proof.Machine.execVseq f s
  | .vsne f => Sys2Proof.Machine.execVsne f s
  | .vslt f => Sys2Proof.Machine.execVslt f s
  | .vsltu f => Sys2Proof.Machine.execVsltu f s
  | .vsle f => Sys2Proof.Machine.execVsle f s
  | .vsleu f => Sys2Proof.Machine.execVsleu f s
  | .vseqVx f => Sys2Proof.Machine.execVseqVx f s
  | .vsltVx f => Sys2Proof.Machine.execVsltVx f s
  | .vfadd f => Sys2Proof.Machine.execVfadd f s
  | .vfsub f => Sys2Proof.Machine.execVfsub f s
  | .vfmul f => Sys2Proof.Machine.execVfmul f s
  | .vfma f => Sys2Proof.Machine.execVfma f s
  | .vfnma f => Sys2Proof.Machine.execVfnma f s
  | .vfmin f => Sys2Proof.Machine.execVfmin f s
  | .vfmax f => Sys2Proof.Machine.execVfmax f s
  | .vfdiv f => Sys2Proof.Machine.execVfdiv f s
  | .vfsqrt f => Sys2Proof.Machine.execVfsqrt f s
  | .vfrcp f => Sys2Proof.Machine.execVfrcp f s
  | .vfexp2 f => Sys2Proof.Machine.execVfexp2 f s
  | .vflog2 f => Sys2Proof.Machine.execVflog2 f s
  | .vfcvt f => Sys2Proof.Machine.execVfcvt f s
  | .vfeq f => Sys2Proof.Machine.execVfeq f s
  | .vflt f => Sys2Proof.Machine.execVflt f s
  | .vfle f => Sys2Proof.Machine.execVfle f s
  | .vfaddVx f => Sys2Proof.Machine.execVfaddVx f s
  | .vfmulVx f => Sys2Proof.Machine.execVfmulVx f s
  | .vfmaVx f => Sys2Proof.Machine.execVfmaVx f s
  | .vfmaxVx f => Sys2Proof.Machine.execVfmaxVx f s
  | .vredsum f => Sys2Proof.Machine.execVredsum f s
  | .vredmax f => Sys2Proof.Machine.execVredmax f s
  | .vredmin f => Sys2Proof.Machine.execVredmin f s
  | .vfredsum f => Sys2Proof.Machine.execVfredsum f s
  | .vfredmax f => Sys2Proof.Machine.execVfredmax f s
  | .vfredmin f => Sys2Proof.Machine.execVfredmin f s
  | .vperm f => Sys2Proof.Machine.execVperm f s
  | .vslide f => Sys2Proof.Machine.execVslide f s
  | .viota f => Sys2Proof.Machine.execViota f s
  | .vmvXv f => Sys2Proof.Machine.execVmvXv f s
  | .vpred f => Sys2Proof.Machine.execVpred f s
  | .vpcnt f => Sys2Proof.Machine.execVpcnt f s
  | .vld f => Sys2Proof.Machine.execVld f s
  | .vlds f => Sys2Proof.Machine.execVlds f s
  | .vldx f => Sys2Proof.Machine.execVldx f s
  | .vldb f => Sys2Proof.Machine.execVldb f s
  | .vst f => Sys2Proof.Machine.execVst f s
  | .vsts f => Sys2Proof.Machine.execVsts f s
  | .vstx f => Sys2Proof.Machine.execVstx f s
  | .vstb f => Sys2Proof.Machine.execVstb f s
  | .forcedYield core slot => Sys2Proof.Machine.execForcedYield core slot s
  | .slotFill core => Sys2Proof.Machine.execSlotFill core s
  | .recordReply r reply => Sys2Proof.Machine.execRecordReply r reply s
  | .storeBufferLeave core => Sys2Proof.Machine.execStoreBufferLeave core s
  | .writeAck quad id => Sys2Proof.Machine.execWriteAck quad id s
  | .homeWrite w => Sys2Proof.Machine.execHomeWrite w s
  | .homeRequest r => Sys2Proof.Machine.execHomeRequest r s
  | .homeAmo a => Sys2Proof.Machine.execHomeAmo a s
  | .homeReservation r => Sys2Proof.Machine.execHomeReservation r s
  | .wcBufferTimeout core slot => Sys2Proof.Machine.execWcBufferTimeout core slot s
  | .pageInComplete p => Sys2Proof.Machine.execPageInComplete p s
  | .icacheFill r => Sys2Proof.Machine.execIcacheFill r s
  | .tlbWalkComplete r => Sys2Proof.Machine.execTlbWalkComplete r s
  | .repairRetry node line => Sys2Proof.Machine.execRepairRetry node line s
  | .repairPoison node line => Sys2Proof.Machine.execRepairPoison node line s
  | .queueTailWrite q tail => Sys2Proof.Machine.execQueueTailWrite q tail s
  | .arbiterGrant die => Sys2Proof.Machine.execArbiterGrant die s
  | .portRemap die => Sys2Proof.Machine.execPortRemap die s
  | .dispatcherTake ln => Sys2Proof.Machine.execDispatcherTake ln s
  | .keyRequest m => Sys2Proof.Machine.execKeyRequest m s
  | .keyGrant m => Sys2Proof.Machine.execKeyGrant m s
  | .keyRelease m => Sys2Proof.Machine.execKeyRelease m s
  | .governorPeriod node => Sys2Proof.Machine.execGovernorPeriod node s
  | .stealRequest thief victim => Sys2Proof.Machine.execStealRequest thief victim s
  | .stealAnswer thief task => Sys2Proof.Machine.execStealAnswer thief task s
  | .stealPauseEnd thief => Sys2Proof.Machine.execStealPauseEnd thief s
  | .watchdogT1 q => Sys2Proof.Machine.execWatchdogT1 q s
  | .watchdogT2 q => Sys2Proof.Machine.execWatchdogT2 q s
  | .watchdogT3 q => Sys2Proof.Machine.execWatchdogT3 q s
  | .mnop c => Sys2Proof.Machine.execMnop c s
  | .mma c => Sys2Proof.Machine.execMma c s
  | .mzero c => Sys2Proof.Machine.execMzero c s
  | .mload c => Sys2Proof.Machine.execMload c s
  | .mdrain c => Sys2Proof.Machine.execMdrain c s
  | .mdrq c => Sys2Proof.Machine.execMdrq c s
  | .msums c => Sys2Proof.Machine.execMsums c s
  | .mgrp c => Sys2Proof.Machine.execMgrp c s
  | .mbar c => Sys2Proof.Machine.execMbar c s
  | .tileCommandComplete c => Sys2Proof.Machine.execTileCommandComplete c s
  | .poolForward c => Sys2Proof.Machine.execPoolForward c s
  | .groupForward c => Sys2Proof.Machine.execGroupForward c s
  | .copyStart c => Sys2Proof.Machine.execCopyStart c s
  | .copyComplete c => Sys2Proof.Machine.execCopyComplete c s
  | .barrierInitApply m exp cen => Sys2Proof.Machine.execBarrierInitApply m exp cen s
  | .barrierArrivalApply m bytes err => Sys2Proof.Machine.execBarrierArrivalApply m bytes err s
  | .barrierByteCount b bytes err quad site copy => Sys2Proof.Machine.execBarrierByteCount b bytes err quad site copy s
  | .collStart pp => Sys2Proof.Machine.execCollStart pp s
  | .collReleased coll rank => Sys2Proof.Machine.execCollReleased coll rank s
  | .collReady coll rank => Sys2Proof.Machine.execCollReady coll rank s
  | .collDone coll rank => Sys2Proof.Machine.execCollDone coll rank s
  | .reductionInput r => Sys2Proof.Machine.execReductionInput r s
  | .reductionResult r => Sys2Proof.Machine.execReductionResult r s
  | .roundTimeout node tree tag => Sys2Proof.Machine.execRoundTimeout node tree tag s
  | .roundDiscardExpiry node tree tag => Sys2Proof.Machine.execRoundDiscardExpiry node tree tag s
  | .channelElementsArrive c elems => Sys2Proof.Machine.execChannelElementsArrive c elems s
  | .channelCreditReturn c n => Sys2Proof.Machine.execChannelCreditReturn c n s
  | .linkReplayRequest l => Sys2Proof.Machine.execLinkReplayRequest l s
  | .linkRetrainTimeout l => Sys2Proof.Machine.execLinkRetrainTimeout l s
  | .relayPacket relay dst w => Sys2Proof.Machine.execRelayPacket relay dst w s
  | .quiesceTimeout node => Sys2Proof.Machine.execQuiesceTimeout node s
  | .clockLock node up => Sys2Proof.Machine.execClockLock node up s
  | .clockLockTimeout node => Sys2Proof.Machine.execClockLockTimeout node s
  | .linkTrained node => Sys2Proof.Machine.execLinkTrained node s
  | .selfTestDone node pass => Sys2Proof.Machine.execSelfTestDone node pass s
  | .throttleUp region => Sys2Proof.Machine.execThrottleUp region s
  | .throttleDown region => Sys2Proof.Machine.execThrottleDown region s
  | .debugHaltRequest core => Sys2Proof.Machine.execDebugHaltRequest core s
  | .debugResumeRequest core => Sys2Proof.Machine.execDebugResumeRequest core s
  | .debugAbstractCommand core slot reg write => Sys2Proof.Machine.execDebugAbstractCommand core slot reg write s
  | .engerrClear node quad copy v => Sys2Proof.Machine.execEngerrClear node quad copy v s
  | .cendivClear node quad v => Sys2Proof.Machine.execCendivClear node quad v s
  | .registerWrite r v => Sys2Proof.Machine.execRegisterWrite r v s
  | .illegalInstruction w => Sys2Proof.Machine.execIllegalInstruction w s
  | .retrainReachesActive l => Sys2Proof.Machine.execRetrainReachesActive l s
  | .channelCloseArrives c => Sys2Proof.Machine.execChannelCloseArrives c s
  | .ecall => Sys2Proof.Machine.execEcall s
  | .ebreak => Sys2Proof.Machine.execEbreak s
  | .fenceI => Sys2Proof.Machine.execFenceI s
  | .yield => Sys2Proof.Machine.execYield s
  | .coldReset => Sys2Proof.Machine.execColdReset s
  | .configurationPhase => Sys2Proof.Machine.execConfigurationPhase s
  | .packagePowerOver => Sys2Proof.Machine.execPackagePowerOver s
  | .stallMapSample => Sys2Proof.Machine.execStallMapSample s
  | .identify => Sys2Proof.Machine.execIdentify s
  | .negotiateFeatures => Sys2Proof.Machine.execNegotiateFeatures s
  | .attest => Sys2Proof.Machine.execAttest s
  | .createPartition => Sys2Proof.Machine.execCreatePartition s
  | .destroyPartition => Sys2Proof.Machine.execDestroyPartition s
  | .createQueue => Sys2Proof.Machine.execCreateQueue s
  | .destroyQueue => Sys2Proof.Machine.execDestroyQueue s
  | .setQueuePriority => Sys2Proof.Machine.execSetQueuePriority s
  | .setAgeing => Sys2Proof.Machine.execSetAgeing s
  | .setWatchdog => Sys2Proof.Machine.execSetWatchdog s
  | .preempt => Sys2Proof.Machine.execPreempt s
  | .killLaunch => Sys2Proof.Machine.execKillLaunch s
  | .resetCompute => Sys2Proof.Machine.execResetCompute s
  | .readHarvestMap => Sys2Proof.Machine.execReadHarvestMap s
  | .writeNst => Sys2Proof.Machine.execWriteNst s
  | .writeTree => Sys2Proof.Machine.execWriteTree s
  | .loadPortFirmware => Sys2Proof.Machine.execLoadPortFirmware s
  | .setStallMap => Sys2Proof.Machine.execSetStallMap s
  | .setPowerCap => Sys2Proof.Machine.execSetPowerCap s
  | .readLog => Sys2Proof.Machine.execReadLog s
  | .unknownCommand => Sys2Proof.Machine.execUnknownCommand s

end Sys2Proof.Machine
end

