-- ==== Sys2Proof/Machine/Moves.lean ====
section
/-!
DEFINITION. The moves of the machine: the issue of a slot, a step that is due, and a step that finds the line it reads or writes uncorrectable (01 R13, 15
R316, log 3).
-/
namespace Sys2Proof.Machine

/-- The place, the address and the task of a request that comes to its home, in the memory that the module holds: an access, a walk, an operand line, a copy
piece (15 R316). -/
def State.requestAt (s : State) (i : Instr) : Option (Nat × Word × Nat) :=
  let ofRec : RecRef → Option (Nat × Word × Nat) := fun r => match s.recOf r with
    | none => none
    | some x => match x.want with
      | .access a => match a.pieces with
        | [] => none
        | p :: _ =>
          let tk := s.task x.task
          let k := s.pcore (s.physOf tk.lc)
          (s.trPa (s.translate tk.lc tk.launch x.smode (s.csrs tk.lc).satp k.tlb a.op.kind p.va)).map (fun (e : Nat × MemType) => (e.1, p.va, x.task))
      | _ => none
  let walk : RecRef → Option (Nat × Word × Nat) := fun r => match s.recOf r with
    | none => none
    | some x => match x.want with
      | .access a => (a.pieces.head?).bind (fun p =>
        let l := s.tableReads (s.csrs r.lc).satp p.va
        if inSpadSpace p.va.toNat then none else (l[s.freeN % l.length]?).map (fun pa => (pa, p.va, x.task)))
      | _ => none
  -- the next operand line of a tile command, and a source line of the next piece of a copy
  let tile : CmdRef → Option (Nat × Word × Nat) := fun r => (s.cmdOf r).bind (fun c =>
    let left := (s.opKeys r.lq c).filter (fun k => (c.cap.find k).isNone)
    if c.st = .started then (left[s.freeN % left.length]?).bind (fun k => (s.keyPa r.lq c k).map (fun pa => (pa, 0, c.task))) else none)
  let copy : CmdRef → Option (Nat × Word × Nat) := fun r => (s.copyOfRef r).bind (fun x =>
    let sva := Cd.src x.d + x.row * Cd.sstr x.d + x.pos
    if Cd.kind x.d = 1 then none else (s.copyPa r.lq x .load sva).2.map (fun pa => (pa, word sva, x.task)))
  let r : Option (Nat × Word × Nat) := match i with
    | .mma r => tile r
    | .mload r => tile r
    | .mdrq r => tile r
    | .msums r => tile r
    | .copyStart r => copy r
    | .tlbWalkComplete r => walk r
    | .homeWrite w => (w.cells.head?).map (fun e => (e.1, w.va, w.task))
    | .homeAmo a => some (a.pa, a.va, a.task)
    | .homeRequest r => ofRec r
    | .homeReservation r => ofRec r
    | .icacheFill r => ofRec r
    | _ => none
  r.filter (fun e => regionOf e.1 == 0 || regionOf e.1 == 1 || regionOf e.1 == 5)

/-- The moves that are possible. -/
def State.moves (s : State) : List Move :=
  (match s.nextPlace with | some p => [Move.issue p] | none => []) ++ (List.range s.agenda.length).map Move.event ++
    ((s.agenda.zipIdx).filter (fun e => (s.requestAt e.1).isSome)).map (fun e => Move.error e.2)

/-- The step at place `n` of the agenda finds its line uncorrectable (15 R316). -/
def State.errorAt (s : State) (n : Nat) : State :=
  match s.agenda[n]?.bind s.requestAt with
  | some (pa, va, task) => s.findError pa va task
  | none => s

/-- The move that a free value picks; a step on the agenda comes after the earlier ones of its lane. -/
def State.pickMove (s : State) (l : List Move) : Move :=
  match l[(Config.freeNat s.free + s.free) % l.length]? with
  | some (.event n) => .event (s.laneHead n)
  | some m => m
  | none => .event 0

end Sys2Proof.Machine
end

