-- ==== Sys2Proof/Machine/Step.lean ====
section
/-!
DEFINITION. One step of the machine: a step of another agent that is due, or one instruction of the slot whose turn it is.
-/
namespace Sys2Proof.Machine

/-- The turn passes on after an instruction. -/
def passTurn : Host.Outcome State Fault Refusal → Host.Outcome State Fault Refusal
  | .next s => .next s.endTurn
  | r => r

/-- The slot `p` issues: the fetch, the boundary, the instruction (01 R13, 15 R306). -/
def issueAt (s : State) (p : Nat × Nat) : Host.Outcome State Fault Refusal :=
  if (s.takeTurn p).mustDie then passTurn (exec (.forcedYield p.1 p.2) (s.takeTurn p))
  else match (s.takeTurn p).fetch with
  | .stop s1 => .next s1.endTurn
  | .word w =>
    match decodeWord w with
    | .error _ => passTurn (exec (.illegalInstruction w) (s.takeTurn p))
    | .ok i =>
      if (s.takeTurn p).mustYield && !(s.takeTurn p).illegalNow i then passTurn (exec (.forcedYield p.1 p.2) (s.takeTurn p))
      else passTurn (exec i (s.takeTurn p).begin)

/-- One step: a step of another agent that is due or the issue of the slot whose turn it is, which of them being a free choice where
there are several (log 3); with nothing to do the clock goes on. -/
def step (s : State) : Host.Outcome State Fault Refusal :=
  match s.moves with
  | [] => .next s.idle
  | [m] => run s m
  | l => run s.drew (s.pickMove l)
where
  /-- Carry out a move. -/
  run (s : State) : Move → Host.Outcome State Fault Refusal
    | .issue p => issueAt s p
    | .event n => match s.agenda[n]? with
      | none => .next s
      | some i => exec i { s with agenda := s.agenda.eraseIdx n }
    | .error n => .next (s.errorAt n)

/-- The state with an instruction placed where the next step fetches it: partition 1 of node 0 with one task, its thread in slot 0 of
core 0 at the first address of HBM, the line in the core's I-cache, and nothing else due (log 12). -/
def State.withFetchWord (s : State) (nbits w : Nat) : State := s.placeProgram (toBytes 4 (w % 2 ^ nbits))

end Sys2Proof.Machine
end

