-- ==== Sys2Proof/Safety.lean ====
section
/-!
DEFINITION. What counts as a safe step and a safe run.
-/
namespace Sys2Proof.Machine

/-- The step answers a next state: no fault and no refusal. -/
def stepsOn (s : State) : Prop := ∃ t, step s = .next t

/-- A state is reached from `s` by steps that all answer a next state. -/
inductive Reaches : State → State → Prop where
  | refl (s : State) : Reaches s s
  | more (s t u : State) : step s = .next t → Reaches t u → Reaches s u

end Sys2Proof.Machine
end

