-- ==== Sys2Proof/Certificates/Slice0/Obligations.lean ====
section
/-!
DEFINITION. What is claimed of the model: one closed proposition for each obligation, with the vocabulary that they share.
-/
namespace Sys2Proof.Claims

open Sys2Proof.Machine

/-! ## Who issues -/

/-- Thread `t` is in the slot whose turn it is, and a reservation section that it is in has instructions left (01 R13, 06 R141). -/
def Issues (s : State) (t : Thread) : Prop := s.cur = some t ∧ ∀ r, t.resv = some r → r.count ≤ 16

/-- The thread issues outside a reservation section. -/
def IssuesFree (s : State) (t : Thread) : Prop := s.cur = some t ∧ t.resv = none

/-- `s'` differs from `s` in nothing but the thread in the slot whose turn it is, which is `t` now: every other register of the
machine and every byte of memory is as before. -/
def OnlyThread (s s' : State) (t : Thread) : Prop := s' = s.putCur t

/-! ## RV64 results, as numbers (03 R54, 04 R76) -/

/-- The integer that the low 32 bits of `n` hold. -/
def int32 (n : Nat) : Int := (n : Int).bmod (2 ^ 32)

/-- `v` is the result of a register-register operation on `x` and `y`. -/
def ResultRR (op : AluRR) (x y v : Word) : Prop :=
  match op with
  | .add => v.toNat = (x.toNat + y.toNat) % 2 ^ 64
  | .sub => v.toNat = (x.toNat + (2 ^ 64 - y.toNat)) % 2 ^ 64
  | .sll => v.toNat = x.toNat * 2 ^ (y.toNat % 64) % 2 ^ 64
  | .slt => v.toNat = if x.toInt < y.toInt then 1 else 0
  | .sltu => v.toNat = if x.toNat < y.toNat then 1 else 0
  | .xor => ∀ i, v.getLsbD i = (x.getLsbD i != y.getLsbD i)
  | .srl => v.toNat = x.toNat / 2 ^ (y.toNat % 64)
  | .sra => v.toInt = x.toInt / 2 ^ (y.toNat % 64)
  | .or => ∀ i, v.getLsbD i = (x.getLsbD i || y.getLsbD i)
  | .and => ∀ i, v.getLsbD i = (x.getLsbD i && y.getLsbD i)
  | .addw => v.toInt = int32 (x.toNat + y.toNat)
  | .subw => v.toInt = int32 (x.toNat + (2 ^ 64 - y.toNat))
  | .sllw => v.toInt = int32 (x.toNat * 2 ^ (y.toNat % 32))
  | .srlw => v.toInt = int32 (x.toNat % 2 ^ 32 / 2 ^ (y.toNat % 32))
  | .sraw => v.toInt = int32 x.toNat / 2 ^ (y.toNat % 32)
  | .mul => v.toNat = x.toNat * y.toNat % 2 ^ 64
  | .mulh => v.toInt = x.toInt * y.toInt / 2 ^ 64
  | .mulhsu => v.toInt = x.toInt * y.toNat / 2 ^ 64
  | .mulhu => v.toNat = x.toNat * y.toNat / 2 ^ 64
  | .div => if y.toNat = 0 then v.toInt = -1 else v.toInt = (x.toInt.tdiv y.toInt).bmod (2 ^ 64)
  | .divu => if y.toNat = 0 then v.toNat = 2 ^ 64 - 1 else v.toNat = x.toNat / y.toNat
  | .rem => if y.toNat = 0 then v = x else v.toInt = x.toInt.tmod y.toInt
  | .remu => if y.toNat = 0 then v = x else v.toNat = x.toNat % y.toNat
  | .mulw => v.toInt = int32 (x.toNat * y.toNat)
  | .divw => if y.toNat % 2 ^ 32 = 0 then v.toInt = -1
             else v.toInt = ((int32 x.toNat).tdiv (int32 y.toNat)).bmod (2 ^ 32)
  | .divuw => if y.toNat % 2 ^ 32 = 0 then v.toInt = -1
              else v.toInt = int32 (x.toNat % 2 ^ 32 / (y.toNat % 2 ^ 32))
  | .remw => if y.toNat % 2 ^ 32 = 0 then v.toInt = int32 x.toNat else v.toInt = (int32 x.toNat).tmod (int32 y.toNat)
  | .remuw => if y.toNat % 2 ^ 32 = 0 then v.toInt = int32 x.toNat
              else v.toInt = int32 (x.toNat % 2 ^ 32 % (y.toNat % 2 ^ 32))
  | .adduw => v.toNat = (x.toNat % 2 ^ 32 + y.toNat) % 2 ^ 64
  | .sh1add => v.toNat = (2 * x.toNat + y.toNat) % 2 ^ 64
  | .sh2add => v.toNat = (4 * x.toNat + y.toNat) % 2 ^ 64
  | .sh3add => v.toNat = (8 * x.toNat + y.toNat) % 2 ^ 64
  | .sh1adduw => v.toNat = (2 * (x.toNat % 2 ^ 32) + y.toNat) % 2 ^ 64
  | .sh2adduw => v.toNat = (4 * (x.toNat % 2 ^ 32) + y.toNat) % 2 ^ 64
  | .sh3adduw => v.toNat = (8 * (x.toNat % 2 ^ 32) + y.toNat) % 2 ^ 64
  | .andn => ∀ i, i < 64 → v.getLsbD i = (x.getLsbD i && !y.getLsbD i)
  | .orn => ∀ i, i < 64 → v.getLsbD i = (x.getLsbD i || !y.getLsbD i)
  | .xnor => ∀ i, i < 64 → v.getLsbD i = (x.getLsbD i == y.getLsbD i)
  | .max => v.toInt = max x.toInt y.toInt
  | .maxu => v.toNat = max x.toNat y.toNat
  | .min => v.toInt = min x.toInt y.toInt
  | .minu => v.toNat = min x.toNat y.toNat
  | .rol => ∀ i, i < 64 → v.getLsbD ((i + y.toNat % 64) % 64) = x.getLsbD i
  | .ror => ∀ i, i < 64 → v.getLsbD i = x.getLsbD ((i + y.toNat % 64) % 64)

/-- `v` is the result of an operation with the sign-extended immediate `n`. -/
def ResultImm (op : AluImm) (x : Word) (n : Int) (v : Word) : Prop :=
  match op with
  | .addi => v.toInt = (x.toInt + n).bmod (2 ^ 64)
  | .slti => v.toNat = if x.toInt < n then 1 else 0
  | .sltiu => v.toNat = if x.toNat < (BitVec.ofInt 64 n).toNat then 1 else 0
  | .xori => ∀ i, v.getLsbD i = (x.getLsbD i != (BitVec.ofInt 64 n).getLsbD i)
  | .ori => ∀ i, v.getLsbD i = (x.getLsbD i || (BitVec.ofInt 64 n).getLsbD i)
  | .andi => ∀ i, v.getLsbD i = (x.getLsbD i && (BitVec.ofInt 64 n).getLsbD i)
  | .addiw => v.toInt = (x.toInt + n).bmod (2 ^ 32)

/-- `v` is the result of a shift by `n`. -/
def ResultSh6 (op : AluSh6) (x : Word) (n : Nat) (v : Word) : Prop :=
  match op with
  | .slli => v.toNat = x.toNat * 2 ^ n % 2 ^ 64
  | .srli => v.toNat = x.toNat / 2 ^ n
  | .srai => v.toInt = x.toInt / 2 ^ n
  | .rori => ∀ i, i < 64 → v.getLsbD i = x.getLsbD ((i + n) % 64)
  | .slliuw => v.toNat = x.toNat % 2 ^ 32 * 2 ^ n % 2 ^ 64

/-- `v` is the result of a word shift by `n`. -/
def ResultSh5 (op : AluSh5) (x : Word) (n : Nat) (v : Word) : Prop :=
  match op with
  | .slliw => v.toInt = int32 (x.toNat * 2 ^ n)
  | .srliw => v.toInt = int32 (x.toNat % 2 ^ 32 / 2 ^ n)
  | .sraiw => v.toInt = int32 x.toNat / 2 ^ n

/-- `v` counts the zeros above the highest set bit of the `w`-bit number `n`. -/
def LeadingZeros (w n v : Nat) : Prop := v ≤ w ∧ n < 2 ^ (w - v) ∧ (v < w → 2 ^ (w - v - 1) ≤ n)

/-- `v` counts the zeros below the lowest set bit of the `w`-bit number `n`. -/
def TrailingZeros (w n v : Nat) : Prop := v ≤ w ∧ (∀ i, i < v → n.testBit i = false) ∧ (v < w → n.testBit v = true)

/-- `v` is the result of a one-operand operation on `x`. -/
def ResultUn (op : AluUn) (x v : Word) : Prop :=
  match op with
  | .clz => LeadingZeros 64 x.toNat v.toNat
  | .clzw => LeadingZeros 32 (x.toNat % 2 ^ 32) v.toNat
  | .ctz => TrailingZeros 64 x.toNat v.toNat
  | .ctzw => TrailingZeros 32 (x.toNat % 2 ^ 32) v.toNat
  | .cpop => v.toNat = ((List.range 64).filter (fun i => x.getLsbD i)).length
  | .cpopw => v.toNat = ((List.range 32).filter (fun i => x.getLsbD i)).length
  | .sextb => v.toInt = (x.toNat : Int).bmod (2 ^ 8)
  | .sexth => v.toInt = (x.toNat : Int).bmod (2 ^ 16)
  | .zexth => v.toNat = x.toNat % 2 ^ 16
  | .rev8 => ∀ i, i < 8 → bits v (8 * i) 8 = bits x (56 - 8 * i) 8
  | .orcb => ∀ i, i < 8 → bits v (8 * i) 8 = if bits x (8 * i) 8 = 0 then 0 else 0xFF

/-- The condition of a branch. -/
def Taken (op : BranchOp) (x y : Word) : Prop :=
  match op with
  | .beq => x = y
  | .bne => x ≠ y
  | .blt => x.toInt < y.toInt
  | .bge => y.toInt ≤ x.toInt
  | .bltu => x.toNat < y.toNat
  | .bgeu => y.toNat ≤ x.toNat

/-- The destination of an integer operation. -/
def intDest : IntForm → Reg
  | .rr _ rd _ _ => rd | .imm _ rd _ _ => rd | .sh6 _ rd _ _ => rd | .sh5 _ rd _ _ => rd | .un _ rd _ => rd

/-- `v` is the result of an integer operation by thread `t`. -/
def IntegerResult (f : IntForm) (t : Thread) (v : Word) : Prop :=
  match f with
  | .rr op _ a b => ResultRR op (t.getX a) (t.getX b) v
  | .imm op _ a n => ResultImm op (t.getX a) n.toInt v
  | .sh6 op _ a n => ResultSh6 op (t.getX a) n.toNat v
  | .sh5 op _ a n => ResultSh5 op (t.getX a) n.toNat v
  | .un op _ a => ResultUn op (t.getX a) v

/-! ## Where an access goes -/

/-- The little-endian number of the bytes `f 0` to `f (n - 1)` (00 R4). -/
def little (f : Nat → Byte) : Nat → Nat
  | 0 => 0
  | n + 1 => little f n + (f n).toNat * 256 ^ n

/-- Byte `k` of a word. -/
def byteOf (w : Word) (k : Nat) : Byte := w.extractLsb' (8 * k) 8

/-- The address leads, for an access of kind `k` by thread `t`, to the byte at `pa` of a resident page of the thread's own window. -/
def OwnAt (s : State) (t : Thread) (k : Kind) (va : Word) (pa : Nat) : Prop :=
  s.locOf (s.task t.task).lc (s.threadTr t k va) = some (.frame pa)

/-- The address leads to the byte at `pa`, of memory type `ty`, outside the thread's own window. -/
def OutAt (s : State) (t : Thread) (k : Kind) (va : Word) (pa : Nat) (ty : MemType) : Prop :=
  s.threadTr t k va = .mem pa ty

/-- Nothing holds the thread's accesses back: no trigger, an empty store buffer, write path and write-combining buffer, no reserved or marked line,
and no AMO on its way. -/
def AtRest (s : State) (t : Thread) : Prop :=
  (s.pcore s.turn.1).triggers = [] ∧ (s.pcore s.turn.1).sb = [] ∧ (s.pquad (s.turn.1 / 4)).path = [] ∧ s.resvs = [] ∧ s.marks = [] ∧ t.wc = none ∧
  ∀ a, Instr.homeAmo a ∉ s.agenda

/-- Nothing watches what the thread writes: no monitor, no mailbox, no weighbridge channel of its core. -/
def Unwatched (s : State) (t : Thread) : Prop :=
  s.monitors = [] ∧ s.binds = [] ∧ (s.lcore (s.task t.task).lc).wb = []

/-- The frame that `pa` lies in has its line there dirty. -/
def LineDirty (s : State) (pa : Nat) : Prop :=
  pa / 2 ^ 48 = 5 → ∀ fr, (s.pcore (coreOfPa pa)).frames.find (pa % 2 ^ 36 / pageSize) = some fr → fr.dirty.getLsbD (pa % pageSize / 64) = true

/-- Reading any byte gives what it gave before. -/
def SameMemory (s s' : State) : Prop := ∀ a, s'.byteAt a = s.byteAt a

/-- The thread, outside a reservation section, deposits at a yield point and its record waits: `s1` is the state after the deposit and `r` its record.
`DepositRule` says what a deposit does. -/
def Waits (s : State) (t after : Thread) (wait reply : Nat) (obj : Word) (want : Want) (s1 : State) (r : RecRef) : Prop :=
  t.resv = none ∧ s.deposit s.turn.1 s.turn.2 t after.next
    { st := .waiting, flt := false, all := false, reply := reply, cause := 0, wait := wait, obj := obj, want := want } = (s1, some r)

/-- The bytes that a scalar load reads. -/
def loadBytes : LoadOp → Nat
  | .lb | .lbu => 1 | .lh | .lhu => 2 | .lw | .lwu => 4 | .ld => 8

/-- `v` is what a load makes of the number `n` that its bytes hold: sign-extended, or zero-extended by `lbu`, `lhu` and `lwu` (04 R77). -/
def LoadValue (op : LoadOp) (n : Nat) (v : Word) : Prop :=
  match op with
  | .lb => v.toInt = (n : Int).bmod (2 ^ 8)
  | .lh => v.toInt = (n : Int).bmod (2 ^ 16)
  | .lw => v.toInt = (n : Int).bmod (2 ^ 32)
  | .ld | .lbu | .lhu | .lwu => v.toNat = n

/-- The bytes that a scalar store writes. -/
def storeBytes : StoreOp → Nat
  | .sb => 1 | .sh => 2 | .sw => 4 | .sd => 8

/-- After the store of the `n` low bytes of `v` at `pa`, those bytes read so and every other byte reads as before. -/
def Stored (s s' : State) (pa n : Nat) (v : Word) : Prop :=
  ∀ a, s'.byteAt a = if pa ≤ a ∧ a < pa + n then byteOf v (a - pa) else s.byteAt a

/-! ## Vector elements (07 R152 to R155) -/

/-- The integer that the low `w` bits of `n` hold. -/
def intOf (w n : Nat) : Int := (n : Int).bmod (2 ^ w)

/-- The registers of a vector instruction: `v` is old but for the active elements, element `i` of which is related by `R i`. -/
def ActiveElems (t : Thread) (f : KV) (v : VReg) (R : Nat → Nat → Prop) : Prop :=
  ∀ i, i < elems f.ew →
    (i * 2 ^ f.ew.toNat < t.vl.toNat ∧ (t.getP f.pg.toNat).getLsbD (2 ^ f.ew.toNat * i) = true → R i (elem v f.ew i)) ∧
    (¬(i * 2 ^ f.ew.toNat < t.vl.toNat ∧ (t.getP f.pg.toNat).getLsbD (2 ^ f.ew.toNat * i) = true) →
      elem v f.ew i = elem (t.getV f.vd) f.ew i)

/-- The integer instructions on two vectors, with the result of an element of `w` bits (07 R155). -/
def vectorOps : List ((KV → Instr) × (Nat → Nat → Nat → Nat → Prop)) := [
  (.vadd, fun w a b r => r = (a + b) % 2 ^ w),
  (.vsub, fun w a b r => r = (a + (2 ^ w - b)) % 2 ^ w),
  (.vmul, fun w a b r => r = a * b % 2 ^ w),
  (.vmulh, fun w a b r => intOf w r = intOf w a * intOf w b / 2 ^ w),
  (.vmulhu, fun w a b r => r = a * b / 2 ^ w),
  (.vmin, fun w a b r => intOf w r = min (intOf w a) (intOf w b)),
  (.vmax, fun w a b r => intOf w r = max (intOf w a) (intOf w b)),
  (.vminu, fun _ a b r => r = min a b),
  (.vmaxu, fun _ a b r => r = max a b),
  (.vand, fun _ a b r => r = a &&& b),
  (.vor, fun _ a b r => r = a ||| b),
  (.vxor, fun _ a b r => r = a ^^^ b),
  (.vsll, fun w a b r => r = a * 2 ^ (b % w) % 2 ^ w),
  (.vsrl, fun w a b r => r = a / 2 ^ (b % w)),
  (.vsra, fun w a b r => intOf w r = intOf w a / 2 ^ (b % w))]

/-- The integer instructions with a scalar operand (07 R154, R155). -/
def scalarOps : List ((KV → Instr) × (Nat → Nat → Nat → Nat → Prop)) := [
  (.vaddVx, fun w a b r => r = (a + b) % 2 ^ w),
  (.vsubVx, fun w a b r => r = (a + (2 ^ w - b)) % 2 ^ w),
  (.vmulVx, fun w a b r => r = a * b % 2 ^ w),
  (.vandVx, fun _ a b r => r = a &&& b),
  (.vsllVx, fun w a b r => r = a * 2 ^ (b % w) % 2 ^ w),
  (.vsrlVx, fun w a b r => r = a / 2 ^ (b % w)),
  (.vsraVx, fun w a b r => intOf w r = intOf w a / 2 ^ (b % w)),
  (.vmvVx, fun _ _ b r => r = b)]

/-- The integer compares (07 R158): whether vb is the scalar operand, and the condition. -/
def compareOps : List ((KV → Instr) × Bool × (Nat → Nat → Nat → Prop)) := [
  (.vseq, false, fun _ a b => a = b),
  (.vsne, false, fun _ a b => a ≠ b),
  (.vslt, false, fun w a b => intOf w a < intOf w b),
  (.vsltu, false, fun _ a b => a < b),
  (.vsle, false, fun w a b => intOf w a ≤ intOf w b),
  (.vsleu, false, fun _ a b => a ≤ b),
  (.vseqVx, true, fun _ a b => a = b),
  (.vsltVx, true, fun w a b => intOf w a < intOf w b)]

/-- The scalar operand of a `.vx` form: the low bits of the x register that the vs1 field names (07 R154). -/
def scalarOperand (t : Thread) (f : KV) : Nat := (t.getX f.vs1).toNat % 2 ^ (8 * 2 ^ f.ew.toNat)

/-- The floating instructions on elements of format `m` in rounding mode `rm`: the result and flags from the elements of vd, va and vb (07 R157). -/
def floatOps : List ((KV → Instr) × Bool × (Fmt → Nat → Nat → Nat → Nat → FRes)) := [
  (.vfadd, false, fun m rm _ a b => fAdd m rm a b),
  (.vfsub, false, fun m rm _ a b => fSub m rm a b),
  (.vfmul, false, fun m rm _ a b => fMul m rm a b),
  (.vfma, false, fun m rm d a b => fFma m rm false d a b),
  (.vfnma, false, fun m rm d a b => fFma m rm true d a b),
  (.vfmin, false, fun m _ _ a b => fMinMax m false a b),
  (.vfmax, false, fun m _ _ a b => fMinMax m true a b),
  (.vfdiv, false, fun m rm _ a b => fDiv m rm a b),
  (.vfsqrt, false, fun m rm _ a _ => fSqrt m rm a),
  (.vfrcp, false, fun m rm _ a _ => fRcp m rm a),
  (.vfexp2, false, fun m rm _ a _ => fExp2 m rm a),
  (.vflog2, false, fun m rm _ a _ => fLog2 m rm a),
  (.vfaddVx, true, fun m rm _ a b => fAdd m rm a b),
  (.vfmulVx, true, fun m rm _ a b => fMul m rm a b),
  (.vfmaVx, true, fun m rm d a b => fFma m rm false d a b),
  (.vfmaxVx, true, fun m _ _ a b => fMinMax m true a b)]

/-- The floating compares (07 R158). -/
def floatCompares : List ((KV → Instr) × (Fmt → Nat → Nat → Bool × Flags)) := [
  (.vfeq, fun m a b => fEq m a b),
  (.vflt, fun m a b => fLt m false a b),
  (.vfle, fun m a b => fLt m true a b)]

/-- The AMOs by operation code (04 R86). -/
def amoOps : List ((AmoF → Instr) × Nat) := [
  (.amoAdd, 0), (.amoAnd, 1), (.amoOr, 2), (.amoXor, 3), (.amoMin, 4), (.amoMax, 5), (.amoMinu, 6), (.amoMaxu, 7),
  (.amoSwap, 8), (.amoCas, 9), (.amoFadd, 10), (.amoFmax, 11), (.amoFmin, 12)]

/-- What an AMO of `w` bits leaves in memory, from the old value, the operand and the compare value (06 R125); the floating ones by
their arithmetic. -/
def AmoLeaves (op w old src cmp new : Nat) : Prop :=
  match op with
  | 0 => new = (old + src) % 2 ^ w
  | 1 => new = old &&& src
  | 2 => new = old ||| src
  | 3 => new = old ^^^ src
  | 4 => intOf w new = min (intOf w old) (intOf w src)
  | 5 => intOf w new = max (intOf w old) (intOf w src)
  | 6 => new = min old src
  | 7 => new = max old src
  | 8 => new = src
  | 9 => new = if old = cmp then src else old
  | 10 => new = (fAdd (if w = 32 then .fp32 else .fp64) 0 old src).bits
  | 11 => new = (fMinMax (if w = 32 then .fp32 else .fp64) true old src).bits
  | _ => new = (fMinMax (if w = 32 then .fp32 else .fp64) false old src).bits

/-! ## Control and status registers (01 R26, R27) -/

/-- The addresses that hold a CSR. -/
def csrs : List Nat := [
  0x800, 0x801, 0x802, 0x803, 0x804, 0x805, 0x806, 0x807, 0x808, 0x809, 0x80A, 0x80B, 0x80C, 0x80D, 0x80E, 0x810, 0x811, 0x812, 0x813,
  0xCC0, 0xCC1, 0xCC2, 0xCC3, 0xCC4, 0xCC5, 0xCC6, 0xCC7, 0xCC8, 0x5C0, 0x5C1, 0x5C2, 0x5C3, 0xC00, 0xC01, 0x105, 0x140, 0x180]

/-- The CSRs that only S mode may name. -/
def modeCsrs : List Nat := [0x5C0, 0x5C1, 0x5C2, 0x5C3, 0x105, 0x140, 0x180]

/-- The CSRs that an instruction may not write. -/
def fixedCsrs : List Nat := [
  0x808, 0x809, 0x80A, 0x80B, 0x80C, 0x80D, 0x813, 0xCC0, 0xCC1, 0xCC2, 0xCC3, 0xCC4, 0xCC5, 0xCC6, 0xCC7, 0xCC8, 0xC00, 0xC01]

/-- What CSR `n`, reading `old`, reads after `v` is written to it. -/
def csrKeeps (n : Nat) (old v : Word) : Word :=
  if n = 0x804 then (if v.toNat % 8 ≤ 4 then word (v.toNat % 8) else old)
  else if n = 0x805 then word (v.toNat % 32)
  else if n = 0x806 then word (min 128 v.toNat / 8 * 8)
  else if n = 0x807 then word (v.toNat % 128)
  else if n = 0x80E then word (v.toNat % 4)
  else if n = 0x5C0 then word (v.toNat / 4096 * 4096)
  else if n = 0x5C1 then word (max 0x10000 (min 0x1000000 (v.toNat / 65536 * 65536)))
  else if n = 0x5C2 then word (max 64 (min 65536 v.toNat))
  else if n = 0x5C3 then word (v.toNat % 2)
  else if n = 0x105 then word (v.toNat / 4 * 4)
  else if n = 0x180 then (if v.toNat / 2 ^ 60 = 0 ∨ v.toNat / 2 ^ 60 = 14 then v else old)
  else v

/-- The illegal-instruction trap of an instruction: cause 2 with its word, zero-extended (15 R304). -/
def Illegal (s : State) (t : Thread) (i : Instr) : Prop :=
  ∃ w, encode i = some w ∧ exec i s = .next (s.trap t 2 (w.setWidth 64))

/-! ## Traps (15 R300 to R306) -/

/-- What a trap of thread `t` with the given cause deposits. -/
def trapDep (cause : Nat) (obj : Word) : Dep :=
  { st := .faulted, flt := true, all := true, reply := 0, cause := cause, wait := 11, obj := obj, want := .nothing }

/-- Thread `t` can deposit: its task is live on the core whose turn it is, it is outside a reservation section with an empty
write-combining buffer, its context block is in place, and the silo, reached without translation, has room at `a` for the record of `mask`. -/
structure CanDeposit (s : State) (t : Thread) (mask : Word) (a : Word) : Prop where
  issues : IssuesFree s t
  wc : t.wc = none
  live : (s.tasks.find t.task).isSome
  own : s.physOf (s.task t.task).lc = s.turn.1
  bare : kx57 (s.csrs (s.task t.task).lc).satp = false
  block : (s.task t.task).ctx.isSome
  room : ∃ s1, s.ctxWrite t.task = .ok s1 ∧ (s1.siloAlloc (s.task t.task).lc (recSize mask)).map (·.1) = some a ∧
    (∀ s2, (s1.siloAlloc (s.task t.task).lc (recSize mask)).map (·.2) = some s2 → s2.siloBad (s.task t.task).lc a (recSize mask) = none)
  fits : a.toNat + recSize mask < 2 ^ 64


/-! ## Steps that follow a release -/

/-- The operations in the store buffer of core `c`, oldest first. -/
def sbOps (s : State) (c : Nat) : List SbOp := (s.pcore c).sb.map (·.op)

/-- What stands in the store buffer for a release at `scope`, where there is something to wait for (06 R121). -/
def releaseOps (scope : Nat) (busy : Bool) : List SbOp := if scope ≠ 0 ∧ scope ≤ 4 ∧ busy then [.release scope false false] else []

/-- The posted decrement of a counter (05 R97). -/
def decrementOp (s : State) (t : Thread) (pa : Nat) (va : Word) : SbOp :=
  .amo { op := 0, dbl := true, pa := pa, arg := BitVec.allOnes 64, cmp := 0, reply := none, ack := none, src := s.turn.1 / 16, va := va,
         task := t.task, by_ := s.issuerOf t.task }

/-- A deposit that gives up the slot: every register saved, ready at once (01 R20, 05 R98). -/
def readyDep : Dep :=
  { st := .ready, flt := false, all := true, reply := 0, cause := 0, wait := 0, obj := 0, want := .nothing }

/-- Some id of the thread's core is not in use (05 R103). -/
def IdsLeft (s : State) (t : Thread) : Prop :=
  (s.task t.task).lcore < 4096 ∧ (s.usedSeqs (s.task t.task).part (s.physOf (s.task t.task).lc)).length < 2 ^ 20

/-- A child task of thread `t`: the fields it has when it is made (05 R99, R100, R103). -/
structure ChildOf (s : State) (t : Thread) (entry : Word) (lcore : Nat) (pinned : Bool) (h : Task) : Prop where
  entry : h.entry = entry
  mode : h.smode = t.smode
  args : h.args = [t.getX 10, t.getX 11, t.getX 12, t.getX 13]
  part : h.part = (s.task t.task).part
  core : h.lcore = lcore
  pin : h.pinned = pinned
  launch : h.launch = (s.task t.task).launch ∧ h.idx = (s.task t.task).idx ∧ h.icnt = (s.task t.task).icnt
  csrs : h.fmt = (s.task t.task).fmt ∧ h.scl = (s.task t.task).scl ∧ h.sscl = (s.task t.task).sscl ∧ h.eod = 0
  none_ : h.held = [] ∧ h.ranges = [] ∧ h.join = 0 ∧ h.streams = []
  origin : h.origin = (s.task t.task).origin
  /-- The id names the core that made it. -/
  tid : IdsLeft s t → h.tid / 2 ^ 20 = s.physOf (s.task t.task).lc

/-- `key` is the one new task of `s'`. -/
def OneMore (s s' : State) (key : Nat) (h : Task) : Prop :=
  s'.tasks.find key = some h ∧ ∀ k, k ≠ key → s'.tasks.find k = s.tasks.find k

/-- The silo of logical core `lc` has room for `n` bytes at a place that translation lets the core write, wherever a free choice puts them (05
R115, R117). -/
def SiloTakes (s : State) (lc n : Nat) : Prop :=
  ∀ pick, ∃ o, (s.lcore lc).place n pick = some o ∧ s.siloBad lc ((s.lcore lc).silob + word o) n = none

/-- Task `k` can be given its context block, or has it where the core may write it (05 R115, R117): what its start on logical core `lc` needs. -/
def StartsOn (s : State) (k lc : Nat) : Prop :=
  match (s.task k).ctx with
  | some a => s.siloBad lc (word a) 64 = none
  | none => SiloTakes s lc 64

/-- No task of partition `p` waits for its place in a stage ring, so that a task's end places none (14 R287). -/
def NoneWaits (s : State) (p : Nat) : Prop := ∀ e ∈ s.lnodes, e.1 / 256 = p → e.2.placing = []

/-! ## Engines (08 R175 to R199) -/

/-- Command `r` is `c`, for its own engine, it has started and has read every line of its operands, and nothing holds its effects back: no line is
reserved or marked, and nothing watches memory. -/
structure EngineGoes (s : State) (r : CmdRef) (c : Cmd) : Prop where
  cmd : s.cmdOf r = some c
  own : c.part = none ∧ Tw.tgt c.w = 0
  started : c.st = .started
  read : ∀ k ∈ s.opKeys r.lq c, (c.cap.find k).isSome
  free : s.marks = [] ∧ s.resvs = [] ∧ s.monitors = [] ∧ s.binds = []

/-- The steps of a command on an engine. -/
def tileSteps (r : CmdRef) : List Instr :=
  [.mnop r, .mma r, .mzero r, .mload r, .mdrain r, .mdrq r, .msums r, .mgrp r]

/-- The command has taken effect, with error `err`, and its completion is due. -/
def Started (s' : State) (r : CmdRef) (err : Nat) : Prop :=
  (∃ c, s'.cmdOf r = some c ∧ c.st = .started ∧ c.err = err) ∧ .tileCommandComplete r ∈ s'.agenda

/-- An operation from node `n` reaches its object: it takes no control mesh, or the way of the mesh is open (17 R332, 18 R343). -/
def Reaches (s : State) (n : Nat) (b : BarRef) : Prop := b.level < 3 ∨ s.unreachable n (packageNode b) = false

/-- Event `e` of a member's post is delivered with error `err`, which gives `s'`: no target, an arrival of no bytes, or a store of 8 bytes to a word whose
line nothing holds back or watches (19 R355). -/
def EventFires (s : State) (p : CollPost) (e err : Nat) (s' : State) : Prop :=
  let target := Pb.event p.blk e
  match field target 62 2 with
  | 1 => ∃ b, s.barOf p.lc (word (field target 0 16)) = some b ∧ s' = s.applyArrival b 0 err
  | 2 => s.marks = [] ∧ ∃ s1 pa, s.portPa p .store (field target 0 57) = (s1, some pa) ∧ s1.isParked pa = false ∧ s1.resvs = [] ∧ s1.monitors = [] ∧
      s1.binds = [] ∧ s' = s1.applyWrite (cellsOf pa 8 (e * 2 ^ 62 + err * 2 ^ 40 + p.id)) none true
  | _ => s' = s

/-- The ACS element of row `m` and column `n` of a command's region. -/
def acsAt (s : State) (lq : Nat) (w : Cmd256) (m n : Nat) : BitVec 32 := (s.lquad lq).acs.get 0 (256 * (Tw.row0 w + m) + Tw.col0 w + n)

/-- Outside the region of a command the ACS is as before. -/
def OtherAcs (s s' : State) (lq : Nat) (w : Cmd256) : Prop :=
  ∀ i, (∀ m n, m < Tw.rows w → n < Tw.cols w → i ≠ 256 * (Tw.row0 w + m) + Tw.col0 w + n) →
    (s'.lquad lq).acs.get 0 i = (s.lquad lq).acs.get 0 i

/-- The bytes of row `m` of a region, converted for a drain (03 R67). -/
def drained (s : State) (lq : Nat) (c : Cmd) (m : Nat) : List Byte :=
  (List.range (Tw.cols c.w)).flatMap (fun n =>
    toBytes (drainSize (Tw.drainFmt c.w)) (drainElem (Tw.acc c.w != 0) (Tw.drainFmt c.w) c.frm.toNat (acsAt s lq c.w m n).toNat).1)

/-- The cells of the rows of a drain at a scratchpad address with a pitch, where every byte has a place. -/
def DrainCells (s v : State) (lq : Nat) (c : Cmd) (a pitch : Nat) (l : List (Nat × Byte)) : Prop :=
  ∃ f : Nat → List (Nat × Byte), (∀ m, m < Tw.rows c.w → s.opCells lq c a (m * pitch) (drained v lq c m) = some (f m)) ∧
    l = (List.range (Tw.rows c.w)).flatMap f

/-- Memory of `s'` is that of `s` with the cells stored. -/
def MemoryWith (s s' : State) (l : List (Nat × Byte)) : Prop := ∀ a, s'.byteAt a = (s.putCells l).byteAt a

/-! ## The firmware mailbox (22 R379 to R382) -/

/-- The command of function `fn` is complete with a status and response doublewords. -/
def Done (s s' : State) (fn status : Nat) (rsp : List Word) : Prop :=
  (s'.die fn).stat = word ((s.die fn).cmdSeq % 2 ^ 32 * 2 ^ 32 + status * 256 + 2) ∧
  (∀ i w, rsp[i]? = some w → (s'.die fn).rsp.get 0 i = w) ∧ fn ∉ s'.fw.pending

/-- The command of function `fn` is the next one, and features are negotiated. -/
def Commands (s : State) (fn : Nat) : Prop :=
  (∃ rest, s.fw.pending = fn :: rest) ∧ s.fw.negotiated = true ∧ s.fw.features.getLsbD 0 = true

/-- Argument doubleword `i` of the command of function `fn`. -/
def arg (s : State) (fn i : Nat) : Word := (s.die fn).args.get 0 i

/-- A buffer of `n` bytes at a host bus address. -/
def HostBuffer (a : Word) (n : Nat) : Prop := a.toNat % 64 = 0 ∧ a.toNat + n ≤ 2 ^ 48

/-- Nothing watches memory and no line is marked. -/
def Quiet (s : State) : Prop := s.monitors = [] ∧ s.marks = [] ∧ s.binds = [] ∧ s.resvs = []

/-- No core has work in flight and no engine a command. -/
def Idle (s : State) : Prop :=
  s.pcores = [] ∧ s.pquads = [] ∧ (∀ e ∈ s.lcores, e.2.recs = []) ∧ (∀ c, s.barInFlight c = false) ∧
  (∀ e ∈ s.lquads, e.2.queue = [] ∧ e.2.copies = [] ∧ e.2.heldCmds = [] ∧ e.2.heldCopies = [])

end Sys2Proof.Claims

open Sys2Proof Sys2Proof.Machine Sys2Proof.Claims

/-- INTEGER_OP: every form of RV64I, M, Zba and the subset of Zbb completes with rd holding the result of the base (as a number, not as
the model computes it), the pc at the next instruction by the loop-back rule, and nothing else changed (04 R76, 03 R54). -/
def Obligations.IntegerOpResult : Prop :=
  ∀ (s : State) (t : Thread) (f : IntForm), Issues s t →
    ∃ v, IntegerResult f t v ∧ exec (.integerOp f) s = .next (s.putCur (t.setX (intDest f) v).next)

/-- LUI, AUIPC, JAL, JALR and BRANCH complete: rd, the pc, and nothing else; a transfer to a multiple of 4 is taken with its rule for active
loops (05 R95, R109). A taken transfer to a target that is not a multiple of 4 raises cause 0 with OBJ = the target, and rd is not written (05 R95). -/
def Obligations.UpperAndTransferResult : Prop :=
  (
    ∀ (s : State) (t : Thread) (rd rs1 rs2 : Reg), Issues s t →
      (∀ imm : BitVec 20, exec (.lui rd imm) s = .next (s.putCur (t.setX rd (BitVec.ofInt 64 (imm.toInt * 4096))).next)) ∧
      (∀ imm : BitVec 20, exec (.auipc rd imm) s = .next (s.putCur (t.setX rd (t.pc + BitVec.ofInt 64 (imm.toInt * 4096))).next)) ∧
      (∀ imm : BitVec 20, ∀ a, a = t.pc + BitVec.ofInt 64 (imm.toInt * 2) → a.toNat % 4 = 0 →
        exec (.jal rd imm) s = .next (s.putCur ((t.setX rd (t.pc + 4)).goto a))) ∧
      (∀ imm : BitVec 12, ∀ a, a = (t.getX rs1 + BitVec.ofInt 64 imm.toInt) &&& ~~~1#64 → a.toNat % 4 = 0 →
        exec (.jalr rd rs1 imm) s = .next (s.putCur ((t.setX rd (t.pc + 4)).goto a))) ∧
      (∀ (op : BranchOp) (imm : BitVec 12), ∀ a, a = t.pc + BitVec.ofInt 64 (imm.toInt * 2) →
        (Taken op (t.getX rs1) (t.getX rs2) → a.toNat % 4 = 0 →
          exec (.branch op rs1 rs2 imm) s = .next (s.putCur (t.goto a))) ∧
        (¬Taken op (t.getX rs1) (t.getX rs2) → exec (.branch op rs1 rs2 imm) s = .next (s.putCur t.next)))) ∧
  (
    ∀ (s : State) (t : Thread) (rd rs1 rs2 : Reg), Issues s t →
      (∀ imm : BitVec 20, ∀ a, a = t.pc + BitVec.ofInt 64 (imm.toInt * 2) → a.toNat % 4 ≠ 0 →
        exec (.jal rd imm) s = .next (s.trap t 0 a)) ∧
      (∀ imm : BitVec 12, ∀ a, a = (t.getX rs1 + BitVec.ofInt 64 imm.toInt) &&& ~~~1#64 → a.toNat % 4 ≠ 0 →
        exec (.jalr rd rs1 imm) s = .next (s.trap t 0 a)) ∧
      (∀ (op : BranchOp) (imm : BitVec 12), ∀ a, a = t.pc + BitVec.ofInt 64 (imm.toInt * 2) → a.toNat % 4 ≠ 0 →
        Taken op (t.getX rs1) (t.getX rs2) → exec (.branch op rs1 rs2 imm) s = .next (s.trap t 0 a)))


/-- HL0, HL1, HL0I and HL1I: a loop starts with its count over the body from pc + 4 to pc + 4 L; a count of 0 skips the body; the nesting
that R108 forbids raises cause 26 (05 R107, R108). The loop-back rule: what `Thread.next` does with the pc and the loops. At the end of an active loop 1 the pc goes back to its start while
passes remain; only in the pass where loop 1 falls through, or is not active, is the end of loop 0 tested (05 R108). -/
def Obligations.HardwareLoopResult : Prop :=
  (
    ∀ (s : State) (t : Thread) (r : Reg) (len : BitVec 12), Issues s t →
      let stop := t.pc + word (4 * len.toNat)
      let body := fun (n : BitVec 32) => ({ remaining := n, start := t.pc + 4, stop := stop } : HLoop)
      let n := (t.getX r).setWidth 32
      let k := r.setWidth 32
      let free0 := t.hl0.remaining = 0 ∧ t.hl1.remaining = 0
      let free1 := t.hl0.remaining ≠ 0 ∧ t.hl1.remaining = 0 ∧ t.hl0.start.toNat ≤ t.pc.toNat ∧ stop.toNat ≤ t.hl0.stop.toNat
      (free0 → exec (.hl0 r len) s = .next (s.putCur (if n = 0 then { t with pc := stop + 4 } else { t with pc := t.pc + 4, hl0 := body n }))) ∧
      (free0 → exec (.hl0i r len) s = .next (s.putCur (if k = 0 then { t with pc := stop + 4 } else { t with pc := t.pc + 4, hl0 := body k }))) ∧
      (free1 → n ≠ 0 → exec (.hl1 r len) s = .next (s.putCur { t with pc := t.pc + 4, hl1 := body n })) ∧
      (free1 → k ≠ 0 → exec (.hl1i r len) s = .next (s.putCur { t with pc := t.pc + 4, hl1 := body k })) ∧
      (free1 → stop ≠ t.hl0.stop → n = 0 → exec (.hl1 r len) s = .next (s.putCur { t with pc := stop + 4 })) ∧
      (free1 → stop ≠ t.hl0.stop → k = 0 → exec (.hl1i r len) s = .next (s.putCur { t with pc := stop + 4 })) ∧
      (free1 → stop = t.hl0.stop → n = 0 → exec (.hl1 r len) s = .next (s.putCur ({ t with pc := stop } : Thread).next)) ∧
      (free1 → stop = t.hl0.stop → k = 0 → exec (.hl1i r len) s = .next (s.putCur ({ t with pc := stop } : Thread).next)) ∧
      s.csrRead t 0x808 = some (t.hl0.remaining.setWidth 64) ∧ s.csrRead t 0x80B = some (t.hl1.remaining.setWidth 64) ∧
      (¬free0 → exec (.hl0 r len) s = .next (s.trap t 26 0) ∧ exec (.hl0i r len) s = .next (s.trap t 26 0)) ∧
      (¬free1 → exec (.hl1 r len) s = .next (s.trap t 26 0) ∧ exec (.hl1i r len) s = .next (s.trap t 26 0))) ∧
  (
    ∀ t : Thread,
      let at1 := t.hl1.remaining ≠ 0 ∧ t.pc = t.hl1.stop
      let at0 := t.hl0.remaining ≠ 0 ∧ t.pc = t.hl0.stop
      (at1 → 1 < t.hl1.remaining.toNat →
        t.next.pc = t.hl1.start ∧ t.next.hl1.remaining = t.hl1.remaining - 1 ∧ t.next.hl0 = t.hl0) ∧
      (at1 → t.hl1.remaining = 1 → t.next.hl1 = HLoop.off) ∧
      (¬at1 → t.next.hl1 = t.hl1) ∧
      ((at1 → t.hl1.remaining = 1) → at0 → 1 < t.hl0.remaining.toNat →
        t.next.pc = t.hl0.start ∧ t.next.hl0.remaining = t.hl0.remaining - 1) ∧
      ((at1 → t.hl1.remaining = 1) → at0 → t.hl0.remaining = 1 → t.next.pc = t.pc + 4 ∧ t.next.hl0 = HLoop.off) ∧
      ((at1 → t.hl1.remaining = 1) → ¬at0 → t.next.pc = t.pc + 4 ∧ t.next.hl0 = t.hl0))



/-- CSRRW, CSRRS, CSRRC, CSRRWI, CSRRSI and CSRRCI complete on every CSR that the mode may name: rd receives the old value; a form with
x0 or a zero immediate in its source field, where it sets or clears, writes nothing; every other form writes the new value, where the CSR
may be written (01 R26). -/
def Obligations.CsrInstructionResult : Prop :=
  ∀ (s : State) (t : Thread) (n : BitVec 12) (r rd : Reg) (old : Word), Issues s t → s.csrRead t n.toNat = some old →
    (n.toNat ∈ modeCsrs → t.smode = true) →
    let wrote := fun (v : Word) => (s.csrWrite t n.toNat v).1.putCur ((s.csrWrite t n.toNat v).2.setX rd old).next
    let z := r.setWidth 64
    (exec (.csrrs n 0 rd) s = .next (s.putCur (t.setX rd old).next)) ∧
    (exec (.csrrc n 0 rd) s = .next (s.putCur (t.setX rd old).next)) ∧
    (exec (.csrrsi n 0 rd) s = .next (s.putCur (t.setX rd old).next)) ∧
    (exec (.csrrci n 0 rd) s = .next (s.putCur (t.setX rd old).next)) ∧
    (n.toNat ∉ fixedCsrs →
      exec (.csrrw n r rd) s = .next (wrote (t.getX r)) ∧
      exec (.csrrwi n r rd) s = .next (wrote z) ∧
      (r ≠ 0 →
        exec (.csrrs n r rd) s = .next (wrote (old ||| t.getX r)) ∧
        exec (.csrrc n r rd) s = .next (wrote (old &&& ~~~t.getX r)) ∧
        exec (.csrrsi n r rd) s = .next (wrote (old ||| z)) ∧
        exec (.csrrci n r rd) s = .next (wrote (old &&& ~~~z))))

/-- A CSR instruction traps as illegal on an address that holds no CSR, in U mode on a CSR of S mode, and where it would write a read-only
CSR (01 R26, 15 R304). The CSRs are those of the table, whatever the state (01 R26, R27). -/
def Obligations.CsrIllegal : Prop :=
  (
    ∀ (s : State) (t : Thread) (n : BitVec 12) (r rd : Reg), Issues s t →
      (n.toNat ∉ csrs ∨ (n.toNat ∈ modeCsrs ∧ t.smode = false) →
        Illegal s t (.csrrw n r rd) ∧ Illegal s t (.csrrs n r rd) ∧ Illegal s t (.csrrc n r rd) ∧
        Illegal s t (.csrrwi n r rd) ∧ Illegal s t (.csrrsi n r rd) ∧ Illegal s t (.csrrci n r rd)) ∧
      (n.toNat ∈ fixedCsrs →
        Illegal s t (.csrrw n r rd) ∧ Illegal s t (.csrrwi n r rd) ∧
        (r ≠ 0 → Illegal s t (.csrrs n r rd) ∧ Illegal s t (.csrrc n r rd) ∧ Illegal s t (.csrrsi n r rd) ∧ Illegal s t (.csrrci n r rd)))) ∧
  (
    ∀ (s : State) (t : Thread) (n : Nat), (s.csrRead t n).isSome ↔ n ∈ csrs)

/-- A CSR that has been written reads what its rule keeps of the value, and every other CSR reads as before; `kxsilob` and `kxsilol` are
written while the core holds nothing of another task, and otherwise keep their values (01 R26, R28). -/
def Obligations.CsrWriteThenRead : Prop :=
  ∀ (s : State) (t : Thread) (n : Nat) (v old : Word), n ∈ csrs → n ∉ fixedCsrs → (s.tasks.find t.task).isSome →
    s.csrRead t n = some old →
    let r := s.csrWrite t n v
    let shut := (n = 0x5C0 ∨ n = 0x5C1) ∧ s.siloInUse (s.task t.task).lc t.task = true
    (shut → r = (s, t)) ∧
    (¬shut → r.1.csrRead r.2 n = some (csrKeeps n old v)) ∧
    ∀ m, m ≠ n → r.1.csrRead r.2 m = s.csrRead t m

/-- ECALL raises cause 8, EBREAK cause 3 or, where the debugger asks for it in the thread's mode, a halt of its core, and a word that
decodes to nothing cause 2 with the word as OBJ; in each case the thread's registers are as they were (01 R32, 04 R93, 15 R304). That the halt leaves
the cause 1 in `dcsr` is the model's choice (log 16): 21 R367 says only that `ebreak` halts in place of cause 3. Inside a reservation section a trap gives cause 25 with the section's address, after the line is released unchanged; a trap of a
handler nested four deep kills its task (06 R141, 15 R305). -/
def Obligations.SystemWordTraps : Prop :=
  (
    ∀ (s : State) (t : Thread) (w : BitVec 32), Issues s t →
      exec .ecall s = .next (s.trap t 8 0) ∧
      exec (.illegalInstruction w) s = .next (s.trap t 2 (w.setWidth 64)) ∧
      ((if t.smode then (s.pcore s.turn.1).ebreaks else (s.pcore s.turn.1).ebreaku) = false → exec .ebreak s = .next (s.trap t 3 0)) ∧
      ((if t.smode then (s.pcore s.turn.1).ebreaks else (s.pcore s.turn.1).ebreaku) = true →
        ∃ s', exec .ebreak s = .next s' ∧ (s'.pcore s.turn.1).halted = true ∧ (s'.pcore s.turn.1).dcause = 1 ∧ s'.cur = some t ∧ SameMemory s s')) ∧
  (
    ∀ (s : State) (t : Thread) (r : Section) (cause : Nat) (obj : Word), s.cur = some t → t.resv = some r →
      s.trap t cause obj = ((s.unreserve r.pa).trap { t with resv := none } 25 r.va) ∧
      (∀ u : Thread, u.resv = none → 4 ≤ (s.task u.task).depth →
        s.trap u cause obj = (s.killThread s.turn.1 s.turn.2 u).logEvent 3 (s.turn.1 / 16)))

/-- A trap deposits a faulted record: the slot is freed, the record holds the cause, OBJ and the core's next SEQ, and in memory stand the
header and every x register (15 R300, R302, 05 R110). It starts a handler: one task more, pinned to the core of the trapping thread, in S mode at `stvec`, with the record's address, the
cause, OBJ and the trapping task's id in a0 to a3, at the tail of the core's pending S-mode queue (15 R301, R305). -/
def Obligations.TrapDepositsRecord : Prop :=
  (
    ∀ (s : State) (t : Thread) (cause : Nat) (obj a : Word), CanDeposit s t (saveMask t true 0) a → (s.task t.task).depth < 4 →
      let s' := s.trap t cause obj
      let lc := (s.task t.task).lc
      let seq := (s.pcore s.turn.1).seq
      s'.cur = none ∧
      (∃ x ∈ (s'.lcore lc).recs, x.addr = a ∧ x.st = .faulted ∧ x.cause = cause ∧ x.wait = 11 ∧ x.obj = obj ∧ x.task = t.task ∧
        x.seq = seq ∧ x.mask = saveMask t true 0) ∧
      (s'.pcore s.turn.1).seq = seq + 1 ∧
      (∀ k, k < 8 → k ≠ 6 → some (s'.readN (a.toNat + 8 * k) 8) = (header t (s.task t.task) seq (saveMask t true 0) (trapDep cause obj) 0)[k]?.map (· % 2 ^ 64)) ∧
      (∀ n : Reg, n ≠ 0 → s'.readN (a.toNat + xPlace (saveMask t true 0) n.toNat) 8 = (t.getX n).toNat)) ∧
  (
    ∀ (s : State) (t : Thread) (cause : Nat) (obj a : Word), CanDeposit s t (saveMask t true 0) a → (s.task t.task).depth < 4 →
      (s.csrs (s.task t.task).lc).stvec ≠ 0 →
      let s' := s.trap t cause obj
      let tk := s.task t.task
      ∃ key h, s'.tasks.find key = some h ∧ (∀ k, k ≠ key → s'.tasks.find k = s.tasks.find k) ∧
        h.entry = (s.csrs tk.lc).stvec ∧ h.smode = true ∧ h.args = [a, word cause, obj, word tk.tid] ∧ h.pinned = true ∧
        h.part = partOfLc tk.lc ∧ h.lcore = numOfLc tk.lc ∧ h.depth = tk.depth + 1 ∧ h.launch = tk.launch ∧ h.idx = tk.idx ∧
        h.fmt = tk.fmt ∧ h.scl = tk.scl ∧ h.sscl = tk.sscl ∧ h.held = [] ∧ h.ranges = [] ∧ h.origin = tk.origin ∧
        (s'.lcore tk.lc).pendS = (s.lcore tk.lc).pendS ++ [key])

/-- LOAD, LDA and LDSC from a resident page of the own window complete at once: rd receives the bytes at x[rs1] plus the offset, extended as
the load says; an acquire of a scoped load drops the quad L1 at `node` and wider; nothing else changes, and no byte of memory (04 R77, 06
R121, R123, 11 R248). -/
def Obligations.LoadFromOwnWindow : Prop :=
  ∀ (s : State) (t : Thread) (pa : Nat), Issues s t → AtRest s t →
    (∀ (op : LoadOp) (rd rs1 : Reg) (imm : BitVec 12) (va : Word), va = t.getX rs1 + BitVec.ofInt 64 imm.toInt →
      va.toNat % loadBytes op = 0 → OwnAt s t .load va pa →
      ∃ v s', LoadValue op (little (fun i => s.byteAt (pa + i)) (loadBytes op)) v ∧ s' = (s.touch (s.task t.task).lc [pa]).putCur (t.setX rd v).next ∧
        exec (.load op rd rs1 imm) s = .next s' ∧ SameMemory s s') ∧
    (∀ f : Scoped, (t.getX f.rs1).toNat % 2 ^ f.width.toNat = 0 → OwnAt s t .load (t.getX f.rs1) pa →
      ∃ v s', v.toInt = (little (fun i => s.byteAt (pa + i)) (2 ^ f.width.toNat) : Int).bmod (2 ^ (8 * 2 ^ f.width.toNat)) ∧
        s' = ((s.touch (s.task t.task).lc [pa]).acquireAt s.turn.1 f.scope.toNat).putCur (t.setX f.rd v).next ∧
        exec (.lda f) s = .next s' ∧ exec (.ldsc f) s = .next s' ∧ SameMemory s s')

/-- LOAD outside the own window: from the core's own buffered stores where they hold every byte and no ordering of the thread holds it back; else, always from a device, and from a page that is not resident or
an address without a TLB entry, a deposit whose record waits for rd while the request goes to the home, the page comes in or the tables are
walked (01 R17, R18, 11 R248, 15 R313). -/
def Obligations.LoadElsewhere : Prop :=
  ∀ (s : State) (t : Thread) (op : LoadOp) (rd rs1 : Reg) (imm : BitVec 12) (va : Word), Issues s t →
    va = t.getX rs1 + BitVec.ofInt 64 imm.toInt → va.toNat % loadBytes op = 0 → (s.pcore s.turn.1).triggers = [] →
    let acc := scalarLoad (loadShape op).1 (loadShape op).2 va none
    let piece : Piece := { off := 0, va := va, size := loadBytes op, data := 0 }
    (∀ (pa : Nat) (ty : MemType) (b : Nat → Byte), OutAt s t .load va pa ty → ty ≠ 3 → s.heldBack s.turn.1 t.task false false = false →
      (∀ i, i < loadBytes op → s.sbByte s.turn.1 t.wc (pa + i) = some (b i)) →
      ∃ v, LoadValue op (little b (loadBytes op)) v ∧
        exec (.load op rd rs1 imm) s = .next ((s.touch (s.task t.task).lc [pa]).putCur (t.setX rd v).next)) ∧
    (∀ (pa : Nat) (ty : MemType) (s1 : State) (r : RecRef), OutAt s t .load va pa ty →
      (ty = 3 ∨ s.heldBack s.turn.1 t.task false false = true ∨ ∃ i, i < loadBytes op ∧ s.sbByte s.turn.1 t.wc (pa + i) = none) →
      Waits s t t 1 rd.toNat va (.access { acc with fwd := if s.heldBack s.turn.1 t.task false false then [] else s.forwarded s.turn.1 t.wc [(piece, .out pa ty)] }) s1 r →
      exec (.load op rd rs1 imm) s = .next (s1.push (.homeRequest r))) ∧
    (∀ (pg : PageRef) (s1 : State) (r : RecRef), s.locOf (s.task t.task).lc (s.threadTr t .load va) = some (.absent pg) →
      Waits s t t 2 rd.toNat va (.access acc) s1 r → exec (.load op rd rs1 imm) s = .next (s1.pushOnce (.pageInComplete pg))) ∧
    (∀ (s1 : State) (r : RecRef), s.threadTr t .load va = .miss → Waits s t t 1 rd.toNat va (.access acc) s1 r →
      exec (.load op rd rs1 imm) s = .next (s1.push (.tlbWalkComplete r)))

/-- A misaligned LOAD or STORE traps with cause 4 or 6, and one whose address does not translate with the cause of the translation, OBJ being
the address in either case; alignment is checked first, and nothing has been written (04 R77, R94, 15 R304). -/
def Obligations.ScalarAccessTraps : Prop :=
  ∀ (s : State) (t : Thread) (rd rs1 rs2 : Reg) (imm : BitVec 12) (va : Word), Issues s t →
    va = t.getX rs1 + BitVec.ofInt 64 imm.toInt → (s.pcore s.turn.1).triggers = [] →
    (∀ op : LoadOp, va.toNat % loadBytes op ≠ 0 → exec (.load op rd rs1 imm) s = .next (s.trap t 4 va)) ∧
    (∀ op : StoreOp, va.toNat % storeBytes op ≠ 0 → exec (.store op rs2 rs1 imm) s = .next (s.trap t 6 va)) ∧
    (∀ (op : LoadOp) (cause : Nat), va.toNat % loadBytes op = 0 → s.threadTr t .load va = .bad cause →
      exec (.load op rd rs1 imm) s = .next (s.trap t cause va)) ∧
    (∀ (op : StoreOp) (cause : Nat), va.toNat % storeBytes op = 0 → s.threadTr t .store va = .bad cause →
      exec (.store op rs2 rs1 imm) s = .next (s.trap t cause va))

/-- STORE, STL and STSC to a resident page of the own window complete at once: the low bytes of x[rs2] stand at the address, its line is dirty, and every other
byte of memory and every register of the thread is as before, but for the pc (04 R77, 06 R123, 11 R239, R248). -/
def Obligations.StoreToOwnWindow : Prop :=
  ∀ (s : State) (t : Thread) (pa : Nat), Issues s t → AtRest s t → Unwatched s t →
    (∀ (op : StoreOp) (rs2 rs1 : Reg) (imm : BitVec 12) (va : Word), va = t.getX rs1 + BitVec.ofInt 64 imm.toInt →
      va.toNat % storeBytes op = 0 → OwnAt s t .store va pa →
      let cells := cellsOf pa (storeBytes op) ((t.getX rs2).toNat % 2 ^ (8 * storeBytes op))
      ∃ s', s' = (((s.touch (s.task t.task).lc [pa]).putCells cells).markDirty cells).putCur t.next ∧
        exec (.store op rs2 rs1 imm) s = .next s' ∧ Stored s s' pa (storeBytes op) (t.getX rs2)) ∧
    (∀ f : Scoped, (t.getX f.rs1).toNat % 2 ^ f.width.toNat = 0 → OwnAt s t .store (t.getX f.rs1) pa →
      s.outstanding s.turn.1 f.scope.toNat = false →
      (∃ s', exec (.stl f) s = .next s' ∧ s'.cur = some t.next ∧ Stored s s' pa (2 ^ f.width.toNat) (t.getX f.rs2) ∧ LineDirty s' pa) ∧
      (∃ s', exec (.stsc f) s = .next s' ∧ s'.cur = some t.next ∧ Stored s s' pa (2 ^ f.width.toNat) (t.getX f.rs2) ∧ LineDirty s' pa))

/-- STORE outside the own window is posted: an entry of the store buffer holds the bytes until they reach their home, and no byte of memory
changes now; to write-combining memory the bytes join the thread's buffer; with the store buffer full, a page that is not resident or no TLB
entry, the thread deposits (01 R19, 11 R248, R255). -/
def Obligations.StoreElsewhere : Prop :=
  ∀ (s : State) (t : Thread) (op : StoreOp) (rs2 rs1 : Reg) (imm : BitVec 12) (va : Word), Issues s t → Unwatched s t →
    va = t.getX rs1 + BitVec.ofInt 64 imm.toInt → va.toNat % storeBytes op = 0 → (s.pcore s.turn.1).triggers = [] →
    let c := s.turn.1
    let b := toBytes (storeBytes op) ((t.getX rs2).toNat % 2 ^ (8 * storeBytes op))
    let acc := { scalarStore (storeBytes op) va (t.getX rs2) none with signed := true }
    (∀ (pa : Nat) (ty : MemType), OutAt s t .store va pa ty → storeDeny t.smode pa ty = none → ty ≠ 2 → s.sbUsed c < 16 →
      let w : WriteReq := { cells := chunkCells pa b, ack := none, src := c / 16, va := va, task := t.task, rel := none, by_ := s.issuerOf t.task }
      let s' := ((s.touch (s.task t.task).lc [pa]).sbPush c s.turn.2 t.task (.data w false (ty == 3))).putCur t.next
      exec (.store op rs2 rs1 imm) s = .next s' ∧ SameMemory s s') ∧
    (∀ pa : Nat, OutAt s t .store va pa 2 → storeDeny t.smode pa 2 = none → t.wc = none →
      exec (.store op rs2 rs1 imm) s = .next (((s.touch (s.task t.task).lc [pa]).pushOnce (.wcBufferTimeout c s.turn.2)).putCur
        ({ t with wc := some { cells := (chunkCells pa b).foldl (fun (m : Tbl Byte) y => m.set y.1 y.2) [], va := va } } : Thread).next)) ∧
    (∀ (pa : Nat) (ty : MemType) (s1 : State) (r : RecRef), OutAt s t .store va pa ty → storeDeny t.smode pa ty = none → ty ≠ 2 →
      16 ≤ s.sbUsed c → Waits s t t 1 0 va (.access acc) s1 r → exec (.store op rs2 rs1 imm) s = .next (s1.pushOnce (.storeBufferLeave c))) ∧
    (∀ (pg : PageRef) (s1 : State) (r : RecRef), s.locOf (s.task t.task).lc (s.threadTr t .store va) = some (.absent pg) →
      Waits s t t 2 0 va (.access acc) s1 r → exec (.store op rs2 rs1 imm) s = .next (s1.pushOnce (.pageInComplete pg))) ∧
    (∀ (s1 : State) (r : RecRef), s.threadTr t .store va = .miss → Waits s t t 1 0 va (.access acc) s1 r →
      exec (.store op rs2 rs1 imm) s = .next (s1.push (.tlbWalkComplete r)))

/-- A deposit at a yield point frees the slot and makes one record: in the state asked for, with the core's next SEQ, the address of the
instruction, the reply register among the registers it saves, and on the ready queue only if it is ready (01 R18, 05 R110 to R112). -/
def Obligations.DepositRule : Prop :=
  ∀ (s s' : State) (c i : Nat) (i0 t : Thread) (d : Dep) (r : RecRef), t.wc = none →
    (∀ y ∈ (s.lcore (s.task t.task).lc).recs, y.id ≠ s.nextId) →
    s.deposit c i i0 t d = (s', some r) →
    let lc := (s.task t.task).lc
    (s'.slot c i).thread = none ∧ r = { lc := lc, id := s.nextId } ∧
    (∃ x, s'.recOf r = some x ∧ x.st = d.st ∧ x.wait = d.wait ∧ x.reply = d.reply ∧ x.want = d.want ∧ x.task = t.task ∧ x.ipc = i0.pc ∧
      x.seq = (s.pcore c).seq ∧ x.mask = saveMask t d.all d.reply) ∧
    (0 < d.reply → d.reply < 64 → (saveMask t d.all d.reply).getLsbD d.reply = true) ∧
    (s'.pcore c).seq = (s.pcore c).seq + 1 ∧
    (s'.lcore lc).ready = (s.lcore lc).ready ++ (if d.st = .ready then [s.nextId] else [])

/-- The integer vector instructions, on two vectors and with a scalar operand, complete: an active element of vd receives the result, as a
number of its width, every other element keeps its value, `kxvstart` is 0, and nothing else changes (07 R152 to R155). -/
def Obligations.VectorIntegerResult : Prop :=
  ∀ (s : State) (t : Thread) (f : KV), Issues s t →
    let w := 8 * 2 ^ f.ew.toNat
    let a := fun i => elem (t.getV f.vs2) f.ew i
    (∀ e ∈ vectorOps, ∃ v, ActiveElems t f v (fun i r => e.2 w (a i) (elem (t.getV f.vs1) f.ew i) r) ∧
      exec (e.1 f) s = .next (s.putCur ({ t.setV f.vd v with vstart := 0 } : Thread).next)) ∧
    (∀ e ∈ scalarOps, ∃ v, ActiveElems t f v (fun i r => e.2 w (a i) (scalarOperand t f) r) ∧
      exec (e.1 f) s = .next (s.putCur ({ t.setV f.vd v with vstart := 0 } : Thread).next))

/-- The compares complete: bit b·i of the predicate register is the condition on element i where that is active, and every other bit is 0; a
floating compare also raises the flags of its active elements (07 R153, R158). -/
def Obligations.VectorCompareResult : Prop :=
  ∀ (s : State) (t : Thread) (f : KV), Issues s t →
    let b := 2 ^ f.ew.toNat
    let x := fun i => elem (t.getV f.vs2) f.ew i
    let y := fun (k : Bool) i => if k then scalarOperand t f else elem (t.getV f.vs1) f.ew i
    let act := fun i => i * b < t.vl.toNat ∧ (t.getP f.pg.toNat).getLsbD (b * i) = true
    let bitsOf := fun (p : PReg) (C : Nat → Prop) => ∀ j, p.getLsbD j = true ↔ ∃ i, i < elems f.ew ∧ j = b * i ∧ act i ∧ C i
    (∀ e ∈ compareOps, ∃ p, bitsOf p (fun i => e.2.2 (8 * b) (x i) (y e.2.1 i)) ∧
      exec (e.1 f) s = .next (s.putCur ({ t.setP f.vd.toNat p with vstart := 0 } : Thread).next)) ∧
    (∀ e ∈ floatCompares, ∃ p fl, bitsOf p (fun i => (e.2 (Fmt.ofEw f.ew.toNat) (x i) (y false i)).1 = true) ∧
      (∀ k, fl.getLsbD k = true ↔ ∃ i, i < elems f.ew ∧ act i ∧ (e.2 (Fmt.ofEw f.ew.toNat) (x i) (y false i)).2.getLsbD k = true) ∧
      exec (e.1 f) s = .next (s.putCur ({ (t.setP f.vd.toNat p).flag fl with vstart := 0 } : Thread).next))

/-- The floating vector instructions complete: an active element receives the operation's result in the rounding mode of `kxfrm`, every other
element keeps its value, and the sticky flags gain those of the active elements and no others (07 R153, R157, 03 R58, R59). VFCVT completes: the packed destination element i receives the conversion of the packed source element i where i is active, and every
other byte of vd keeps its value (07 R159). -/
def Obligations.VectorFloatResult : Prop :=
  (
    ∀ (s : State) (t : Thread) (f : KV), Issues s t → ∀ e ∈ floatOps,
      let b := 2 ^ f.ew.toNat
      let g := fun i => e.2.2 (Fmt.ofEw f.ew.toNat) t.frm.toNat (elem (t.getV f.vd) f.ew i) (elem (t.getV f.vs2) f.ew i)
        (if e.2.1 then scalarOperand t f else elem (t.getV f.vs1) f.ew i)
      ∃ v fl, ActiveElems t f v (fun i r => r = (g i).bits % 2 ^ (8 * b)) ∧
        (∀ k, fl.getLsbD k = true ↔ ∃ i, i < elems f.ew ∧ (i * b < t.vl.toNat ∧ (t.getP f.pg.toNat).getLsbD (b * i) = true) ∧
          (g i).flags.getLsbD k = true) ∧
        exec (e.1 f) s = .next (s.putCur ({ (t.setV f.vd v).flag fl with vstart := 0 } : Thread).next)) ∧
  (
    ∀ (s : State) (t : Thread) (f : KV), Issues s t → cvtWidth f.vs2.toNat = some f.ew →
      let n := cvtSizes f.vs2.toNat
      let act := fun i => i < elems f.ew ∧ i * 2 ^ f.ew.toNat < t.vl.toNat ∧ (t.getP f.pg.toNat).getLsbD (2 ^ f.ew.toNat * i) = true
      let r := fun i => cvtElem f.vs2.toNat t.frm.toNat (packed (t.getV f.vs1) n.1 i)
      ∃ v fl, (∀ i, act i → 8 * n.2 * (i + 1) ≤ 1024 → packed v n.2 i = (r i).bits % 2 ^ (8 * n.2)) ∧
        (∀ j, (∀ i, act i → ¬(8 * n.2 * i ≤ j ∧ j < 8 * n.2 * (i + 1))) → v.getLsbD j = (t.getV f.vd).getLsbD j) ∧
        (∀ k, fl.getLsbD k = true ↔ ∃ i, act i ∧ (r i).flags.getLsbD k = true) ∧
        exec (.vfcvt f) s = .next (s.putCur ({ (t.setV f.vd v).flag fl with vstart := 0 } : Thread).next))


/-- The integer reductions complete with the sum, the signed maximum or the signed minimum of the active elements in element 0 (the identity where
none is active), and the floating ones with the pairwise tree over all elements, an inactive one counting as the identity; every other element of vd is 0 (07 R160,
03 R69). -/
def Obligations.VectorReductionResult : Prop :=
  ∀ (s : State) (t : Thread) (f : KV), Issues s t →
    let w := 8 * 2 ^ f.ew.toNat
    let a := fun i => elem (t.getV f.vs2) f.ew i
    let act := (List.range (elems f.ew)).filter (fun i => decide (i * 2 ^ f.ew.toNat < t.vl.toNat) && (t.getP f.pg.toNat).getLsbD (2 ^ f.ew.toNat * i))
    let first := fun (v : VReg) (r : Nat) => elem v f.ew 0 = r ∧ ∀ i, 0 < i → i < elems f.ew → elem v f.ew i = 0
    let m := Fmt.ofEw f.ew.toNat
    let tree := fun (op : Nat → Nat → FRes) (ident : Nat) =>
      treeFold op 7 ((List.range (elems f.ew)).map (fun i => if i ∈ act then a i else ident)) 0
    let done := fun (v : VReg) (fl : BitVec 5) => s.putCur ({ (t.setV f.vd v).flag fl with vstart := 0 } : Thread).next
    (∃ v r, first v r ∧ r = (act.map a).sum % 2 ^ w ∧ exec (.vredsum f) s = .next (done v 0)) ∧
    (∃ v r, first v r ∧ intOf w r = act.foldl (fun m i => max m (intOf w (a i))) (-2 ^ (w - 1)) ∧ exec (.vredmax f) s = .next (done v 0)) ∧
    (∃ v r, first v r ∧ intOf w r = act.foldl (fun m i => min m (intOf w (a i))) (2 ^ (w - 1) - 1) ∧ exec (.vredmin f) s = .next (done v 0)) ∧
    (∃ v, let r := tree (fAdd m t.frm.toNat) (m.signBit true)
      first v (r.bits % 2 ^ w) ∧ exec (.vfredsum f) s = .next (done v r.flags)) ∧
    (∃ v, let r := tree (fMinMax m true) (m.signBit true + m.infBits)
      first v (r.bits % 2 ^ w) ∧ exec (.vfredmax f) s = .next (done v r.flags)) ∧
    (∃ v, let r := tree (fMinMax m false) m.infBits
      first v (r.bits % 2 ^ w) ∧ exec (.vfredmin f) s = .next (done v r.flags))

/-- VSEL, VPERM, VSLIDE, VIOTA, VMV_XV, VPRED and VPCNT complete with the result of their rule (07 R156, R161 to R164). -/
def Obligations.VectorPermuteResult : Prop :=
  ∀ (s : State) (t : Thread) (f : KV), Issues s t →
    let b := 2 ^ f.ew.toNat
    let n := elems f.ew
    let a := fun i => elem (t.getV f.vs2) f.ew i
    let e := fun i => elem (t.getV f.vs1) f.ew i
    let pg := t.getP f.pg.toNat
    let act := fun i => decide (i * b < t.vl.toNat) && pg.getLsbD (b * i)
    let done := fun (v : VReg) => s.putCur ({ t.setV f.vd v with vstart := 0 } : Thread).next
    (∃ v, (∀ i, i < n → elem v f.ew i = if i * b < t.vl.toNat then (if pg.getLsbD (b * i) then e i else a i) else elem (t.getV f.vd) f.ew i) ∧
      exec (.vsel f) s = .next (done v)) ∧
    (∃ v, ActiveElems t f v (fun i r => r = if e i < n then a (e i) else 0) ∧ exec (.vperm f) s = .next (done v)) ∧
    (∃ v, ActiveElems t f v (fun i r => ∀ j : Int, j = i + (t.getX f.vs1).toInt → r = if 0 ≤ j ∧ j < n then a j.toNat else 0) ∧
      exec (.vslide f) s = .next (done v)) ∧
    (∃ v, ActiveElems t f v (fun i r => r = ((List.range i).filter act).length % 2 ^ (8 * b)) ∧ exec (.viota f) s = .next (done v)) ∧
    (f.vs2.toNat < n → ∃ x : Word, x.toInt = intOf (8 * b) (e f.vs2.toNat) ∧
      exec (.vmvXv f) s = .next (s.putCur ({ t.setX f.vd x with vstart := 0 } : Thread).next)) ∧
    (∃ x : Word, x.toNat = ((List.range n).filter act).length ∧
      exec (.vpcnt f) s = .next (s.putCur ({ t.setX f.vd x with vstart := 0 } : Thread).next)) ∧
    (f.vs2.toNat ≤ 6 → ∃ p : PReg,
      (∀ j, j < 128 → p.getLsbD j = (match f.vs2.toNat with
        | 0 => (t.getP f.vs1.toNat).getLsbD j && pg.getLsbD j
        | 1 => (t.getP f.vs1.toNat).getLsbD j || pg.getLsbD j
        | 2 => (t.getP f.vs1.toNat).getLsbD j != pg.getLsbD j
        | 3 => (t.getP f.vs1.toNat).getLsbD j && !pg.getLsbD j
        | 4 => !(t.getP f.vs1.toNat).getLsbD j
        | 5 => true
        | _ => false)) ∧
      exec (.vpred f) s = .next (s.putCur ({ t.setP f.vd.toNat p with vstart := 0 } : Thread).next))

/-- The four vector loads from resident pages of the own window complete at once: each element that is active and at or above `kxvstart` receives the
bytes at its address, a broadcast giving every such element the same ones, every other element keeps its value, and no byte of memory changes (07
R165 to R168). -/
def Obligations.VectorLoadFromOwnWindow : Prop :=
  ∀ (s : State) (t : Thread) (f : KM) (place : Nat → Nat), Issues s t → AtRest s t →
    let b := 2 ^ f.ew.toNat
    let on := fun i => decide (t.vstart.toNat ≤ i) && decide (i * b < t.vl.toNat) && (t.getP f.pg.toNat).getLsbD (b * i)
    ∀ e ∈ [(Instr.vld, fun i : Nat => t.getX f.rs1 + word (b * i)),
           (Instr.vlds, fun i => t.getX f.rs1 + t.getX f.f * word i),
           (Instr.vldx, fun i => t.getX f.rs1 + BitVec.ofInt 64 (intOf 32 (elem (t.getV f.f) 2 i))),
           (Instr.vldb, fun _ => t.getX f.rs1)],
      (∀ i, i < elems f.ew → on i = true → (e.2 i).toNat % b = 0 ∧ OwnAt s t .load (e.2 i) (place i)) →
      ∃ v s', exec (e.1 f) s = .next s' ∧ s'.cur = some ({ t.setV f.vd v with vstart := 0 } : Thread).next ∧ SameMemory s s' ∧
        ∀ i, i < elems f.ew → elem v f.ew i = if on i then little (fun k => s.byteAt (place i + k)) b else elem (t.getV f.vd) f.ew i

/-- The four vector stores to resident pages of the own window complete at once: a byte that some active element at or above `kxvstart` is stored to reads as
the last such element has it, every other byte as before; a broadcast stores the highest active element only (07 R165 to R168). -/
def Obligations.VectorStoreToOwnWindow : Prop :=
  ∀ (s : State) (t : Thread) (f : KM) (place : Nat → Nat), Issues s t → AtRest s t → Unwatched s t →
    let b := 2 ^ f.ew.toNat
    let on := fun i => decide (i < elems f.ew) && decide (t.vstart.toNat ≤ i) && decide (i * b < t.vl.toNat) && (t.getP f.pg.toNat).getLsbD (b * i)
    ∀ e ∈ [(Instr.vst, fun i : Nat => t.getX f.rs1 + word (b * i)),
           (Instr.vsts, fun i => t.getX f.rs1 + t.getX f.f * word i),
           (Instr.vstx, fun i => t.getX f.rs1 + BitVec.ofInt 64 (intOf 32 (elem (t.getV f.f) 2 i))),
           (Instr.vstb, fun _ => t.getX f.rs1)],
      (∀ i, on i = true → (e.2 i).toNat % b = 0 ∧ OwnAt s t .store (e.2 i) (place i)) →
      ∃ s', exec (e.1 f) s = .next s' ∧ s'.cur = some ({ t with vstart := 0 } : Thread).next ∧
        (∀ i k, on i = true → k < b → (∀ j, on j = true → i < j → ¬(place j ≤ place i + k ∧ place i + k < place j + b)) →
          (s'.byteAt (place i + k)).toNat = elem (t.getV f.vd) f.ew i / 256 ^ k % 256) ∧
        (∀ a, (∀ i, on i = true → ¬(place i ≤ a ∧ a < place i + b)) → s'.byteAt a = s.byteAt a)

/-- Each AMO on an aligned word of a resident page of the own window is performed at once: rd receives the old value, sign-extended, memory holds the new one and is otherwise
as before; with a scope nothing is outstanding for, it is also an acquire there (06 R125, R126). -/
def Obligations.AmoInOwnWindow : Prop :=
  ∀ (s : State) (t : Thread) (f : AmoF) (pa : Nat), Issues s t → AtRest s t → s.monitors = [] →
    let n := if f.dbl then 8 else 4
    let va := t.getX f.rs1
    va.toNat % n = 0 → OwnAt s t .store va pa → (f.scope.toNat ≤ 4 → s.outstanding s.turn.1 f.scope.toNat = false) →
    ∀ e ∈ amoOps, ∃ s' old new, exec (e.1 f) s = .next s' ∧ old = little (fun i => s.byteAt (pa + i)) n ∧
      AmoLeaves e.2 (8 * n) old ((t.getX f.rs2).toNat % 2 ^ (8 * n)) ((t.getX f.rd).toNat % 2 ^ (8 * n)) new ∧
      (∃ v : Word, v.toInt = (old : Int).bmod (2 ^ (8 * n)) ∧ s'.cur = some (t.setX f.rd v).next) ∧
      (∀ a, s'.byteAt a = if pa ≤ a ∧ a < pa + n then byteOf (word new) (a - pa) else s.byteAt a) ∧
      (s'.pquad (s.turn.1 / 4)).l1 = if 2 ≤ f.scope.toNat ∧ f.scope.toNat ≤ 4 then [] else (s.pquad (s.turn.1 / 4)).l1

/-- An AMO outside the own window: with rd = x0 it is posted through the store buffer and the thread goes on; else the thread deposits and the
AMO leaves with its record to reply to; a misaligned address traps with cause 6 (06 R125, R126, 04 R94). -/
def Obligations.AmoElsewhere : Prop :=
  ∀ (s : State) (t : Thread) (f : AmoF), Issues s t → (s.pcore s.turn.1).triggers = [] → ∀ e ∈ amoOps,
    let n := if f.dbl then 8 else 4
    let va := t.getX f.rs1
    let c := s.turn.1
    let cmp := if f.rd = 0 then 0 else t.getX f.rd
    let req : Nat → Option RecRef → AmoReq := fun pa reply =>
      { op := e.2, dbl := f.dbl, pa := pa, arg := t.getX f.rs2, cmp := cmp, reply := reply, ack := none, src := c / 16, va := va, task := t.task,
        by_ := s.issuerOf t.task }
    (va.toNat % n ≠ 0 → exec (e.1 f) s = .next (s.trap t 6 va)) ∧
    (∀ (pa : Nat) (ty : MemType), va.toNat % n = 0 → OutAt s t .store va pa ty → amoDeny e.2 pa ty = none → f.rd = 0 → s.sbUsed c < 16 →
      f.scope = 7 → exec (e.1 f) s = .next ((s.sbPush c s.turn.2 t.task (.amo (req pa none))).putCur t.next)) ∧
    (∀ (pa : Nat) (ty : MemType) (s1 : State) (r : RecRef), va.toNat % n = 0 → OutAt s t .store va pa ty → amoDeny e.2 pa ty = none →
      f.rd ≠ 0 → f.scope = 7 → Waits s t t 1 f.rd.toNat va (.access (amoAcc t f e.2)) s1 r →
      exec (e.1 f) s = .next (s1.sbPush c s.turn.2 t.task (.amo (req pa (some r)))))

/-- JOIN, WAIT_NE and WAIT_EQ on a word of a resident page of the own window complete where the condition holds, with the value in rd, as an
acquire; where it does not, the thread deposits and a monitor stands armed with its record in the same action; `join x0` completes at once
(05 R101, 06 R129, R130). -/
def Obligations.WaitOnWord : Prop :=
  ∀ (s : State) (t : Thread) (rd rs1 rs2 : Reg) (pa : Nat) (v : Word), Issues s t → AtRest s t →
    (t.getX rs1).toNat % 8 = 0 → OwnAt s t .load (t.getX rs1) pa → v.toNat = little (fun i => s.byteAt (pa + i)) 8 →
    let va := t.getX rs1
    let c := s.turn.1
    let s0 := s.touch (s.task t.task).lc [pa]
    let acc := fun (op : AccOp) (x : Word) =>
      Want.access { Acc.plain op [{ off := 0, va := va, size := 8, data := 0 }] with arg := x, mask := BitVec.allOnes 128 }
    exec (.join 0) s = .next (s.putCur t.next) ∧
    (rs1 ≠ 0 → v = 0 → exec (.join rs1) s = .next ((s0.acquireL1 c).putCur t.next)) ∧
    (v ≠ t.getX rs2 → exec (.waitNe rd rs2 rs1) s = .next ((s0.acquireL1 c).putCur (t.setX rd v).next)) ∧
    (v = t.getX rs2 → exec (.waitEq rd rs2 rs1) s = .next ((s0.acquireL1 c).putCur (t.setX rd v).next)) ∧
    (∀ (s1 : State) (r : RecRef),
      (rs1 ≠ 0 → v ≠ 0 → Waits s0 t t 5 0 va (acc .join 0) s1 r →
        exec (.join rs1) s = .next { s1 with monitors := s1.monitors ++ [{ pa := pa, value := 0, ne := false, r := r, fired := none }] }) ∧
      (v = t.getX rs2 → Waits s0 t t 7 rd.toNat va (acc .waitNe (t.getX rs2)) s1 r →
        exec (.waitNe rd rs2 rs1) s = .next { s1 with monitors := s1.monitors ++ [{ pa := pa, value := t.getX rs2, ne := true, r := r, fired := none }] }) ∧
      (v ≠ t.getX rs2 → Waits s0 t t 7 rd.toNat va (acc .waitEq (t.getX rs2)) s1 r →
        exec (.waitEq rd rs2 rs1) s = .next { s1 with monitors := s1.monitors ++ [{ pa := pa, value := t.getX rs2, ne := false, r := r, fired := none }] }))

/-- The fences complete at once. With nothing outstanding only the quad L1 changes, which an acquire at `node` or wider drops; with something
outstanding a release leaves a marker of its scope in the store buffer, behind what the thread has sent; an acquire leaves one behind a posted AMO of the
thread that is under way; FENCE acts as `fence.sc sys` and FENCE.I
as `ic.inv core` (04 R78, 06 R121, R122, R131). -/
def Obligations.FenceResult : Prop :=
  ∀ (s : State) (t : Thread) (scope : Reg), Issues s t → t.wc = none →
    let c := s.turn.1
    let k := scope.toNat
    let behind := fun (x : State) => if k ≠ 0 ∧ s.amoOut c t.task = true then x.sbPush c s.turn.2 t.task (.acquire k) else x
    exec (.fenceAcq scope) s = .next ((behind (s.acquireAt c k)).putCur t.next) ∧
    ((k = 0 ∨ s.outstanding c k = false) → k ≠ 4 →
      exec (.fenceRel scope) s = .next (s.putCur t.next) ∧
      exec (.fenceAr scope) s = .next ((behind (s.acquireAt c k)).putCur t.next) ∧
      exec (.fenceSc scope) s = .next ((s.acquireAt c k).putCur t.next)) ∧
    (s.outstanding c k = true → k ≠ 0 → k ≠ 4 →
      exec (.fenceRel scope) s = .next ((s.sbPush c s.turn.2 t.task (.release k false true)).putCur t.next) ∧
      exec (.fenceAr scope) s = .next ((behind ((s.sbPush c s.turn.2 t.task (.release k false true)).acquireAt c k)).putCur t.next) ∧
      exec (.fenceSc scope) s = .next (((s.sbPush c s.turn.2 t.task (.release k true true)).acquireAt c k).putCur t.next)) ∧
    (∀ fm pred succ : BitVec 4, exec (.fence fm pred succ) s = exec (.fenceSc 4) s) ∧
    (∃ s', exec (.fenceSc 4) s = .next s' ∧ s'.cur = some t.next ∧ SameMemory s s' ∧ (s'.pquad (c / 4)).l1 = [] ∧
      (s.outstanding c 4 = true → ∃ e ∈ (s'.pcore c).sb, e.op = .release 4 true true)) ∧
    (s.physOf (s.task t.task).lc = c → exec .fenceI s = exec (.icInv 0) s) ∧
    (∃ s', exec .fenceI s = .next s' ∧ s'.cur = some t.next ∧ SameMemory s s' ∧ 
      (∀ a, ((s'.pcore c).icache.find a).isSome ↔ a ∈ (s'.pcore c).ipins))

/-- BAR_INIT and BAR_ARRIVE on an object that the handle names are posted and complete; an arrival gives rd the token of the phase that the core
sees; BAR_WAIT completes when the phase that the core sees differs from its token's, and else waits; BAR_AW arrives and waits for its own token (06
R132 to R137). Resumed after the error that its phase completed with, a wait arrives at nothing and waits for the next flip (15 R304). A handle that names no object of the thread raises cause 7 with OBJ = the handle in each of the four; a reserved bit of the second operand
raises cause 7 with OBJ = that operand (06 R132, R135 to R137). -/
def Obligations.BarrierInstructionResult : Prop :=
  (
    ∀ (s : State) (t : Thread) (rd rs1 rs2 : Reg) (b : BarRef), Issues s t → t.wc = none → s.barOf (s.task t.task).lc (t.getX rs1) = some b →
      let h := t.getX rs1
      let v := t.getX rs2
      let c := s.turn.1
      let lc := (s.task t.task).lc
      (v.toNat < 2 ^ 25 → exec (.barInit rs1 rs2) s =
        .next ((s.sbPush c s.turn.2 t.task (.barInit b (v.toNat % 2 ^ 24) (v.getLsbD 24))).putCur t.next)) ∧
      (v.toNat < 2 ^ 48 → s.enabledFor c t.task lc b = true → s.outstanding c b.level = false → b.level ≠ 4 → exec (.barArrive rd rs1 rs2) s =
        .next ((s.sbPush c s.turn.2 t.task (.barArrive b v.toNat)).putCur (t.setX rd (tokenOf b (s.copyOf lc b).phase)).next)) ∧
      (∀ p : Bool, v.toNat % 65536 = h.toNat % 65536 → v.toNat < 2 ^ 17 → p = v.getLsbD 16 → t.again = none →
        ((s.copyOf lc b).phase ≠ p → (s.bar b).lerr = 0 → exec (.barWait rs1 rs2) s = .next ((s.barAcquire c b).putCur t.next)) ∧
        ((s.copyOf lc b).phase = p → ∀ s1 r, Waits s t t 6 0 h (.barrier b p false v) s1 r → exec (.barWait rs1 rs2) s = .next s1)) ∧
      (∀ s1 r, t.again = none → s.enabledFor c t.task lc b = true → Waits s t t 6 rd.toNat h (.barrier b (s.copyOf lc b).phase true (tokenOf b (s.copyOf lc b).phase)) s1 r →
        exec (.barAw rd rs1) s = .next ((s1.markRelease c s.turn.2 t.task b.level).sbPush c s.turn.2 t.task (.barArrive b 0))) ∧
      (∀ (a : Word × Word) (s1 : State) (r : RecRef), t.again = some a →
        (v.toNat % 65536 = h.toNat % 65536 → v.toNat < 2 ^ 17 → Waits s t t 6 0 h (.barrier b (s.copyOf lc b).phase false v) s1 r →
          exec (.barWait rs1 rs2) s = .next s1) ∧
        (Waits s t t 6 rd.toNat h (.barrier b (s.copyOf lc b).phase true a.2) s1 r → exec (.barAw rd rs1) s = .next s1))) ∧
  (
    ∀ (s : State) (t : Thread) (rd rs1 rs2 : Reg), Issues s t →
      let h := t.getX rs1
      let v := t.getX rs2
      (s.barOf (s.task t.task).lc h = none →
        exec (.barInit rs1 rs2) s = .next (s.trap t 7 h) ∧ exec (.barArrive rd rs1 rs2) s = .next (s.trap t 7 h) ∧
        exec (.barWait rs1 rs2) s = .next (s.trap t 7 h) ∧ exec (.barAw rd rs1) s = .next (s.trap t 7 h)) ∧
      (∀ b, s.barOf (s.task t.task).lc h = some b →
        (2 ^ 25 ≤ v.toNat → exec (.barInit rs1 rs2) s = .next (s.trap t 7 v)) ∧
        (2 ^ 48 ≤ v.toNat → exec (.barArrive rd rs1 rs2) s = .next (s.trap t 7 v)) ∧
        (v.toNat % 65536 ≠ h.toNat % 65536 ∨ 2 ^ 17 ≤ v.toNat → exec (.barWait rs1 rs2) s = .next (s.trap t 7 v)) ∧
        (s.enabledFor s.turn.1 t.task (s.task t.task).lc b = false →
          (v.toNat < 2 ^ 48 → exec (.barArrive rd rs1 rs2) s = .next (s.trap t 7 h)) ∧
          (t.again = none → exec (.barAw rd rs1) s = .next (s.trap t 7 h)))))


/-- RES_ACQ of a free line of a resident page of the own window reserves it for the task and gives vd its 64 bytes, in bytes 0 to 63, with the rest of vd 0; RES_REL
stores the bytes of its vector that the mask selects and ends the section, after at most 16 instructions between the two; without a section, or at another address, it raises cause 25 (06
R139 to R141). -/
def Obligations.ReservationResult : Prop :=
  ∀ (s : State) (t : Thread) (vd rs1 rs2 : Reg) (pa : Nat),
    let va := t.getX rs1
    let c := s.turn.1
    (IssuesFree s t → AtRest s t → va.toNat % 64 = 0 → OwnAt s t .load va pa →
      ∃ (v : VReg) (s' : State), exec (.resAcq vd rs1) s = .next s' ∧ v.toNat = little (fun i => s.byteAt (pa + i)) 64 ∧
        s'.cur = some ({ t.setV vd v with resv := some { va := va, pa := pa, count := 0 } } : Thread).next ∧
        s'.resvs = [{ pa := pa, holder := t.task, queue := [] }] ∧ SameMemory s s') ∧
    (∀ r : Section, s.cur = some t → t.resv = some r → r.count ≤ 17 → va = r.va → (s.pcore c).triggers = [] → s.monitors = [] → r.pa / 2 ^ 48 = 5 →
      r.pa / 2 ^ 40 % 256 * 16 + r.pa / 2 ^ 36 % 16 = c → s.outstanding c 3 = false →
      ∃ s', exec (.resRel vd rs1 rs2) s = .next s' ∧ s'.cur = some ({ t with resv := none } : Thread).next ∧
        ∀ a, s'.byteAt a = if r.pa ≤ a ∧ a < r.pa + 64 ∧ (t.getX rs2).getLsbD (a - r.pa) = true
          then (t.getV vd).extractLsb' (8 * (a - r.pa)) 8 else s.byteAt a) ∧
    (IssuesFree s t → exec (.resRel vd rs1 rs2) s = .next (s.trap t 25 va)) ∧
    (∀ r : Section, s.cur = some t → t.resv = some r → r.count ≤ 17 → va ≠ r.va → exec (.resRel vd rs1 rs2) s = .next (s.trap t 25 va))

/-- QUIT whose counters pass their checks ends its task: the slot is empty, no task but this one changes where none waits for a place in a stage ring, and behind what the core has sent stand
the release at the named scope with the decrement of rs1's counter, the decrement of the JOIN counter behind a release at `pkg`, and the releases
of the keys and of the range entry; a counter that does not pass traps, one without a TLB entry deposits, and one that a trigger matches halts the core (05 R97, 21 R367). YIELD and a forced yield deposit every register with the thread ready, at the next instruction and at the same one; a thread marked for a kill
is killed at its boundary instead (01 R20, 05 R98, 14 R298). -/
def Obligations.SlotGivenUp : Prop :=
  (
    ∀ (s : State) (t : Thread) (rs1 scope : Reg) (pa1 pa2 : Nat),
      let tk := s.task t.task
      let c := s.turn.1
      let a := t.getX rs1
      let busy := s.outstanding c
      let quiet := (s.pcore c).triggers = []
      (IssuesFree s t → quiet → t.wc = none → tk.launch = 0 →
        (rs1 ≠ 0 → s.counter t.task t.smode a = .at_ pa1) → (tk.join ≠ 0 → s.counter t.task t.smode tk.join = .at_ pa2) →
        ∃ s', exec (.quit rs1 scope) s = .next s' ∧ s'.cur = none ∧ s'.tasks.find t.task = none ∧
          (NoneWaits s tk.part → ∀ k, k ≠ t.task → s'.tasks.find k = s.tasks.find k) ∧ SameMemory s s' ∧
          sbOps s' c = sbOps s c ++
            (if rs1 = 0 then [] else releaseOps scope.toNat (busy scope.toNat) ++ [decrementOp s t pa1 a]) ++
            (if tk.join = 0 then [] else releaseOps 3 (rs1 ≠ 0 || busy 3) ++ [decrementOp s t pa2 tk.join]) ++
            (if releasesOf t.task tk = [] then [] else
              releaseOps 3 (rs1 ≠ 0 || tk.join ≠ 0 || busy 3) ++ (releasesOf t.task tk).map .send)) ∧
      (IssuesFree s t → quiet → rs1 ≠ 0 → ∀ cause, s.counter t.task t.smode a = .fault cause → exec (.quit rs1 scope) s = .next (s.trap t cause a)) ∧
      (IssuesFree s t → quiet → rs1 ≠ 0 → a.toNat % 8 ≠ 0 → exec (.quit rs1 scope) s = .next (s.trap t 6 a)) ∧
      (IssuesFree s t → rs1 ≠ 0 → s.triggerHit c .store t.smode a = true →
        ∃ s', exec (.quit rs1 scope) s = .next s' ∧ (s'.pcore c).halted = true ∧ s'.cur = some t ∧ SameMemory s s') ∧
      (IssuesFree s t → quiet → rs1 ≠ 0 → s.counter t.task t.smode a = .miss → ∀ s1 r, Waits s t t 1 0 a (.quit a tk.join scope.toNat) s1 r →
        exec (.quit rs1 scope) s = .next (s1.push (.tlbWalkComplete r))) ∧
      (Issues s t → t.resv ≠ none → exec (.quit rs1 scope) s = .next (s.trap t 25 0))) ∧
  (
    ∀ (s : State) (t : Thread) (s1 : State) (r : RecRef) (c i : Nat),
      (IssuesFree s t → s.deposit s.turn.1 s.turn.2 t t.next readyDep = (s1, some r) → exec .yield s = .next s1) ∧
      ((s.slot c i).thread = some t → t.resv = none → t.mark ≠ .kill → s.deposit c i t t readyDep = (s1, some r) →
        exec (.forcedYield c i) s = .next s1) ∧
      ((s.slot c i).thread = some t → t.mark = .kill → t.wc = none →
        ∃ s', exec (.forcedYield c i) s = .next s' ∧ (s'.slot c i).thread = none ∧ s'.tasks.find t.task = none ∧
          (NoneWaits s (s.task t.task).part → ∀ k, k ≠ t.task → s'.tasks.find k = s.tasks.find k)) ∧
      (Issues s t → t.resv ≠ none → exec .yield s = .next (s.trap t 25 0)))


/-- SPAWN makes one task, pinned to the core that rs1 names: in a free slot of a core of the spawner's own node, with rd = 0, else at the top of that
core's deque with rd = 1; with earlier stores outstanding the start waits behind a release at the smallest scope that holds both cores. A core number
that is not below R99's kxlcnt raises cause 30 and a misaligned entry cause 0 (05 R99). That this bound is the core count of the task's launch, FIRST + NCORES, or
of its partition outside a launch, is the model's reading (log 54). Where the thread would start at once, its silo has room for the context block. -/
def Obligations.SpawnResult : Prop :=
  ∀ (s : State) (t : Thread) (rd rs1 rs2 : Reg), Issues s t →
    let c := s.turn.1
    let tk := s.task t.task
    let n := (t.getX rs1).toNat % 65536
    let entry := t.getX rs2
    let lc := tk.part * 4096 + n
    let out := s.coresOfTask tk.part tk.launch ≤ n ∨ s.nodeAway (s.nodeOfLc lc)
    let scope := scopeOf tk.lc lc
    let waits := scope ≠ 0 ∧ s.lags c scope
    let slots := if lc / 16 = tk.lc / 16 then s.creditSlots (s.physOf lc) else []
    (out → exec (.spawn rd rs1 rs2) s = .next (s.trap t 30 (word n))) ∧
    (¬out → entry.toNat % 4 ≠ 0 → exec (.spawn rd rs1 rs2) s = .next (s.trap t 0 entry)) ∧
    (¬out → entry.toNat % 4 = 0 → (slots ≠ [] → ¬waits → SiloTakes s lc 64) → ∃ key h s', exec (.spawn rd rs1 rs2) s = .next s' ∧ OneMore s s' key h ∧ ChildOf s t entry n true h ∧
      (IdsLeft s t → ∀ e ∈ s.tasks, e.2.part = tk.part → e.2.tid ≠ h.tid) ∧
      (slots ≠ [] → s'.cur = some (t.setX rd 0).next ∧ ∃ i ∈ slots,
        if waits then (s'.slot (s.physOf lc) i).credit = some key ∧ .startIn key (s.physOf lc) i ∈ sbOps s' c
        else ∃ u, (s'.slot (s.physOf lc) i).thread = some u ∧ u.task = key ∧ u.pc = entry ∧ u.smode = t.smode ∧
          u.getX 10 = t.getX 10 ∧ u.getX 11 = t.getX 11 ∧ u.getX 12 = t.getX 12 ∧ u.getX 13 = t.getX 13) ∧
      (slots = [] → s'.cur = some (t.setX rd 1).next ∧
        if waits then .deliver key lc false ∈ sbOps s' c else (s'.lcore lc).deque = key :: (s.lcore lc).deque))

/-- FORK adds 1 to the counter that rs2 names, in front of the arm, which enters the bottom of the own deque as a task that is not pinned; with rs2 = x0 there is
no counter. The arm is seen behind a release at `node`, or at `sys` where the counter lies in host memory or at a pod peer. A misaligned entry raises cause 0, a misaligned counter cause 6
(05 R100). -/
def Obligations.ForkResult : Prop :=
  ∀ (s : State) (t : Thread) (rs1 rs2 : Reg), Issues s t →
    let c := s.turn.1
    let tk := s.task t.task
    let entry := t.getX rs1
    let a := t.getX rs2
    (entry.toNat % 4 ≠ 0 → exec (.fork rs1 rs2) s = .next (s.trap t 0 entry)) ∧
    (entry.toNat % 4 = 0 → rs2 ≠ 0 → (s.pcore c).triggers = [] → a.toNat % 8 ≠ 0 → exec (.fork rs1 rs2) s = .next (s.trap t 6 a)) ∧
    (entry.toNat % 4 = 0 → ∃ key h s', exec (.fork rs1 0) s = .next s' ∧ OneMore s s' key h ∧ ChildOf s t entry tk.lcore false h ∧
      s'.cur = some t.next ∧ (s'.lcore tk.lc).deque = (s.lcore tk.lc).deque ++ [key]) ∧
    (∀ pa, entry.toNat % 4 = 0 → rs2 ≠ 0 → (s.pcore c).triggers = [] → s.counter t.task t.smode a = .at_ pa →
      ∃ key h s', exec (.fork rs1 rs2) s = .next s' ∧ OneMore s s' key h ∧ ChildOf s t entry tk.lcore false h ∧ s'.cur = some t.next ∧
        sbOps s' c = sbOps s c ++
          [.amo { op := 0, dbl := true, pa := pa, arg := 1, cmp := 0, reply := none, ack := none, src := c / 16, va := a, task := t.task,
                  by_ := s.issuerOf t.task },
           .release (if farPa pa then 4 else 2) false false, .deliver key tk.lc true])

/-- TASK_SUB of a record in resident pages of the own window gives rd the id of the task to be and puts the record into the FIFO of the node's dispatcher, or behind
a release at `pkg` while anything is outstanding; LAUNCH always deposits, wherever its descriptor lies, and its record waits for the home of the descriptor or for the walk; a
misaligned address raises cause 4, and one that does not translate the cause of the translation (05 R102 to R104). SchedulingResult says what answers a launch. -/
def Obligations.SubmitResult : Prop :=
  ∀ (s : State) (t : Thread) (rd rs1 : Reg), Issues s t →
    let c := s.turn.1
    let lc := (s.task t.task).lc
    let ln := lc / 16
    let va := t.getX rs1
    (∀ pa pb, AtRest s t → va.toNat % 64 = 0 → OwnAt s t .load va pa → OwnAt s t .load (va + 64) pb →
      (s.lnode ln).waiters = [] → s.inboxRoom ln = true →
      ∃ tid s' e, exec (.taskSub rd rs1) s = .next s' ∧ s'.cur = some (t.setX rd (word tid)).next ∧ (IdsLeft s t → tid / 2 ^ 20 = s.physOf lc) ∧
        e.body.toNat = little (fun i => s.byteAt (if i < 64 then pa + i else pb + (i - 64))) 128 ∧ e.src = .core lc tid t.smode (s.task t.task).origin ∧
        (if s.lags c 3 then .submit e ln ∈ sbOps s' c else (s'.lnode ln).inbox = (s.lnode ln).inbox ++ [e])) ∧
    ((s.pcore c).triggers = [] → va.toNat % 64 = 0 →
      let piece : Piece := { off := 0, va := va, size := 64, data := 0 }
      let goes := fun (fwd : Tbl Byte) (i : RecRef → Instr) => ∀ s1 r, Waits s t t (if s.inboxRoom ln then 1 else 9) rd.toNat va (.access
          { Acc.plain .readLaunch [piece] with mask := BitVec.allOnes 128, fwd := fwd }) s1 r → exec (.launch rd rs1) s = .next (s1.push (i r))
      (∀ pa ty, OutAt s t .load va pa ty → goes (if s.heldBack c t.task false false then [] else s.forwarded c t.wc [(piece, .out pa ty)]) .homeRequest) ∧
      (∀ pa, OwnAt s t .load va pa → goes [] .homeRequest) ∧
      (∀ pg, s.locOf lc (s.threadTr t .load va) = some (.absent pg) → goes [] .homeRequest) ∧
      (s.threadTr t .load va = .miss → goes [] .tlbWalkComplete) ∧
      (∀ cause, s.threadTr t .load va = .bad cause → exec (.launch rd rs1) s = .next (s.trap t cause va))) ∧
    ((s.pcore c).triggers = [] → va.toNat % 64 ≠ 0 →
      exec (.taskSub rd rs1) s = .next (s.trap t 4 va) ∧ exec (.launch rd rs1) s = .next (s.trap t 4 va))

/-- B_EOD and B_NEOD are taken by flag 4 N + dim of `kxeod`. G_SET writes a guard of the quad resolved, with whether rs1 is not 0, and G_CLR writes it
unresolved: the write stands, beside the earlier writes of one cycle of which that of the highest core stands, until the queue sees it in the cycle
after, when the guards change (05 R118, R119). -/
def Obligations.StreamBranchAndGuard : Prop :=
  ∀ (s : State) (t : Thread) (q rs1 : Reg) (dim : BitVec 2) (imm : BitVec 12), Issues s t →
    let a := t.pc + BitVec.ofInt 64 (imm.toInt * 2)
    let e := (s.task t.task).eod.getLsbD (4 * q.toNat + dim.toNat)
    let lq := (s.task t.task).lc / 4
    (e = true → a.toNat % 4 = 0 → exec (.bEod q dim imm) s = .next (s.putCur (t.goto a))) ∧
    (e = false → a.toNat % 4 = 0 → exec (.bNeod q dim imm) s = .next (s.putCur (t.goto a))) ∧
    (e = false → exec (.bEod q dim imm) s = .next (s.putCur t.next)) ∧
    (e = true → exec (.bNeod q dim imm) s = .next (s.putCur t.next)) ∧
    (a.toNat % 4 ≠ 0 → (e = true → exec (.bEod q dim imm) s = .next (s.trap t 0 a)) ∧ (e = false → exec (.bNeod q dim imm) s = .next (s.trap t 0 a))) ∧
    (∀ (g : Reg), ∀ e ∈ [(Instr.gSet g rs1, Guard.resolved (t.getX rs1 != 0)), (.gClr g, .unresolved)], ∃ s', exec e.1 s = .next s' ∧
      s'.cur = some t.next ∧ SameMemory s s' ∧ (s'.lquad lq).guardAt = s.clock ∧ guardLook lq ∈ s'.agenda ∧
      (s'.lquad lq).guardNew.find g.toNat = some (match (if (s.lquad lq).guardAt < s.clock then none else (s.lquad lq).guardNew.find g.toNat) with
        | some (v, c) => if (s.task t.task).lc < c then (v, c) else (e.2, (s.task t.task).lc)
        | none => (e.2, (s.task t.task).lc))) ∧
    ((s.lquad lq).queue = [] → (s.lquad lq).guardNew ≠ [] → ((s.lquad lq).guardAt = s.clock → s.issuesNow = false) →
      ∃ s', exec (guardLook lq) s = .next s' ∧ (s'.lquad lq).guardNew = [] ∧
        (s'.lquad lq).guards = (s.lquad lq).guardNew.foldl (fun (m : Tbl Guard) w => m.set w.1 w.2.1) (s.lquad lq).guards)

/-- Q_BIND of an aligned descriptor in a resident page of the own window: with a descriptor that keeps the rules of R150 the stream register holds its fields
at position 0 with its flags clear, an in stream's channel has its ring and its capacity in credits on the way to the producer, and an out stream's channel is
open; any other descriptor raises cause 52, and a misaligned address cause 4 (06 R143, R144, R150). -/
def Obligations.StreamBind : Prop :=
  ∀ (s : State) (t : Thread) (q rs1 : Reg) (pa : Nat) (d : BitVec 256), Issues s t →
    let va := t.getX rs1
    let tk := s.task t.task
    let got := Stream.ofBits va d tk.lc (s.coresOfTask tk.part tk.launch)
    (va.toNat % 32 ≠ 0 → exec (.qBind q rs1) s = .next (s.trap t 4 va)) ∧
    (AtRest s t → va.toNat % 32 = 0 → OwnAt s t .load va pa → (s.tasks.find t.task).isSome → tk.sctx.isSome → tk.streams.find q.toNat = none →
      d.toNat = little (fun i => s.byteAt (pa + i)) 32 →
      (got = none → exec (.qBind q rs1) s = .next ((s.touch tk.lc [pa]).trap t 52 va)) ∧
      (∀ st, got = some st → (st.kind = 1 → (s.chan (chanOf tk st)).inEnd = none) →
        ∃ s', exec (.qBind q rs1) s = .next s' ∧ s'.cur = some t.next ∧ SameMemory s s' ∧ (s'.task t.task).streams.find q.toNat = some st ∧
          (∀ k, k < 4 → (s'.task t.task).eod.getLsbD (4 * q.toNat + k) = false) ∧
          (st.kind = 1 → (s'.chan (chanOf tk st)).inEnd = some (t.task, q.toNat, st.cnt.headD 0 + 1) ∧ (s'.chan (chanOf tk st)).inRing = 0 ∧
            .channelCreditReturn (chanOf tk st) (st.cnt.headD 0 + 1) ∈ s'.agenda) ∧
          (st.kind = 2 → (s'.chan (chanOf tk st)).outBound = true))) ∧
    (∀ st, got = some st → st.desc = va ∧ st.kind = field d 0 2 ∧ st.kind < 3 ∧ st.esize = 2 ^ field d 2 2 ∧ st.ndim = field d 4 3 ∧
      0 < st.ndim ∧ st.ndim ≤ 4 ∧ st.peer = field d 16 16 ∧ st.tag = field d 32 16 ∧ st.base = word (if field d 0 2 = 1 then ownVa tk.lc (field d 64 57) else field d 64 57) ∧ st.pos = 0 ∧
      (∀ k, k < st.ndim → st.cnt[k]? = some (field d (128 + 16 * k) 16) ∧
        st.str[k]? = some ((field d (192 + 16 * k) 16 : Int).bmod 65536)) ∧
      field d 7 9 = 0 ∧ field d 48 16 = 0 ∧ field d 121 7 = 0)

/-- Pops and pushes of a walk through memory in resident pages of the own window: a scalar form moves one element, zero-extended or from the low bytes; a
vector form moves elements `kxvstart` on up to `kxvl`, as many as the walk has left, and the bytes of a popped register past the last element are 0; the
position moves by the count and the walk takes its direction; a pop or push of an unbound stream raises cause 52, with an OBJ that the spec does not give (06 R144, R145, R147, R150, log 13). -/
def Obligations.StreamWalk : Prop :=
  (
    ∀ (s : State) (t : Thread) (q r : Reg) (st : Stream), Issues s t → AtRest s t → (s.task t.task).streams.find q.toNat = some st →
      (s.tasks.find t.task).isSome → st.kind = 0 → st.pos < st.total → 0 < st.esize →
      let moved := fun (n : Nat) (pop : Bool) => some { st with pos := st.pos + n, dir := some pop }
      let n := t.vl.toNat / st.esize - t.vstart.toNat
      let k := min n (st.total - st.pos)
      let e := st.esize
      let i0 := t.vstart.toNat
      (∀ i, i < max 1 k → (st.addr (st.pos + i)).toNat % st.esize = 0) →
      (∀ pa, st.dir ≠ some false → OwnAt s t .load (st.addr st.pos) pa →
        ∃ s', exec (.qPop r q) s = .next s' ∧ s'.cur = some (t.setX r (word (little (fun i => s.byteAt (pa + i)) e))).next ∧
          SameMemory s s' ∧ (s'.task t.task).streams.find q.toNat = moved 1 true) ∧
      (∀ pa, st.dir ≠ some true → Unwatched s t → OwnAt s t .store (st.addr st.pos) pa →
        ∃ s', exec (.qPush q r) s = .next s' ∧ s'.cur = some t.next ∧ Stored s s' pa e (t.getX r) ∧
          (s'.task t.task).streams.find q.toNat = moved 1 false) ∧
      (∀ pa : Nat → Nat, st.dir ≠ some false → 0 < n → (∀ i, i < k → OwnAt s t .load (st.addr (st.pos + i)) (pa i)) →
        ∃ s' v, exec (.vqPop r q) s = .next s' ∧ s'.cur = some (({ t with vstart := 0 } : Thread).setV r v).next ∧ SameMemory s s' ∧
          (s'.task t.task).streams.find q.toNat = moved k true ∧
          (∀ b, b < e * i0 → b < 128 → v.extractLsb' (8 * b) 8 = (t.getV r).extractLsb' (8 * b) 8) ∧
          (∀ i j, i < k → j < e → e * (i0 + i) + j < 128 → v.extractLsb' (8 * (e * (i0 + i) + j)) 8 = s.byteAt (pa i + j)) ∧
          (∀ b, e * (i0 + k) ≤ b → b < 128 → v.extractLsb' (8 * b) 8 = 0#8)) ∧
      (∀ pa : Nat → Nat, st.dir ≠ some true → 0 < n → Unwatched s t → e ≤ 8 → (∀ i, i < k → OwnAt s t .store (st.addr (st.pos + i)) (pa i)) →
        (∀ i j, i < k → j < k → i ≠ j → pa i + e ≤ pa j ∨ pa j + e ≤ pa i) →
        ∃ s', exec (.vqPush q r) s = .next s' ∧ s'.cur = some ({ t with vstart := 0 } : Thread).next ∧
          (s'.task t.task).streams.find q.toNat = moved k false ∧
          (∀ i j, i < k → j < e → s'.byteAt (pa i + j) = (t.getV r).extractLsb' (8 * (e * (i0 + i) + j)) 8) ∧
          (∀ a, (∀ i, i < k → a < pa i ∨ pa i + e ≤ a) → s'.byteAt a = s.byteAt a)) ∧
      (n = 0 → exec (.vqPop r q) s = .next (s.putCur ({ t with vstart := 0 } : Thread).next) ∧
        exec (.vqPush q r) s = .next (s.putCur ({ t with vstart := 0 } : Thread).next))) ∧
  (
    ∀ (s : State) (t : Thread) (rd q : Reg), Issues s t → (s.task t.task).streams.find q.toNat = none →
      exec (.qPop rd q) s = .next (s.drew.trap t 52 (Config.freeWord s.free)) ∧
      exec (.qPush q rd) s = .next (s.drew.trap t 52 (Config.freeWord s.free)) ∧
      (t.vl ≠ 0 → exec (.vqPop rd q) s = .next (s.drew.trap t 52 (Config.freeWord s.free)) ∧
        exec (.vqPush q rd) s = .next (s.drew.trap t 52 (Config.freeWord s.free))))

/-- Pops and pushes of a channel: an element in the ring is taken, and its credit goes back to the producer; an empty ring of a closed channel gives 0 and sets the flag of the
stream; an empty ring of an open channel waits. A push that has a credit uses it and its element follows what the thread has stored; one without waits. The vector forms
move the elements from `kxvstart` up to `kxvl`: a pop waits until the ring holds them all, or takes what a closed channel has left and fills the register with 0; a push waits until it
has credits for all (06 R146, R147). That a pop of an out stream and a push to an in stream raise cause 52 is the model's choice (log 42). -/
def Obligations.StreamChannel : Prop :=
  ∀ (s : State) (t : Thread) (q r : Reg) (st : Stream), q.toNat < 8 → Issues s t → (s.task t.task).streams.find q.toNat = some st →
    (s.tasks.find t.task).isSome →
    let tk := s.task t.task
    let ref := chanOf tk st
    let ch := s.chan ref
    let x := word ((t.getX r).toNat % 2 ^ (8 * st.esize))
    let far := s.nodeAway (s.nodeOfLc (tk.part * 4096 + st.peer))
    let fit := ch.inClosed = false ∧ (ch.inEnd = none ∨ ch.inSize = ch.outSize)
    let scope := scopeOf (tk.part * 4096 + tk.lcore) (tk.part * 4096 + st.peer)
    (st.kind = 1 →
      (0 < ch.inRing → s.ringAbsent tk st 1 = none → s.ringBusy t.task st 1 false = false → s.ringPoison tk st 1 = none → ∃ s', exec (.qPop r q) s = .next s' ∧
        s'.cur = some (t.setX r (word (ofBytes ((s.ringPas tk st ch.head).map s.byteAt)))).next ∧ SameMemory s s' ∧
        (s'.chan ref).inRing = ch.inRing - 1 ∧ (s'.chan ref).head = (ch.head + 1) % (st.cnt.headD 0 + 1) ∧
        s'.agenda = s.agenda ++ [.channelCreditReturn ref 1] ∧
        ((s'.task t.task).eod.getLsbD (4 * q.toNat) = (ch.closed && ch.inRing == 1))) ∧
      (ch.inRing = 0 → ch.closed = true → ∃ s', exec (.qPop r q) s = .next s' ∧ s'.cur = some (t.setX r 0).next ∧ SameMemory s s' ∧
        (s'.task t.task).eod.getLsbD (4 * q.toNat) = true) ∧
      (ch.inRing = 0 → ch.closed = false → ∀ s1 rr, Waits s t t 4 r.toNat st.desc (.stream q.toNat false false []) s1 rr →
        exec (.qPop r q) s = .next s1) ∧
      exec (.qPush q r) s = .next (s.trap t 52 st.desc)) ∧
    (st.kind = 2 →
      (far = false → fit → 0 < ch.credits → ∃ s', exec (.qPush q r) s = .next s' ∧ s'.cur = some t.next ∧ SameMemory s s' ∧
        (s'.chan ref).credits = ch.credits - 1 ∧
        (if scope ≠ 0 ∧ s.lags s.turn.1 scope then .send (.channelElementsArrive ref [x]) ∈ sbOps s' s.turn.1
         else s'.agenda = s.agenda ++ [.channelElementsArrive ref [x]])) ∧
      (far = false → fit → ch.credits = 0 → ∀ s1 rr, Waits s t t 4 0 st.desc (.stream q.toNat true false [x]) s1 rr →
        exec (.qPush q r) s = .next s1) ∧
      (far = true → exec (.qPush q r) s = .next (s.trap t 30 (word st.peer))) ∧
      (far = false → ¬fit → exec (.qPush q r) s = .next (s.trap t 52 st.desc)) ∧
      exec (.qPop r q) s = .next (s.trap t 52 st.desc)) ∧
    (let e := st.esize
     let i0 := t.vstart.toNat
     let n := t.vl.toNat / e - i0
     let after : Thread := { t with vstart := 0 }
     let xs := (List.range n).map (fun i => word (field (t.getV r) (8 * e * (i0 + i)) (8 * e)))
     let k := if n ≤ ch.inRing then n else ch.inRing
     0 < n →
      (st.kind = 1 →
        (n ≤ ch.inRing ∨ ch.closed = true → s.ringAbsent tk st k = none → s.ringBusy t.task st k false = false → s.ringPoison tk st k = none →
          ∃ s' v, exec (.vqPop r q) s = .next s' ∧ s'.cur = some (after.setV r v).next ∧ SameMemory s s' ∧
            (s'.chan ref).inRing = ch.inRing - k ∧ (s'.chan ref).head = (ch.head + k) % (st.cnt.headD 0 + 1) ∧
            s'.agenda = s.agenda ++ (if k = 0 then [] else [.channelCreditReturn ref k]) ∧
            (s'.task t.task).eod.getLsbD (4 * q.toNat) = (ch.closed && ch.inRing == k) ∧
            (∀ b, b < e * i0 → b < 128 → v.extractLsb' (8 * b) 8 = (t.getV r).extractLsb' (8 * b) 8) ∧
            (∀ i j, i < k → j < e → e * (i0 + i) + j < 128 →
              v.extractLsb' (8 * (e * (i0 + i) + j)) 8 = (((s.ringPas tk st (ch.head + i)).map s.byteAt)[j]?).getD 0) ∧
            (∀ b, e * (i0 + k) ≤ b → b < 128 → v.extractLsb' (8 * b) 8 = 0#8)) ∧
        (ch.inRing < n → ch.closed = false → ∀ s1 rr, Waits s t after 4 (32 + r.toNat) st.desc (.stream q.toNat false true [word n, word i0]) s1 rr →
          exec (.vqPop r q) s = .next s1) ∧
        exec (.vqPush q r) s = .next (s.trap t 52 st.desc)) ∧
      (st.kind = 2 →
        (far = false → fit → n ≤ ch.credits → ∃ s', exec (.vqPush q r) s = .next s' ∧ s'.cur = some after.next ∧ SameMemory s s' ∧
          (s'.chan ref).credits = ch.credits - n ∧
          (if scope ≠ 0 ∧ s.lags s.turn.1 scope then .send (.channelElementsArrive ref xs) ∈ sbOps s' s.turn.1
           else s'.agenda = s.agenda ++ [.channelElementsArrive ref xs])) ∧
        (far = false → fit → ch.credits < n → ∀ s1 rr, Waits s t after 4 0 st.desc (.stream q.toNat true true xs) s1 rr →
          exec (.vqPush q r) s = .next s1) ∧
        (far = true → exec (.vqPush q r) s = .next (s.trap t 30 (word st.peer))) ∧
        (far = false → ¬fit → exec (.vqPush q r) s = .next (s.trap t 52 st.desc)) ∧
        exec (.vqPop r q) s = .next (s.trap t 52 st.desc)))

/-- Q_STAT gives 0 for an unbound stream and else its kind, its closed and done marks and what it has available; Q_CLOSE unbinds and clears the stream's flags, and tells the
other end; with `kxvl` = 0 a vector pop or push does nothing (06 R144,
R148, R149). What travels on a channel where no thread waits for it: elements enter the ring behind those there, in order; credits add up; a close marks the channel once no element of
it is still in a store buffer or waits for a line of the ring (06 R142, R146, R149). What a close leaves where its consumer has closed too, or its producer has bound the channel again, is the model's choice (log 42). -/
def Obligations.StreamStatusAndTraffic : Prop :=
  (
    ∀ (s : State) (t : Thread) (rd q : Reg), Issues s t →
      let tk := s.task t.task
      let reads := fun (st : Stream) (marks n : Nat) => (exec (.qStat rd q) s =
        .next (s.putCur (t.setX rd (word (n % 2 ^ 32 * 256 + marks + st.kind * 2 + 1))).next))
      (tk.streams.find q.toNat = none →
        exec (.qStat rd q) s = .next (s.putCur (t.setX rd 0).next) ∧ exec (.qClose q) s = .next (s.putCur t.next)) ∧
      (t.vl = 0 → exec (.vqPop rd q) s = .next (s.putCur ({ t with vstart := 0 } : Thread).next) ∧
        exec (.vqPush q rd) s = .next (s.putCur ({ t with vstart := 0 } : Thread).next)) ∧
      (∀ st, tk.streams.find q.toNat = some st →
        let ch := s.chan (chanOf tk st)
        (st.kind = 0 → st.pos < st.total → reads st 0 (st.total - st.pos)) ∧
        (st.kind = 0 → st.total ≤ st.pos → reads st 16 0) ∧
        (st.kind = 1 → ch.closed = false → reads st 0 ch.inRing) ∧
        (st.kind = 1 → ch.closed = true → reads st (if ch.inRing = 0 then 24 else 8) ch.inRing) ∧
        (st.kind = 2 → reads st (if ch.inClosed then 8 else 0) ch.credits)) ∧
      (∀ st, tk.streams.find q.toNat = some st → s.tasks.find t.task = some tk →
        ∃ s', exec (.qClose q) s = .next s' ∧ s'.cur = some t.next ∧ SameMemory s s' ∧ (s'.task t.task).streams.find q.toNat = none ∧
          (∀ k, k < 4 → (s'.task t.task).eod.getLsbD (4 * q.toNat + k) = false) ∧
          (st.kind = 2 → .channelCloseArrives (chanOf tk st) ∈ s'.agenda) ∧
          (st.kind = 1 → .channelCreditReturn (chanOf tk st) 0 ∈ s'.agenda ∧
            ∀ c ∈ s'.chans, c.ref = chanOf tk st → c.inEnd = none ∧ c.inRing = 0 ∧ c.closed = false ∧
              ∀ b ∈ s.chans, b.ref = chanOf tk st → (∀ e ∈ s.chans, e.ref = chanOf tk st → e = b) → c.inClosed = (b.outBound && !b.closed)))) ∧
  (
    ∀ (s : State) (c : ChanRef) (elems : List Word) (n : Nat),
      let ch := s.chan c
      (∀ key q cap st, ch.inEnd = some (key, q, cap) → (s.task key).streams.find q = some st → s.streamWaiter key q false = none →
        s.monitors = [] → s.binds = [] → s.marks = [] → s.resvs = [] → s.parked = [] →
        ∃ s', exec (.channelElementsArrive c elems) s = .next s' ∧ (s'.chan c).inRing = ch.inRing + elems.length ∧ s'.tasks = s.tasks) ∧
      (ch.inEnd = none → s.resvs = [] → exec (.channelElementsArrive c elems) s = .next s) ∧
      ((∀ k q, s.streamWaiter k q true = none) →
        ∃ s', exec (.channelCreditReturn c n) s = .next s' ∧ (s'.chan c).credits = ch.credits + n ∧ SameMemory s s' ∧ s'.tasks = s.tasks) ∧
      ((∀ k q, s.streamWaiter k q false = none) → s.elemsHeld c = false → s.elemsQueued c (.channelCloseArrives c) = false →
        ∃ s', exec (.channelCloseArrives c) s = .next s' ∧ (s'.chan c).closed = (ch.inEnd.isSome || !ch.inClosed) ∧ (s'.chan c).outBound = (s.producer c).isSome ∧
          (s'.chan c).credits = (if (s.producer c).isSome then ch.credits else 0) ∧ (s'.chan c).inRing = ch.inRing ∧ SameMemory s s' ∧ s'.tasks = s.tasks) ∧
      (s.elemsHeld c = true ∨ s.elemsQueued c (.channelCloseArrives c) = true → exec (.channelCloseArrives c) s = .next { s with agenda := .channelCloseArrives c :: s.agenda }))


/-- MX_ISSUE and CP_ISSUE: a word that fails a check raises cause 27 with the check's number; one that passes is appended to the quad's queue with what the thread and its core hold
at issue, and the thread goes on; with the queue full the thread deposits at wait kind 9 and the word is held with its record (08 R175, R176, R181, 09 R200, R202). -/
def Obligations.EngineIssueResult : Prop :=
  ∀ (s : State) (t : Thread) (vs : Reg) (sel : BitVec 2), Issues s t →
    let tk := s.task t.task
    let lq := tk.lc / 4
    let w := (t.getV vs).extractLsb' (256 * sel.toNat) 256
    let n1 := checkWord w (16 * (numOfLc tk.lc / 16)) (s.coresOfTask tk.part tk.launch) (s.barOf tk.lc (word (Tw.bar w))).isSome
    let n2 := checkCopy w (s.barOf tk.lc (word (Cd.bar w))).isSome
    let isCmd := fun (c : Cmd) => c.id = s.nextId ∧ c.w = w ∧ c.frm = t.frm ∧ c.scl = tk.scl ∧ c.sscl = tk.sscl ∧
      c.satp = (s.csrs tk.lc).satp ∧ c.task = t.task ∧ c.lc = tk.lc ∧ c.launch = tk.launch ∧ c.smode = t.smode ∧ c.err = 0
    let isCopy := fun (c : Copy) => c.id = s.nextId ∧ c.d = w ∧ c.satp = (s.csrs tk.lc).satp ∧ c.task = t.task ∧ c.lc = tk.lc ∧
      c.launch = tk.launch ∧ c.smode = t.smode ∧ c.row = 0 ∧ c.pos = 0 ∧ c.err = 0
    (n1 ≠ 0 → exec (.mxIssue vs sel) s = .next (s.trap t 27 (word n1))) ∧
    (n1 = 0 → (s.lquad lq).queue.length < 32 → ∃ s', exec (.mxIssue vs sel) s = .next s' ∧ s'.cur = some t.next ∧ SameMemory s s' ∧
      (s'.lquad lq).queue.map (·.id) = (s.lquad lq).queue.map (·.id) ++ [s.nextId] ∧ ∃ c ∈ (s'.lquad lq).queue, isCmd c) ∧
    (n1 = 0 → 32 ≤ (s.lquad lq).queue.length → ∀ s1 r,
      Waits s.bumpId.drew t t 9 0 (Config.freeWord s.free) (.engineQueue { lq := lq, id := s.nextId }) s1 r → ∃ c, isCmd c ∧
        exec (.mxIssue vs sel) s = .next (s1.setLquad lq { s1.lquad lq with heldCmds := (s1.lquad lq).heldCmds ++ [(c, r)] })) ∧
    (n2 ≠ 0 → exec (.cpIssue vs sel) s = .next (s.trap t 27 (word n2))) ∧
    (n2 = 0 → (s.lquad lq).copies.length < 64 → ∃ s', exec (.cpIssue vs sel) s = .next s' ∧ s'.cur = some t.next ∧ SameMemory s s' ∧
      (s'.lquad lq).copies.map (·.id) = (s.lquad lq).copies.map (·.id) ++ [s.nextId] ∧ ∃ c ∈ (s'.lquad lq).copies, isCopy c) ∧
    (n2 = 0 → 64 ≤ (s.lquad lq).copies.length → ∀ s1 r,
      Waits s.bumpId.drew t t 9 0 (Config.freeWord s.free) (.copyQueue { lq := lq, id := s.nextId }) s1 r → ∃ c, isCopy c ∧
        exec (.cpIssue vs sel) s = .next (s1.setLquad lq { s1.lquad lq with heldCopies := (s1.lquad lq).heldCopies ++ [(c, r)] }))

/-- MMA on its own engine, its operands read: each element of the region is the product of its row and column, added to the old element when the command accumulates, and the
rest of the ACS is as before; a fused drain stores the new rows, and nothing else of memory changes; that the effects are one action, behind the reading of the operands line by line, is the model's choice (log 15) (08 R186, 03 R65, R66). The sums of an integer product: in the wrapping accumulator the exact sum modulo 2^32, whatever the K-steps; in the saturating one each K-step of 8 is clamped (03 R66). -/
def Obligations.MmaResult : Prop :=
  (
    ∀ (s s1 : State) (r : CmdRef) (c : Cmd) (ca cb : List (List Nat)) (fs : List (List (Nat × Nat))), EngineGoes s r c →
      let w := c.w
      Tw.col0 w + Tw.cols w ≤ 256 →
      s.opCodes r.lq c (Tw.aaddr w) (Tw.astr w) (Tw.akm w) (Tw.afmt w) 0 (Tw.rows w) (Tw.depth w) = some ca →
      s.opCodes r.lq c (Tw.baddr w) (Tw.bstr w) (Tw.bkm w) (Tw.bfmt w) 0 (Tw.cols w) (Tw.depth w) = some cb →
      s.lineFactors r.lq c 0 0 = (s1, some fs) →
      (Tw.fused w = true → ∀ m, m < Tw.rows w →
        (s.opCells r.lq c (field w 218 32) (m * fusedPitch w) (List.replicate (drainSize (Tw.drainFmt w) * Tw.cols w) 0)).isSome) →
      ∃ s', exec (.mma r) s = .next s' ∧ Started s' r 0 ∧ OtherAcs s s' r.lq w ∧
        (∀ m n, m < Tw.rows w → n < Tw.cols w → acsAt s' r.lq w m n =
          BitVec.ofNat 32 (productElem w (if Tw.accum w then (acsAt s r.lq w m n).toNat else 0) (ca.getD m []) (cb.getD n [])
            (if Tw.afmt w = 5 then fs.getD m [] else fs.getD n [])).1) ∧
        (Tw.fused w = false → MemoryWith s1 s' []) ∧
        (Tw.fused w = true → ∃ l, DrainCells s s' r.lq c (field w 218 32) (fusedPitch w) l ∧ MemoryWith s1 s' l)) ∧
  (
    ∀ (acc : Nat) (a b : List Int), acc < 2 ^ 32 → a.length = b.length → a.length % 8 = 0 →
      let dot := fun (l : List (Int × Int)) => (l.map (fun e => e.1 * e.2)).sum
      ((sumInt false acc a b).1 : Int) = ((acc : Int) + dot (a.zip b)) % 2 ^ 32 ∧
      (sumInt true acc [] []).1 = acc % 2 ^ 32 ∧
      (∀ x y : List Int, x.length = 8 → y.length = 8 →
        let old := ((sumInt true acc a b).1 : Int).bmod (2 ^ 32)
        ((sumInt true acc (a ++ x) (b ++ y)).1 : Int).bmod (2 ^ 32) = max (-2 ^ 31) (min (2 ^ 31 - 1) (old + dot (x.zip y)))))


/-- The other commands of an engine, started, with their operands read. MNOP changes nothing; MZERO clears its region; MLOAD fills it with 32-bit words; MDRAIN stores the converted rows to
the scratchpad; MDRQ stores the requantised bytes of its columns; MSUMS makes the side sums; MGRP sets the group register. A command whose engine is free and whose
issuer's releases have completed starts, and reads a line of its operands that no step has read yet, and else waits. That a command takes effect in one action is the model's choice (log 15), and so is the scope of the releases that it waits for (log 27) (08 R183, R187 to R189, R194, 12 R265, 03 R67, R68). -/
def Obligations.TileCommandResult : Prop :=
  (∀ (s : State) (r : CmdRef) (c : Cmd), s.cmdOf r = some c → c.part = none →
    let lq := r.lq
    let held := (s.pcore (4 * (s.lquad lq).phys)).stopped = true ∨ s.unreleased c.lc c.task c.after (s.cmdScope lq c) = true ∨ s.engineBusy lq c = true
    ∀ ev ∈ tileSteps r,
      (c.st ≠ .started → held → exec ev s = .next { s with agenda := ev :: s.agenda }) ∧
      (c.st = .started ∨ ¬held → s.marks = [] → s.resvs = [] → (∃ k ∈ s.opKeys lq c, c.cap.find k = none) →
        ∃ s' c' k, exec ev s = .next s' ∧ s'.cmdOf r = some c' ∧ c'.st = .started ∧ ev ∈ s'.agenda ∧ SameMemory s s' ∧
          k ∈ s.opKeys lq c ∧ c.cap.find k = none ∧
          c'.cap = c.cap.set k ((s.keyPa lq c k).map (fun pa => BitVec.ofNat 512 (s.readN pa 64))))) ∧
  ∀ (s : State) (r : CmdRef) (c : Cmd), EngineGoes s r c →
    let w := c.w
    let lq := r.lq
    let region := fun (s' : State) (f : Nat → Nat → BitVec 32) => ∀ m n, m < Tw.rows w → n < Tw.cols w → acsAt s' lq w m n = f m n
    (∃ s', exec (.mnop r) s = .next s' ∧ Started s' r 0 ∧ SameMemory s s' ∧ (s'.lquad lq).acs = (s.lquad lq).acs) ∧
    (∃ s', exec (.mzero r) s = .next s' ∧ Started s' r 0 ∧ SameMemory s s' ∧ region s' (fun _ _ => 0) ∧ OtherAcs s s' lq w ∧
      (Tw.rsum w = true → ∀ m, m < Tw.rows w → (s'.lquad lq).rowsum.get 0 (Tw.row0 w + m) = 0) ∧
      (Tw.csum w = true → ∀ n, n < Tw.cols w → (s'.lquad lq).colsum.get 0 (Tw.col0 w + n) = 0)) ∧
    (∀ v : Nat → Nat → Nat, Tw.col0 w + Tw.cols w ≤ 256 →
      (∀ m n, m < Tw.rows w → n < Tw.cols w → s.opRead lq c (Tw.aaddr w) (m * Tw.astr w + 4 * n) 4 = some (v m n)) →
      ∃ s', exec (.mload r) s = .next s' ∧ Started s' r 0 ∧ SameMemory s s' ∧ region s' (fun m n => BitVec.ofNat 32 (v m n)) ∧ OtherAcs s s' lq w) ∧
    (∀ l, w.getLsbD 218 = false → DrainCells s s lq c (Tw.aaddr w) (Tw.astr w) l →
      ∃ s', exec (.mdrain r) s = .next s' ∧ Started s' r 0 ∧ MemoryWith s s' l ∧ (s'.lquad lq).acs = (s.lquad lq).acs) ∧
    (∀ (e : Nat → Nat) (p : Nat → Nat → Nat), (∀ n, n < Tw.cols w → s.opRead lq c (Tw.baddr w) (8 * n) 8 = some (e n) ∧ columnOk (e n) = true) →
      (∀ m n, m < Tw.rows w → n < Tw.cols w → s.opPa lq c (Tw.aaddr w) (m * Tw.astr w + n) = some (p m n)) →
      ∃ s', exec (.mdrq r) s = .next s' ∧ Started s' r 0 ∧ MemoryWith s s' ((List.range (Tw.rows w)).flatMap (fun m =>
        (List.range (Tw.cols w)).map (fun n => (p m n, BitVec.ofNat 8 (requant (acsAt s lq w m n).toInt
          ((s.lquad lq).rowsum.get 0 (Tw.row0 w + m)).toInt ((s.lquad lq).colsum.get 0 (Tw.col0 w + n)).toInt (Tw.depth w) (Tw.zero w false) (Tw.zero w true)
          (e n) (w.getLsbD 218)).1))))) ∧
    (∀ ca cb : List (List Nat), Tw.rsum w = true → Tw.csum w = true →
      s.opCodes lq c (Tw.aaddr w) (Tw.astr w) (Tw.akm w) 4 0 (Tw.rows w) (Tw.depth w) = some ca →
      s.opCodes lq c (Tw.baddr w) (Tw.bstr w) (Tw.bkm w) 4 0 (Tw.cols w) (Tw.depth w) = some cb →
      ∃ s', exec (.msums r) s = .next s' ∧ Started s' r 0 ∧ SameMemory s s' ∧ (s'.lquad lq).acs = (s.lquad lq).acs ∧
        (∀ m, m < Tw.rows w → (s'.lquad lq).rowsum.get 0 (Tw.row0 w + m) = (if Tw.accum w then (s.lquad lq).rowsum.get 0 (Tw.row0 w + m) else 0) +
          BitVec.ofInt 32 (((ca.getD m []).map (intElem 4 (Tw.asgn w))).sum)) ∧
        (∀ n, n < Tw.cols w → (s'.lquad lq).colsum.get 0 (Tw.col0 w + n) = (if Tw.accum w then (s.lquad lq).colsum.get 0 (Tw.col0 w + n) else 0) +
          BitVec.ofInt 32 (((cb.getD n []).map (intElem 4 (Tw.bsgn w))).sum))) ∧
    (∀ l, (s.pnode (s.lnode (lq / 4)).phys).st = .admitted → s.groupBlock (lq / 4) (field w 218 1) (field w 219 1) = some l →
      ∃ s', exec (.mgrp r) s = .next s' ∧ Started s' r 0 ∧ SameMemory s s' ∧ (s'.lquad lq).group = some (l, field w 218 1, field w 219 1)) ∧
    ((s.pnode (s.lnode (lq / 4)).phys).st ≠ .admitted →
      ∃ s', exec (.mgrp r) s = .next s' ∧ Started s' r 28 ∧ SameMemory s s' ∧ (s'.lquad lq).group = none)

/-- MBAR makes one arrival at its object once no tile command's byte count is under way, and at a disabled object leaves the quad's sticky error instead; a completed command leaves its queue, with its
byte count on the way to its object, which is lost where the way of the control mesh is marked unreachable; a pool command goes to the engine with the fewest commands, and a group command becomes 16 parts, or, with no group set, a tile fault; a part that
has read its operands waits for the others (08 R182, R184, R185, R190, R196 to R198, 17 R332). The tie rule of the pool is R182's; that a pool
command which its own quad keeps stays in its place, and that an MBAR waits for every byte count that is due, are the model's choices (log 51), and so are the hand-out of a group's parts together and their effects as one action (log 15). -/
def Obligations.TileQueueResult : Prop :=
  ∀ (s : State) (r : CmdRef) (c : Cmd), s.cmdOf r = some c →
    let w := c.w
    let lq := r.lq
    let node := (s.lquad lq).phys / 4
    (∀ b, EngineGoes s r c → s.countsDue = false → s.barOf c.lc (word (Tw.bar w)) = some b →
      ∃ s', exec (.mbar r) s = .next s' ∧ Started s' r 0 ∧
        (¬Reaches s node b → s'.bar b = s.bar b ∧ ∃ x ∈ s'.fw.log, x.kind = 1 ∧ x.node = node) ∧
        (Reaches s node b → 1 < (s.bar b).exp - (s.bar b).arr → (s'.bar b).arr = (s.bar b).arr + 1 ∧ (s'.bar b).phase = (s.bar b).phase) ∧
        (Reaches s node b → (s.bar b).exp = 0 → s'.bar b = s.bar b ∧
          (s'.pquad (s.lquad lq).phys).engerr = stickyErr (s.pquad (s.lquad lq).phys).engerr 1 (Tw.site w) (handleOf b))) ∧
    (s.countsDue = true → exec (.mbar r) s = .next { s with agenda := .mbar r :: s.agenda }) ∧
    (c.part = none → (s.lquad lq).heldCmds = [] →
      ∃ s', exec (.tileCommandComplete r) s = .next s' ∧ s'.cmdOf r = none ∧ SameMemory s s' ∧
        (∀ b, Tw.bar w ≠ 0xFFFF → Tw.op w ≠ 8 → s.barOf c.lc (word (Tw.bar w)) = some b → Reaches s node b →
          .barrierByteCount b (tileBytes w false) c.err lq (Tw.site w) false ∈ s'.agenda)) ∧
    (s.poolChoice lq = lq →
      ∃ s' c', exec (.poolForward r) s = .next s' ∧ s'.cmdOf r = some c' ∧ c'.st = .forwarded ∧ c'.part = some (0, 0, r) ∧ SameMemory s s') ∧
    (s.poolChoice lq ≠ lq →
      ∃ s' c', exec (.poolForward r) s = .next s' ∧ s'.cmdOf r = some c' ∧ c'.st = .forwarded ∧ SameMemory s s' ∧
        ∃ y ∈ (s'.lquad (s.poolChoice lq)).queue, y.w = w ∧ y.part = some (0, 0, r) ∧ y.task = c.task) ∧
    ((s.lquad lq).group = none → ∃ s', exec (.groupForward r) s = .next s' ∧ Started s' r 28 ∧ SameMemory s s') ∧
    (∀ nodes x y, (s.lquad lq).group = some (nodes, x, y) → s.groupOperandsOk lq c = true →
      (∀ m ∈ groupMembers nodes, m.2.2 ≠ lq → (s.lquad m.2.2).queue.length < 32) →
      ∃ s' c', exec (.groupForward r) s = .next s' ∧ s'.cmdOf r = some c' ∧ c'.st = .forwarded ∧ c'.parts = 16 ∧ SameMemory s s' ∧
        ∀ m ∈ groupMembers nodes, m.2.2 ≠ lq → ∃ z ∈ (s'.lquad m.2.2).queue, z.w = w ∧ z.part = some (m.1, m.2.1, r)) ∧
    (∀ x y p, c.part = some (x, y, p) → Tw.tgt w = 2 → c.st = .started → (∀ k ∈ s.opKeys lq c, (c.cap.find k).isSome) → s.marks = [] →
      (∃ e ∈ s.partsOf p, e.1 ≠ r ∧ e.2.st ≠ .voted) → ∀ ev ∈ tileSteps r,
        ∃ s' c', exec ev s = .next s' ∧ s'.cmdOf r = some c' ∧ c'.st = .voted ∧ SameMemory s s' ∧ ∀ q, (s'.lquad q).acs = (s.lquad q).acs)

/-- The copy engine: a piece of a descriptor, at most up to the next 64-byte boundary of the destination, is read or made when its addresses are in place and leaves as a posted write for its home, and the next piece is due; when its home has performed the last
write of a descriptor that has sent every piece, the completion is due; a piece whose source meets a reserved line joins the line's queue; a piece that cannot be moved sets the error and ends the descriptor; completion takes it from its queue with its byte count on
the way, which is lost where the way of the control mesh is marked unreachable (06 R142, 09 R203, R204, R206, R207, 17 R332, 18 R343). -/
def Obligations.CopyResult : Prop :=
  ∀ (s s1 s2 : State) (r : CmdRef) (c : Copy) (sp dp : List Nat), s.copyOfRef r = some c → 0 < Cd.rowBytes c.d → c.pos < Cd.rowBytes c.d →
    let d := c.d
    let dva := Cd.dst d + c.row * Cd.dstr d + c.pos
    let sva := Cd.src d + c.row * Cd.sstr d + c.pos
    let n := min (64 - dva % 64) (Cd.rowBytes d - c.pos)
    let last := c.pos + n = Cd.rowBytes d ∧ c.row = Cd.rows d
    let bytes := if Cd.kind d = 1 then (List.range n).map (fun i => BitVec.ofNat 8 (Cd.pattern d / 2 ^ (8 * ((c.pos + i) % 4)))) else sp.map s2.byteAt
    let w : WriteReq := { cells := dp.zip bytes, ack := none, src := (s.lquad r.lq).phys / 4, va := word dva, task := c.task, rel := none, copy := some r }
    let moves := ∃ s' c', exec (.copyStart r) s = .next s' ∧ SameMemory s2 s' ∧ s'.copyOfRef r = some c' ∧ c'.flying = c.flying + 1 ∧ c'.err = c.err ∧
      (if c.pos + n = Cd.rowBytes d then c'.row = c.row + 1 ∧ c'.pos = 0 else c'.row = c.row ∧ c'.pos = c.pos + n) ∧
      (if Cd.net d = 0 then s2.routeWrite w else .homeWrite w) ∈ s'.agenda ∧ (¬last → .copyStart r ∈ s'.agenda)
    let clear := s2.marks = [] ∧ s2.resvs = [] ∧ s2.unreleased c.lc c.task c.after (s2.sourceScope c sva sp) = false
    let fails := fun (s1 : State) => ∃ s' c', exec (.copyStart r) s = .next s' ∧ s'.copyOfRef r = some c' ∧ c'.err = 29 ∧ c'.row = Cd.rows d + 1 ∧
      (c.flying = 0 → .copyComplete r ∈ s'.agenda) ∧ SameMemory s1 s'
    (s.marks = [] →
    (Cd.kind d ≠ 1 → s.copyPas r.lq c .load sva n = (s1, some sp) → s1.copyPas r.lq c .store dva n = (s2, some dp) → clear → moves) ∧
    (Cd.kind d = 1 → sp = [] → s.copyPas r.lq c .store dva n = (s2, some dp) → clear → moves) ∧
    (Cd.kind d ≠ 1 → s.copyPas r.lq c .load sva n = (s1, none) → s1.resvs = [] → fails s1) ∧
    (Cd.kind d = 1 → s.copyPas r.lq c .store dva n = (s1, none) → s1.resvs = [] → fails s1) ∧
    (∀ a x, Cd.kind d ≠ 1 → s.copyPas r.lq c .load sva n = (s1, some sp) → s1.copyPas r.lq c .store dva n = (s2, some dp) → s2.marks = [] →
      s2.unreleased c.lc c.task c.after (s2.sourceScope c sva sp) = false → sp.find? (fun b => s2.gate b (.copyStart r) == .wait) = some a →
      s2.resvs = [x] → x.holder ≠ 0 → exec (.copyStart r) s = .next { s2 with resvs := [{ x with queue := x.queue ++ [.copyStart r] }] })) ∧
    (∀ (p : WriteReq) (a : Nat) (b : Byte) (rest : List (Nat × Byte)), p.copy = some r → p.ack = none → p.rel = none → p.cells = (a, b) :: rest → regionOf a ≠ 3 →
      s.spadGone p.src a = false → s.marks = [] → s.resvs = [] → s.monitors = [] →
      ∃ s' c', exec (.homeWrite p) s = .next s' ∧ MemoryWith s s' p.cells ∧ s'.copyOfRef r = some c' ∧ c'.flying = c.flying - 1 ∧
        (c.flying = 1 → Cd.rows d < c.row → .copyComplete r ∈ s'.agenda)) ∧
    (s.binds = [] → (s.lquad r.lq).heldCopies = [] →
      ∃ s', exec (.copyComplete r) s = .next s' ∧ s'.copyOfRef r = none ∧ SameMemory s s' ∧
        (∀ b, Cd.bar d ≠ 0xFFFF → s.barOf c.lc (word (Cd.bar d)) = some b → Reaches s ((s.lquad r.lq).phys / 4) b →
          .barrierByteCount b (Cd.rowBytes d * (Cd.rows d + 1)) c.err r.lq 0 true ∈ s'.agenda) ∧
        (Cd.bar d = 0xFFFF → c.err ≠ 0 →
          (s'.pquad (s.lquad r.lq).phys).cpyerr = stickyErr (s.pquad (s.lquad r.lq).phys).cpyerr 2 0 0xFFFF))

/-- What reaches a barrier object. `bar.init` sets EXP and the census mark, clears the counts and keeps PHASE. An arrival at a disabled object is discarded; one that is not the last counts; one beyond EXP
sets the error 7. The last one, with the bytes there, completes the phase: PHASE flips, the counts clear, the error moves to LERR, and every record that waits for the flip is ready. A byte count at a
disabled object leaves the quad's sticky error. The cores of the instance see PHASE and the enabled state, those of a package object where its node reaches them;
that they see it (`told`) in the action that changes the object is the model's choice (log 58)
(06 R133 to R138, R394, 17 R332). -/
def Obligations.BarrierObjectResult : Prop :=
  ∀ (s : State) (b : BarRef), b.level < 5 →
    let o := s.bar b
    let reach := fun (lc : Nat) => b.level = 3 → s.unreachable (packageNode b) (s.nodeOfLc lc) = false
    let told := fun (s' : State) => ∀ lc ∈ s.barCores b, reach lc → s'.copyOf lc b = { phase := (s'.bar b).phase, enabled := (s'.bar b).exp != 0 }
    (∀ exp cen src, ∃ s', exec (.barrierInitApply ⟨b, src⟩ exp cen) s = .next s' ∧ told s' ∧ SameMemory s s' ∧
      s'.bar b = { Barrier.reset with exp := exp, cen := cen, phase := o.phase, counted := o.counted }) ∧
    (∀ n e src, o.exp = 0 → exec (.barrierArrivalApply ⟨b, src⟩ n e) s = .next s) ∧
    (∀ n e src, o.exp ≠ 0 → o.arr ≠ o.exp → o.arr + 1 ≠ o.exp → ∃ s', exec (.barrierArrivalApply ⟨b, src⟩ n e) s = .next s' ∧ SameMemory s s' ∧
      s'.bar b = { o with arr := o.arr + 1, bexp := (o.bexp + n) % 2 ^ 48, err := if o.err = 0 then e else o.err }) ∧
    (∀ n src, o.exp ≠ 0 → o.arr = o.exp → o.bcnt < o.bexp → ∃ s', exec (.barrierArrivalApply ⟨b, src⟩ n 0) s = .next s' ∧ SameMemory s s' ∧
      s'.bar b = { o with err := if o.err = 0 then 7 else o.err }) ∧
    (∀ n e src, o.arr + 1 = o.exp → (o.bexp + n) % 2 ^ 48 ≤ o.bcnt → o.wbHeld = false → o.wblink = [] → o.cen = false →
      ∃ s', exec (.barrierArrivalApply ⟨b, src⟩ n e) s = .next s' ∧ told s' ∧ (s'.bar b).phase = !o.phase ∧ (s'.bar b).exp = o.exp ∧
        (s'.bar b).arr = 0 ∧ (s'.bar b).bexp = 0 ∧ (s'.bar b).bcnt = 0 ∧ (s'.bar b).err = 0 ∧
        (s'.bar b).lerr = (if o.err ≠ 0 then o.err else if e ≠ 0 then e else if (o.bexp + n) % 2 ^ 48 < o.bcnt then 29 else 0) ∧
        ∀ r x aw tok, s.recOf r = some x → x.want = .barrier b o.phase aw tok → x.st = .waiting → ∃ y, s'.recOf r = some y ∧ y.st = .ready) ∧
    (∀ n e q site cp, o.exp ≠ 0 → (o.arr ≠ o.exp ∨ (o.bcnt + n) % 2 ^ 48 < o.bexp) → ∃ s', exec (.barrierByteCount b n e q site cp) s = .next s' ∧
      SameMemory s s' ∧ s'.bar b = { o with bcnt := (o.bcnt + n) % 2 ^ 48, err := if o.err = 0 then e else o.err }) ∧
    (∀ n e q site, o.exp = 0 → ∃ s', exec (.barrierByteCount b n e q site false) s = .next s' ∧ SameMemory s s' ∧
      (s'.pquad (s.lquad q).phys).engerr = stickyErr (s.pquad (s.lquad q).phys).engerr 1 site (handleOf b))

/-- COLL_POST of a block in resident pages of the own window: a block that breaks a check is not posted and rd is 0; else rd is the block's id and the block goes to the port processor of the node, behind a
release while anything is outstanding; with no room the thread waits at wait kind 9. A post joins the collective of its group and tag, or opens one; the last one starts it, and one of COUNT 0 has its own events at once. Inputs are read and outputs written a piece at a time,
and each event is delivered as it fires; the pieces and their order are the model's choice (log 41) (09 R208, 19 R345 to R357). -/
def Obligations.CollectiveResult : Prop :=
  (∀ (s : State) (t : Thread) (rd rs1 : Reg) (pa pb : Nat) (blk : BitVec 1024), Issues s t →
    let va := t.getX rs1
    let lc := (s.task t.task).lc
    let pp := s.portOf lc
    (va.toNat % 64 ≠ 0 → exec (.collPost rd rs1) s = .next (s.trap t 4 va)) ∧
    (AtRest s t → va.toNat % 64 = 0 → va.toNat + 128 < 2 ^ 64 → OwnAt s t .load va pa → OwnAt s t .load (va + 64) pb →
      blk.toNat = little (fun i => s.byteAt (pa + i)) 64 + little (fun i => s.byteAt (pb + i)) 64 * 2 ^ 512 →
      (s.blockOk lc blk = false → ∃ s', exec (.collPost rd rs1) s = .next s' ∧ s'.cur = some (t.setX rd 0).next ∧ SameMemory s s' ∧ s'.pps = s.pps) ∧
      (s.blockOk lc blk = true → s.postRoom pp = true → ∃ s' p, exec (.collPost rd rs1) s = .next s' ∧
        s'.cur = some (t.setX rd (word p.id)).next ∧ p.id = pp * 2 ^ 24 + (s.portProc pp).seq ∧ p.blk = blk ∧ p.lc = lc ∧ p.task = t.task ∧
        (.collPost p ∈ sbOps s' s.turn.1 ∨ (s.lags s.turn.1 3 = false ∧ p ∈ (s'.portProc (p.id / 2 ^ 24)).fifo))) ∧
      (∀ s1 r, s.blockOk lc blk = true → s.postRoom pp = false →
        Waits ((s.touch lc [pa, pb]).drew) t t 9 rd.toNat (Config.freeWord s.free) (.collQueue blk) s1 r →
        exec (.collPost rd rs1) s = .next s1))) ∧
  (∀ (s : State) (pp : Nat) (p : CollPost) (rest : List CollPost),
    (∀ e ∈ s.lcores, e.2.recs = []) → s.colls = [] → (s.portProc pp).loading = false → (s.portProc pp).fifo = p :: rest →
    let s0 := s.modPp pp (fun x => { x with fifo := rest })
    (∀ s1 e, s0.readGroup p = (s1, .error e) → ∃ s' c, exec (.collStart pp) s = .next s' ∧ (s'.portProc pp).fifo = rest ∧ c ∈ s'.colls ∧
      c.posts = [(0, p)] ∧ c.err = e ∧ .collReleased c.id 0 ∈ s'.agenda) ∧
    (∀ s1 l, s0.readGroup p = (s1, .ok l) → l.length ≠ 1 → Pb.op p.blk = 6 ∨ Pb.count p.blk ≠ 0 →
      ∃ s' c, exec (.collStart pp) s = .next s' ∧ (s'.portProc pp).fifo = rest ∧ s'.colls = [c] ∧ c.group = l ∧
        c.posts = [(postRank l p.lc, p)] ∧ c.err = 0) ∧
    (∀ s1 l, s0.readGroup p = (s1, .ok l) → l.length ≠ 1 → Pb.op p.blk ≠ 6 → Pb.count p.blk = 0 →
      ∃ s' c e, exec (.collStart pp) s = .next s' ∧ (s'.portProc pp).fifo = rest ∧ s'.colls = [c, e] ∧ c.group = l ∧
        c.posts = [(postRank l p.lc, p)] ∧ c.err = 0 ∧ c.done = [postRank l p.lc] ∧
        e.group = [] ∧ e.posts = [(0, p)] ∧ e.err = 0 ∧ .collReleased e.id 0 ∈ s'.agenda)) ∧
  (∀ (s : State) (pp : Nat) (p : CollPost) (rest : List CollPost) (c : Coll) (s1 : State) (l : List Nat),
    (∀ e ∈ s.lcores, e.2.recs = []) → s.colls = [c] → (s.portProc pp).loading = false → (s.portProc pp).fifo = p :: rest →
    (s.modPp pp (fun x => { x with fifo := rest })).readGroup p = (s1, .ok l) → Pb.op p.blk = 6 ∨ Pb.count p.blk ≠ 0 →
    c.group = l → c.tag = Pb.tag p.blk → c.posts.find (postRank l p.lc) = none → (∀ e ∈ c.posts, partOfLc e.2.lc = partOfLc p.lc) →
    c.posts.length + 1 = l.length → 1 < l.length → c.done.length < l.length →
    ∃ s' c', exec (.collStart pp) s = .next s' ∧ s'.colls = [c'] ∧ c'.posts = c.posts.set (postRank l p.lc) p ∧
      c'.err = (if ∀ e ∈ c.posts, agreeKey e.2.blk = agreeKey p.blk then c.err else if c.err = 0 then 7 else c.err) ∧
      ∀ e ∈ c'.posts, e.1 ∉ c.released → .collReleased c.id e.1 ∈ s'.agenda) ∧
  (∀ (s : State) (id rank : Nat) (c : Coll) (p : CollPost), s.coll id = some c → c.posts.find rank = some p →
    let n := c.group.length
    let got := c.data.get [] rank
    let need := if c.moves then inputBytes p.blk n rank else 0
    (∀ e, EventFires s p 1 c.err e → need ≤ got.length →
      exec (.collReleased id rank) s = .next ((e.modColl id (fun x => { x with released := x.released ++ [rank] })).push (.collReady id rank))) ∧
    (∀ s1, got.length < need → s.marks = [] → s.portPa p .load (Pb.input p.blk + got.length) = (s1, none) → s1.resvs = [] →
      ∃ s' c', exec (.collReleased id rank) s = .next s' ∧ s'.coll id = some c' ∧ c'.err = (if c.err = 0 then 29 else c.err) ∧
        .collReleased id rank ∈ s'.agenda) ∧
    (∀ s1 pa, got.length < need → s.marks = [] → s.portPa p .load (Pb.input p.blk + got.length) = (s1, some pa) → s1.isParked pa = false → s1.resvs = [] →
      ∃ s' c', exec (.collReleased id rank) s = .next s' ∧ s'.coll id = some c' ∧ .collReleased id rank ∈ s'.agenda ∧
        c'.data.get [] rank = got ++ (List.range (min (64 - (Pb.input p.blk + got.length) % 64) (need - got.length))).map (fun i => s1.byteAt (pa + i))) ∧
    (c.full = false → exec (.collReady id rank) s = .next (s.putBack (.collReady id rank))) ∧
    (∀ e, EventFires s p 2 c.err e → c.full = true →
      c.moves = false ∨ ((∀ r ∈ needsOf p.blk n rank, r ∈ c.released) ∧ c.out.find rank = some []) →
      let s1 := e.modColl id (fun x => { x with readied := x.readied ++ [rank] })
      exec (.collReady id rank) s = .next (if c.readied.length + 1 = c.posts.length then
        s1.pushAll ((c.posts.filter (fun e => !c.done.contains e.1)).map (fun e => .collDone id e.1)) else s1)) ∧
    (∀ s1 pa, c.full = true → c.moves = true → (∀ r ∈ needsOf p.blk n rank, r ∈ c.released) → c.out.find rank = none →
      let all := collOutput p.blk (c.group.map (fun e => e / 2 ^ 16 % 64)) ((List.range n).map (fun r => c.data.get [] r)) rank
      let k := min (64 - Pb.recv p.blk % 64) all.length
      all ≠ [] → s.marks = [] → s.portPa p .store (Pb.recv p.blk) = (s1, some pa) → s1.isParked pa = false → s1.resvs = [] → s1.monitors = [] → s1.binds = [] →
      ∃ s' c', exec (.collReady id rank) s = .next s' ∧ s'.coll id = some c' ∧ c'.out.find rank = some (all.drop k) ∧
        MemoryWith s1 s' ((all.take k).mapIdx (fun i b => (pa + i, b)))) ∧
    (∀ e, EventFires s p 3 c.err e → c.done.length + 1 = c.posts.length → ∃ s', exec (.collDone id rank) s = .next s' ∧ s'.coll id = none) ∧
    (∀ e, EventFires s p 3 c.err e → c.done.length + 1 ≠ c.posts.length →
      exec (.collDone id rank) s = .next (e.modColl id (fun x => { x with done := x.done ++ [rank] }))))

/-- The router trees. RED_SEND puts the thread's contribution on its way, RED_RECV takes a delivered result; a bad operand, a core that is not a leaf and a second contribution raise cause 7, a late result cause 50 after
vd is written; without a round or a result to be had the thread waits. An input opens a round or joins one; the last one at the root gives the fold of all, in position order, as the result; a timeout gives what is there with
the mask of what is missing; the result is delivered to the leaves and sent to the children, and its tag is discarded for a window, while a round whose own partial is still unsent is kept
until it goes (the model's choices: log 40) (09 R209 to R211, 19 R361, R363, R395, 20 R364). -/
def Obligations.ReductionRoundResult : Prop :=
  (∀ (s : State) (t : Thread) (v rs1 : Reg), Issues s t →
    let op := t.getX rs1
    let node := s.turn.1 / 16
    let lc := (s.task t.task).lc
    let tree := field op 0 4
    let tag := field op 16 16
    let dtype := field op 4 3
    let redop := field op 8 2
    let leaf := numOfLc lc % 16 ∈ s.treeLocal node tree
    let ok := treeOpBad op = false ∧ op.getLsbD 10 = false
    (treeOpBad op = true ∨ (op.getLsbD 10 = false ∧ ¬leaf) →
      exec (.redSend v rs1) s = .next (s.trap t 7 op) ∧ exec (.redRecv v rs1) s = .next (s.trap t 7 op)) ∧
    (ok → leaf → s.hasSent node tree tag (numOfLc lc % 16) = false →
      s.roundsFull node = false ∨ (s.round node tree tag).isSome ∨ (tree, tag) ∈ (s.pnode node).discard →
      exec (.redSend v rs1) s = .next ((s.push (.reductionInput { node := node, tree := tree, tag := tag, dtype := dtype, redop := redop, from_ := numOfLc lc % 16, vals := widenVec dtype (t.getV v), miss := 0, bad := false, glean := none })).putCur t.next)) ∧
    (ok → leaf → (tree, tag) ∉ (s.pnode node).discard → s.hasSent node tree tag (numOfLc lc % 16) = true →
      exec (.redSend v rs1) s = .next (s.trap t 7 op)) ∧
    (∀ s1 r, ok → leaf → (tree, tag) ∉ (s.pnode node).discard → s.hasSent node tree tag (numOfLc lc % 16) = false →
      s.round node tree tag = none → s.roundsFull node = true →
      Waits s.drew t t 9 0 (Config.freeWord s.free) (.redQueue (t.getV v) op lc) s1 r → exec (.redSend v rs1) s = .next s1) ∧
    (∀ r l, ok → leaf → (s.lcore lc).results = r :: l → r.tree = tree → r.tag = tag →
      let s1 := s.setLcore lc { s.lcore lc with results := l }
      (r.late = false → r.bad = false → r.dtype = dtype → r.redop = redop → exec (.redRecv v rs1) s = .next (s1.putCur (t.setV v r.val).next)) ∧
      (r.late = true → exec (.redRecv v rs1) s = .next (s1.trap (t.setV v r.val) 50 r.miss)) ∧
      (r.late = false → r.bad = true ∨ r.dtype ≠ dtype ∨ r.redop ≠ redop →
        exec (.redRecv v rs1) s = .next (s1.trap (t.setV v r.val) 7 (word (tag * 2 ^ 16 + redop * 2 ^ 8 + dtype * 16 + tree))))) ∧
    (∀ s1 r, ok → leaf → (∀ x ∈ (s.lcore lc).results, x.tree ≠ tree ∨ x.tag ≠ tag) →
      Waits s.drew t t 10 (32 + v.toNat) (Config.freeWord s.free) (.reduction tree tag dtype redop false lc) s1 r → exec (.redRecv v rs1) s = .next s1)) ∧
  (∀ (s : State) (i : RedInput) (o : Round),
    let n := s.pnode i.node
    ((i.tree, i.tag) ∈ n.discard → exec (.reductionInput i) s = .next s) ∧
    ((i.tree, i.tag) ∉ n.discard → i.from_ ∈ s.treeInputs i.node i.tree → i.glean = none →
      (s.round i.node i.tree i.tag = none → s.roundsFull i.node = true → exec (.reductionInput i) s = .next (s.putBack (.reductionInput i))) ∧
      (s.round i.node i.tree i.tag = none → s.roundsFull i.node = false → (∃ p ∈ s.treeInputs i.node i.tree, p ≠ i.from_) →
        ∃ s' r, exec (.reductionInput i) s = .next s' ∧ s'.round i.node i.tree i.tag = some r ∧ r.dtype = i.dtype ∧ r.redop = i.redop ∧
          r.got = [(i.from_, i.vals, i.miss)] ∧ r.sent = false ∧ .roundTimeout i.node i.tree i.tag ∈ s'.agenda) ∧
      (s.round i.node i.tree i.tag = some o → o.sent = false → o.buffered = true → o.bad = false → i.bad = false → i.miss = 0 →
        o.dtype = i.dtype → o.redop = i.redop → o.got.find i.from_ = none → (∀ e ∈ o.got, e.2.2 = 0 ∧ e.2.1 ≠ []) → i.vals ≠ [] →
        (∀ p ∈ s.treeInputs i.node i.tree, p = i.from_ ∨ (o.got.find p).isSome) → s.treeParent i.node i.tree = i.node →
        ∃ s', exec (.reductionInput i) s = .next s' ∧
          .reductionResult { node := i.node, tree := i.tree, tag := i.tag, dtype := i.dtype, redop := i.redop, miss := 0, late := false, bad := false, val := narrowVec i.dtype (foldAll i.dtype i.redop ((o.got.set i.from_ (i.vals, 0)).map (·.2.1))) } ∈ s'.agenda)) ∧
    ((∀ e ∈ s.lcores, e.2.recs = []) → s.round i.node i.tree i.tag = some o → i.tag < 65536 → i.node < 256 → o.tree = i.tree → o.tag = i.tag → o.sent = false →
      s.treeParent i.node i.tree = i.node →
      ∃ s' r, exec (.roundTimeout i.node i.tree i.tag) s = .next s' ∧ .reductionResult r ∈ s'.agenda ∧ r.node = i.node ∧ r.tree = i.tree ∧ r.tag = i.tag ∧
        r.late = true ∧ field r.miss 24 8 = i.node ∧
        ∀ p, p < 16 → (r.miss.getLsbD p = true ↔ p ∈ s.treeLocal i.node i.tree ∧ o.got.find p = none))) ∧
  (∀ (s : State) (r : RedResult),
    let keeps := fun (o : Round) => o.sent = false ∧ s.treeParent r.node r.tree ≠ r.node
    (∃ s', exec (.reductionResult r) s = .next s' ∧
      (∀ o, s.round r.node r.tree r.tag = some o → keeps o → s'.round r.node r.tree r.tag = some { o with given := true }) ∧
      ((∀ o, s.round r.node r.tree r.tag = some o → ¬keeps o) → s'.round r.node r.tree r.tag = none) ∧ (r.tree, r.tag) ∈ (s'.pnode r.node).discard ∧
      .roundDiscardExpiry r.node r.tree r.tag ∈ s'.agenda ∧
      (∀ p lc, p ∈ s.treeLocal r.node r.tree → s.coreAtPos r.node p = some lc → (∀ e ∈ s.lcores, e.2.recs = []) → r ∈ (s'.lcore lc).results) ∧
      (∀ k ∈ s.treeKids r.node r.tree, s.unreachable r.node k = false → .reductionResult { r with node := k } ∈ s'.agenda)) ∧
    ((∀ o, s.round r.node r.tree r.tag = some o → o.given = false) →
      ∃ s', exec (.roundDiscardExpiry r.node r.tree r.tag) s = .next s' ∧ (r.tree, r.tag) ∉ (s'.pnode r.node).discard ∧ SameMemory s s') ∧
    (∀ c ∈ s.colls, c.err = 0 → ∃ s', exec (.roundTimeout r.node r.tree (65536 + c.id)) s = .next s' ∧ { c with err := 50 } ∈ s'.colls))

/-- The weighbridge and census instructions. WB_CFG links a channel to the object its descriptor names, behind the core's own barrier operations on the object where some are on their way, or raises cause 7; WB_RD reads items 0 to 6 and raises cause 7 on 7 to 15; WB_CLR clears the totals and keeps the
link; WB_ACK completes the phase that the channel holds and does nothing where it holds none; CEN_MODE, CEN_BUF and CEN_RD set and read the quad's census, and the commands that have started count nothing after a CEN_MODE; operands with other bits raise cause 7, a misaligned buffer cause 4. That CEN_MODE clears the census is the model's choice (log 46) (09 R212 to R222). -/
def Obligations.WeighbridgeCensusResult : Prop :=
  ∀ (s : State) (t : Thread) (rd rs1 rs2 : Reg), Issues s t →
    let v := t.getX rs1
    let va := t.getX rs2
    let lc := (s.task t.task).lc
    let ch := v.toNat % 4
    let n := v.toNat / 16
    let w := s.weighOf lc ch
    let q := s.lquad (lc / 4)
    let goes := fun (x : Word) => exec (.wbRd rd rs1) s = .next (s.putCur (t.setX rd x).next)
    (4 ≤ v.toNat → exec (.wbCfg rs1 rs2) s = .next (s.trap t 7 v) ∧ exec (.wbClr rs1) s = .next (s.trap t 7 v) ∧
      exec (.wbAck rs1) s = .next (s.trap t 7 v)) ∧
    (256 ≤ v.toNat ∨ v.toNat / 4 % 4 ≠ 0 ∨ 7 ≤ n → exec (.wbRd rd rs1) s = .next (s.trap t 7 v)) ∧
    (v.toNat / 4 % 4 = 0 →
      (n = 0 → goes (word (w.compares * 2 ^ 32 + (if w.mode then 32 else 0) + (if w.event then 16 else 0) + (if w.hold then 8 else 0) +
        (if w.torn then 4 else 0) + (if w.ovf then 2 else 0) + (if w.link.isSome then 1 else 0)))) ∧
      (1 ≤ n → n ≤ 3 → goes (word ((w.acc % 2 ^ 192).toNat / 2 ^ (64 * (n - 1))))) ∧
      (n = 4 → goes (word w.flush)) ∧ (n = 5 → goes w.lastt) ∧
      (n = 6 → goes (match w.link with | some b => word (b.level * 8192 + b.index) | none => 0xFFFF))) ∧
    (v.toNat < 4 → ∃ s', exec (.wbClr rs1) s = .next s' ∧ s'.cur = some t.next ∧ SameMemory s s' ∧
      s'.weighOf lc ch = { w with acc := 0, flush := 0, ovf := false, torn := false, event := false, lastt := 0, compares := 0 }) ∧
    (v.toNat < 4 → w.hold = false → exec (.wbAck rs1) s = .next (s.putCur t.next)) ∧
    (∀ b, v.toNat < 4 → w.hold = true → w.link = some b → ∃ s', exec (.wbAck rs1) s = .next s' ∧ s'.cur = some t.next ∧
      (s'.weighOf lc ch).hold = false ∧ (s'.bar b).phase = !(s.bar b).phase) ∧
    (∀ (pa : Nat) (d : BitVec 512) (b : BarRef), v.toNat < 4 → AtRest s t → va.toNat % 64 = 0 → OwnAt s t .load va pa →
      d.toNat = little (fun i => s.byteAt (pa + i)) 64 →
      let cfg := s.cfgWeigh s.turn.1 t.task lc ch d
      (cfg = none → exec (.wbCfg rs1 rs2) s = .next ((s.touch lc [pa]).trap t 7 va)) ∧
      (cfg.isSome → w.link = none → s.barOf lc (word (field d 320 16)) = some b → ∃ s' w', exec (.wbCfg rs1 rs2) s = .next s' ∧
        s'.cur = some t.next ∧ SameMemory s s' ∧ s'.weighOf lc ch = w' ∧ w'.link = some b ∧ w'.base = field d 0 57 ∧ w'.len = field d 64 64 ∧
        w'.foff = field d 128 16 ∧ w'.stride = field d 144 16 ∧ w'.fmt = field d 160 8 ∧ w'.ref = bits d 192 64 ∧ w'.bound = bits d 256 64 ∧
        w'.acc = 0 ∧ w'.hold = false ∧ (if s.opsFrom s.turn.1 b then .link b lc ch ∈ sbOps s' s.turn.1 else (lc, ch) ∈ (s'.bar b).wblink))) ∧
    (v.toNat < 8 → v.toNat % 4 ≠ 3 → exec (.cenMode rs1) s = .next ((s.setLquad (lc / 4)
      { q with cenMode := v.toNat % 4, cenTrap := v.getLsbD 2, census := [], cenSeq := 0, diverged := false,
               queue := q.queue.map (fun x => if x.st = .started then { x with counts := false } else x) }).putCur t.next)) ∧
    (8 ≤ v.toNat ∨ v.toNat % 4 = 3 → exec (.cenMode rs1) s = .next (s.trap t 7 v)) ∧
    (v.toNat % 64 = 0 → ∃ q', exec (.cenBuf rs1) s = .next ((s.setLquad (lc / 4) q').putCur t.next) ∧ q'.cenBuf = v ∧ q'.cenPos = 0 ∧
      q'.cenSatp = (s.csrs lc).satp ∧ q'.census = q.census ∧ q'.cenMode = q.cenMode ∧ q'.acs = q.acs ∧ q'.queue = q.queue) ∧
    (v.toNat % 64 ≠ 0 → exec (.cenBuf rs1) s = .next (s.trap t 4 v)) ∧
    (v.toNat < 2 ^ 14 → let c := q.census.get Census.zero (v.toNat % 4096)
      exec (.cenRd rd rs1) s = .next (s.putCur (t.setX rd (word (match v.toNat / 4096 with | 0 => c.nan | 1 => c.inf | 2 => c.sat | _ => c.under))).next)) ∧
    (2 ^ 14 ≤ v.toNat → exec (.cenRd rd rs1) s = .next (s.trap t 7 v))

/-- The cache, page and TLB instructions. IC_INV leaves only pinned lines in the I-cache of the own core, and in those of its scope once the thread's earlier stores are released there; IC_PIN fetches and pins the lines of a range, IC_PF only fetches them and IC_UNPIN ends their pins; SP_PIN makes pages
resident and pinned, SP_UNPIN ends their pins, SP_FLUSH writes their dirty lines to their backing and leaves them clean; TLB_INV, in S mode, removes the entries its operand selects in its own core's TLBs, and in every TLB of its scope once the thread's earlier stores are released; an instruction whose walk meets a table entry that is being repaired issues again; TRC_MARK emits a
message where the trace is on. A range of no bytes does nothing, one that wraps raises cause 7 and one outside the own window cause 5 (the pages of sp.pin arrive at once: log 4) (09 R223 to R227, R234). -/
def Obligations.CacheAndPageResult : Prop :=
  ∀ (s : State) (t : Thread) (rs1 rs2 : Reg), Issues s t →
    let v := t.getX rs1
    let len := t.getX rs2
    let tk := s.task t.task
    let lc := tk.lc
    let c := s.turn.1
    let stays := exec (.icPin rs1 rs2 0) s = .next (s.putCur t.next) ∧ exec (.icUnpin rs1 rs2) s = .next (s.putCur t.next) ∧
      exec (.icPf rs1 rs2 0) s = .next (s.putCur t.next) ∧ exec (.spPin rs1 rs2) s = .next (s.putCur t.next) ∧
      exec (.spUnpin rs1 rs2) s = .next (s.putCur t.next) ∧ exec (.spFlush rs1 rs2) s = .next (s.putCur t.next)
    let wraps := 2 ^ 57 < v.toNat % 2 ^ 57 + len.toNat
    let at_ := ownVa lc v.toNat
    let units := unitsIn v.toNat len.toNat 64
    let pages := (unitsIn (at_ - ownBase) len.toNat pageSize).map (fun o => pageAt lc tk.launch o)
    let inside := len ≠ 0 ∧ ¬wraps ∧ ownBase ≤ at_ ∧ at_ + len.toNat ≤ ownBase + windowSize
    let held := s.walkHeld t .fetch (units.map word)
    let calm := fun (s' : State) => s'.cur = some t.next ∧ SameMemory s s'
    (len = 0 → stays) ∧
    (len ≠ 0 → wraps → exec (.icPf rs1 rs2 0) s = .next (s.putCur t.next) ∧ exec (.icPin rs1 rs2 0) s = .next (s.trap t 7 v) ∧
      exec (.icUnpin rs1 rs2) s = .next (s.trap t 7 v) ∧ exec (.spPin rs1 rs2) s = .next (s.trap t 7 v) ∧
      exec (.spUnpin rs1 rs2) s = .next (s.trap t 7 v) ∧ exec (.spFlush rs1 rs2) s = .next (s.trap t 7 v)) ∧
    (len ≠ 0 → ¬wraps → ¬inside → exec (.spPin rs1 rs2) s = .next (s.trap t 5 v) ∧ exec (.spUnpin rs1 rs2) s = .next (s.trap t 5 v) ∧
      exec (.spFlush rs1 rs2) s = .next (s.trap t 5 v)) ∧
    (∀ scope : Reg, ∃ s', exec (.icInv scope) s = .next s' ∧ calm s' ∧
      (∀ a, ((s'.pcore (s.physOf lc)).icache.find a).isSome ↔ a ∈ (s.pcore (s.physOf lc)).ipins) ∧
      (scope ≠ 0 ∧ s.lags c (min scope.toNat 3) = true → .icInv lc scope.toNat ∈ sbOps s' c)) ∧
    (∀ scope : Reg, scope = 0 ∨ s.lags c (min scope.toNat 3) = false → ∃ s', exec (.icInv scope) s = .next s' ∧
      (∀ x ∈ s.coresIn lc scope.toNat, (s'.pcore x).ipins = (s.pcore x).ipins ∧ ∀ a, ((s'.pcore x).icache.find a).isSome ↔ a ∈ (s.pcore x).ipins) ∧
      (scope ≠ 0 → ∀ x ∈ s.quadsIn lc scope.toNat, (s'.pquad x).ipins = (s.pquad x).ipins ∧
        ∀ a, ((s'.pquad x).icache.find a).isSome ↔ a ∈ (s.pquad x).ipins)) ∧
    (len ≠ 0 → ¬wraps → held = true → (∀ k : Reg, exec (.icPin rs1 rs2 k) s = .next s ∧ exec (.icPf rs1 rs2 k) s = .next s) ∧ exec (.icUnpin rs1 rs2) s = .next s) ∧
    (∀ s1 l, len ≠ 0 → ¬wraps → held = false → s.fetchLines t units = (s1, .ok l) →
      ((s1.pcore c).ipins ++ l).eraseDups.length ≤ 256 → ∃ s', exec (.icPin rs1 rs2 0) s = .next s' ∧ s'.cur = some t.next ∧ SameMemory s1 s' ∧
        ∀ a ∈ l, a ∈ (s'.pcore c).ipins ∧ ((s'.pcore c).icache.find a).isSome) ∧
    (∀ s1 l, len ≠ 0 → ¬wraps → held = false → s.fetchLines t units = (s1, .ok l) →
      ((s1.pquad (c / 4)).ipins ++ l).eraseDups.length ≤ 2048 → ∃ s', exec (.icPin rs1 rs2 1) s = .next s' ∧ s'.cur = some t.next ∧ SameMemory s1 s' ∧
        ∀ a ∈ l, a ∈ (s'.pquad (c / 4)).ipins ∧ ((s'.pquad (c / 4)).icache.find a).isSome) ∧
    (∀ s1 cause va, len ≠ 0 → ¬wraps → held = false → s.fetchLines t units = (s1, .error (cause, va)) → ∀ k : Reg,
      exec (.icPin rs1 rs2 k) s = .next (s1.trap t cause (word va))) ∧
    (len ≠ 0 → ¬wraps → held = false → ∃ s', exec (.icUnpin rs1 rs2) s = .next s' ∧ calm s' ∧
      ∀ a ∈ s.someLines t units, a ∉ (s'.pcore c).ipins ∧ a ∉ (s'.pquad (c / 4)).ipins) ∧
    (len ≠ 0 → ¬wraps → held = false → ∃ s', exec (.icPf rs1 rs2 0) s = .next s' ∧ calm s' ∧ ∀ a ∈ s.someLines t units, ((s'.pcore c).icache.find a).isSome) ∧
    (len ≠ 0 → ¬wraps → held = false → ∃ s', exec (.icPf rs1 rs2 1) s = .next s' ∧ calm s' ∧ ∀ a ∈ s.someLines t units, ((s'.pquad (c / 4)).icache.find a).isSome) ∧
    (inside → s.physOf lc = c →
      let pinned := ((s.pcore c).frames.filter (fun e => e.2.pinned)).map (fun e => e.2.page)
      (28 < (pinned ++ pages).eraseDups.length → exec (.spPin rs1 rs2) s = .next (s.trap t 7 v)) ∧
      ((pinned ++ pages).eraseDups.length ≤ 28 → (∀ p ∈ pages, (s.frameOf p).isSome) → ∃ s', exec (.spPin rs1 rs2) s = .next s' ∧ calm s' ∧
        ∀ e ∈ (s'.pcore c).frames, e.2.page ∈ pages → e.2.pinned = true) ∧
      (∀ p f, pages = [p] → t.resv = none → (pinned ++ pages).eraseDups.length ≤ 28 → s.frameOf p = none → (s.pcore c).freeFrame = some f →
        ∃ s' fr, exec (.spPin rs1 rs2) s = .next s' ∧ s'.cur = some t.next ∧ (s'.pcore c).frames.find f = some fr ∧ fr.page = p ∧ fr.pinned = true) ∧
      (∃ s', exec (.spUnpin rs1 rs2) s = .next s' ∧ calm s' ∧ ∀ e ∈ (s'.pcore c).frames, e.2.page ∈ pages → e.2.pinned = false) ∧
      (∃ s', exec (.spFlush rs1 rs2) s = .next s' ∧ s'.cur = some t.next ∧
        (∀ f fr, (s'.pcore c).frames.find f = some fr → fr.page ∈ pages → fr.dirty = 0) ∧
        (∀ f fr i b j, pages = [fr.page] → (s.pcore c).frames = [(f, fr)] → fr.dirty.getLsbD i = true → s.backing fr.page (64 * i) = some b →
          (∀ k d, k ≠ i → s.backing fr.page (64 * k) = some d → b + 64 ≤ d ∨ d + 64 ≤ b) → j < 64 →
          s'.byteAt (b + j) = s.byteAt (frameAddr c f (64 * i) + j)))) ∧
    (∀ scope : Reg, t.smode = false → Illegal s t (.tlbInv rs1 scope)) ∧
    (∀ scope : Reg, t.smode = true → ∃ s', exec (.tlbInv rs1 scope) s = .next s' ∧ calm s' ∧
      (∀ x ∈ s.coresIn lc 0, (s'.pcore x).tlb = (s.pcore x).tlb.filter (fun e => !tlbGoes v (field (s.csrs lc).satp 44 16) e)) ∧
      (∀ x ∈ s.quadsIn lc 0, (s'.pquad x).tlb = (s.pquad x).tlb.filter (fun e => !tlbGoes v (field (s.csrs lc).satp 44 16) e)) ∧
      (s.lags c 1 = true → .tlbInv v (field (s.csrs lc).satp 44 16) lc scope.toNat ∈ sbOps s' c)) ∧
    (∀ scope : Reg, t.smode = true → s.lags c 1 = false → ∃ s', exec (.tlbInv rs1 scope) s = .next s' ∧
      (∀ x ∈ s.coresIn lc scope.toNat, (s'.pcore x).tlb = (s.pcore x).tlb.filter (fun e => !tlbGoes v (field (s.csrs lc).satp 44 16) e)) ∧
      (∀ x ∈ s.quadsIn lc scope.toNat, (s'.pquad x).tlb = (s.pquad x).tlb.filter (fun e => !tlbGoes v (field (s.csrs lc).satp 44 16) e))) ∧
    (∀ imm : BitVec 12, ((s.pcore c).traceOn = false → s.fw.tracing = false → exec (.trcMark imm) s = .next (s.putCur t.next)) ∧
      ((s.pcore c).traceOn = true ∨ s.fw.tracing = true → exec (.trcMark imm) s = .next ((s.setPcore c { s.pcore c with
        trace := (s.pcore c).trace ++ [{ kind := 3, payload := [imm.toNat, tk.tid, s.turn.2, (s.cycle c).toNat] }] }).putCur t.next)))

/-- The handler actions and mailboxes, in S mode only. CONT_RESUME and CONT_SKIP make a faulted record ready with FLT cleared, the second with its resume address behind the instruction; CONT_KILL ends its task and frees the record, but one whose thread has issued a store that is not yet sent is only marked killed until it is;
CONT_MOVE gives it to another core of the partition; MB_BIND binds a word to a task record and MB_UNBIND ends the binding. An address that names no record in a state the action takes raises cause 7. That MB_UNBIND checks its word, and with which causes, as MB_BIND does is the model's choice (log 56) (05 R113, 09 R228 to R232). -/
def Obligations.HandlerActionResult : Prop :=
  ∀ (s : State) (t : Thread) (rs1 rs2 : Reg), IssuesFree s t →
    let a := t.getX rs1
    let lc := (s.task t.task).lc
    let part := (s.task t.task).part
    let n := (t.getX rs2).toNat % 65536
    let far := part * 4096 + n
    let limit := s.coresOfTask part (s.task t.task).launch
    (t.smode = false → Illegal s t (.contResume rs1) ∧ Illegal s t (.contSkip rs1) ∧ Illegal s t (.contKill rs1) ∧
      Illegal s t (.contMove rs1 rs2) ∧ Illegal s t (.mbBind rs1 rs2) ∧ Illegal s t (.mbUnbind rs1)) ∧
    (t.smode = true → s.recAt lc a = none → exec (.contResume rs1) s = .next (s.trap t 7 a) ∧ exec (.contSkip rs1) s = .next (s.trap t 7 a) ∧
      exec (.contKill rs1) s = .next (s.trap t 7 a) ∧ exec (.contMove rs1 rs2) s = .next (s.trap t 7 a)) ∧
    (∀ r x, t.smode = true → s.recAt lc a = some (r, x) →
      (x.st = .waiting ∨ x.st = .ready → exec (.contResume rs1) s = .next (s.trap t 7 a) ∧ exec (.contSkip rs1) s = .next (s.trap t 7 a)) ∧
      (∀ pa, x.st = .faulted → x.heldSlot = none → s.siloPa lc a = some pa → kx57 (s.csrs lc).satp = false → s.marks = [] → (s.pcore (s.physOf lc)).sb = [] → (s.pquad (s.physOf lc / 4)).path = [] →
        (∃ s' y, exec (.contResume rs1) s = .next s' ∧ s'.cur = some t.next ∧ s'.recOf r = some y ∧ y.st = .ready ∧ y.err = none ∧
          (s'.lcore lc).ready = (s.lcore lc).ready ++ [r.id] ∧ s'.readN pa 8 = s.readN pa 8 / 2 * 2) ∧
        (∃ s' y, exec (.contSkip rs1) s = .next s' ∧ s'.cur = some t.next ∧ s'.recOf r = some y ∧ y.st = .ready ∧ y.err = none ∧
          (s'.lcore lc).ready = (s.lcore lc).ready ++ [r.id] ∧
          (s.readN (pa + 40) 8 = 0 → s'.readN pa 8 = (s.readN pa 8 / 4 * 4 + 4) % 2 ^ 64 + s.readN pa 8 % 4 / 2 * 2))) ∧
      (x.st = .waiting ∨ x.st = .ready ∨ x.st = .faulted → x.heldSlot = none → x.task ≠ t.task → s.unsent r x = false →
        ∃ s', exec (.contKill rs1) s = .next s' ∧ s'.cur = some t.next ∧ s'.recOf r = none ∧ s'.tasks.find x.task = none ∧
          (NoneWaits s (s.task x.task).part → ∀ k, k ≠ x.task → s'.tasks.find k = s.tasks.find k)) ∧
      (s.unsent r x = true → ∃ s' y, exec (.contKill rs1) s = .next s' ∧ s'.cur = some t.next ∧ s'.recOf r = some y ∧ y.st = .killed ∧ s'.tasks = s.tasks) ∧
      (x.st = .waiting ∨ x.st = .ready ∨ x.st = .faulted →
        (limit ≤ n ∨ (s.pnode (s.nodeOfLc far)).st ≠ .admitted → exec (.contMove rs1 rs2) s = .next (s.trap t 30 (word n))) ∧
        (n < limit → (s.pnode (s.nodeOfLc far)).st = .admitted →
          (s.moveRec r x far = none → exec (.contMove rs1 rs2) s = .next (s.trap t 24 (word n))) ∧
          ((s.moveRec r x far).isSome → ∃ s' y, exec (.contMove rs1 rs2) s = .next s' ∧ s'.cur = some t.next ∧ y ∈ (s'.lcore far).recs ∧
            y.id = x.id ∧ y.st = x.st ∧ y.movedFrom = some lc ∧ y.seq = (s.pcore (s.physOf far)).seq ∧
            (s'.pcore (s.physOf far)).seq = (s.pcore (s.physOf far)).seq + 1 ∧
            ((s.tasks.find x.task).isSome → (s'.task x.task).lcore = far % 4096))))) ∧
    (t.smode = true → a.toNat % 8 ≠ 0 → exec (.mbBind rs1 rs2) s = .next (s.trap t 4 a) ∧ exec (.mbUnbind rs1) s = .next (s.trap t 4 a)) ∧
    (t.smode = true → a.toNat % 8 = 0 → s.walkHeld t .load [a] = true → exec (.mbBind rs1 rs2) s = .next s ∧ exec (.mbUnbind rs1) s = .next s) ∧
    (∀ s1 p, t.smode = true → a.toNat % 8 = 0 → s.walkHeld t .load [a] = false → s.bindPa s.turn.1 t.task a = (s1, .ok p) → ∃ s', exec (.mbUnbind rs1) s = .next s' ∧
      s'.cur = some t.next ∧ s'.binds = s1.binds.filter (fun b => b.pa != p)) ∧
    (∀ s1 cause, t.smode = true → a.toNat % 8 = 0 → s.walkHeld t .load [a] = false → s.bindPa s.turn.1 t.task a = (s1, .error cause) →
      exec (.mbUnbind rs1) s = .next (s1.trap t cause a)) ∧
    (∀ pa pb s1 p, t.smode = true → a.toNat % 8 = 0 → AtRest s t →
      let va := t.getX rs2
      va.toNat % 64 = 0 → va.toNat + 128 < 2 ^ 64 → OwnAt s t .load va pa → OwnAt s t .load (va + 64) pb →
      (s.touch lc [pa, pb]).bindPa s.turn.1 t.task a = (s1, .ok p) → s1.binds.length < 256 →
      ∃ s' b, exec (.mbBind rs1 rs2) s = .next s' ∧ s'.cur = some t.next ∧ s'.binds = s1.binds.filter (fun b => b.pa != p) ++ [b] ∧
        b.pa = p ∧ b.va = a ∧ b.part = (s1.task t.task).part ∧ b.body.toNat = little (fun i => s.byteAt (pa + i)) 64 + little (fun i => s.byteAt (pb + i)) 64 * 2 ^ 512)

/-- What a record saves comes back: the thread that `restore` builds from the bytes of a record has the resume address, every x, p and v register that the record's mask names with its value and the others 0, the floating and vector
registers of the header, and its hardware loops, where their ends lie within the reach of the header's 16-bit distances (01 R24, 05 R110, 09 R228). -/
def Obligations.RecordRoundTrip : Prop :=
  ∀ (t : Thread) (tk : Task) (seq : BitVec 32) (d : Dep) (fill : Nat) (x : Rec), x.mask = saveMask t d.all d.reply → t.pc.toNat % 4 = 0 →
    let m := x.mask
    let u := restore x (recBytes (header t tk seq m d fill) t m)
    let near := fun (h : HLoop) => (h.start - t.pc).toNat % 4 = 0 ∧ (h.stop - t.pc).toNat % 4 = 0 ∧
      -2 ^ 17 ≤ (h.start - t.pc).toInt ∧ (h.start - t.pc).toInt < 2 ^ 17 ∧ -2 ^ 17 ≤ (h.stop - t.pc).toInt ∧ (h.stop - t.pc).toInt < 2 ^ 17
    u.pc = t.pc ∧ u.task = x.task ∧ u.smode = x.smode ∧ u.lm = x.lm ∧ u.sscratch = x.sscratch ∧
    (∀ n : Reg, n ≠ 0 → u.getX n = if m.getLsbD n.toNat then t.getX n else 0) ∧
    (∀ n : Reg, u.getV n = if m.getLsbD (32 + n.toNat) then t.getV n else 0) ∧
    (∀ n, 0 < n → n < 4 → u.getP n = if m.getLsbD 0 then t.getP n else 0) ∧
    u.fflags = t.fflags ∧ u.vstart = t.vstart ∧ u.lsel = t.lsel ∧
    (t.frm.toNat ≤ 4 → u.frm = t.frm) ∧
    (t.vl.toNat ≤ 128 → t.vl.toNat % 8 = 0 → u.vl = t.vl) ∧
    (t.hl0.remaining ≠ 0 → near t.hl0 → u.hl0 = t.hl0) ∧ (t.hl0.remaining = 0 → u.hl0 = HLoop.off) ∧
    (t.hl1.remaining ≠ 0 → near t.hl1 → u.hl1 = t.hl1) ∧ (t.hl1.remaining = 0 → u.hl1 = HLoop.off)

/-- What leaves a core and what its home does with it. The head of the store buffer leaves for the write path and its home, a release once what it waits for is acknowledged and the core's barrier operations have been told, an arrival and what
follows a release once the core's stores are visible to its quad, an AMO for its word, an acquire once the posted AMOs of its task are acknowledged, and a write that fires a mailbox once the core's earlier writes are acknowledged; an acknowledged entry commits in order; a write is applied at its home, parks at a line under repair, queues at a reserved one, fires the monitors and the mailboxes on the words it writes, and cures a poisoned line that it covers; an AMO is performed
indivisibly and answers its record with the old value; a poisoned line answers with cause 31; a register block that the spec does not give stops the machine (the model's choice, log 30) (06 R125 to R129, R140, R142, 09 R233, 11 R247 to R249, R255, 15 R316, R318). -/
def Obligations.MemoryWriteResult : Prop :=
  (∀ (s : State) (c : Nat), (∀ e ∈ s.lcores, e.2.recs = []) →
    let goes := fun (rest : List SbEnt) (s' : State) => exec (.storeBufferLeave c) s = .next s' ∧ (s'.pcore c).sb = rest ∧ SameMemory s s'
    let path := (s.pquad (c / 4)).path
    let waits := exec (.storeBufferLeave c) s = .next { s with agenda := .storeBufferLeave c :: s.agenda }
    ((s.pcore c).sb = [] → exec (.storeBufferLeave c) s = .next s) ∧
    (∀ e rest, (s.pcore c).sb = e :: rest →
      (∀ w nt, e.op = .data w nt false → (s.fireWaits c w.cells = true → waits) ∧ (s.fireWaits c w.cells = false → ∃ s', goes rest s' ∧
        (s'.pquad (c / 4)).path = path ++ [{ id := e.id, core := c, done := false, acked := false, cells := w.cells }] ∧
        s.routeWrite { cells := w.cells, ack := some (c / 4, e.id), src := c / 16, va := w.va, task := w.task, rel := w.rel, by_ := w.by_ } ∈ s'.agenda)) ∧
      (∀ scope loads stores, e.op = .release scope loads stores →
        (s.barInFlight c = true ∨ (2 ≤ scope ∧ ∃ p ∈ path, p.core = c ∧ p.acked = false ∧ (scope = 4 ∨ p.far = false)) → waits) ∧
        (s.barInFlight c = false → scope < 2 ∨ (∀ p ∈ path, p.core = c → scope = 4 ∨ p.far = false → p.acked = true) → ∃ s', goes rest s' ∧
          (scope ≠ 1 ∨ (∀ p ∈ path, p.core = c → p.far = true) → (s'.pquad (c / 4)).path = path) ∧
          (loads = true → 2 ≤ scope → (s'.pquad (c / 4)).l1 = []))) ∧
      (∀ b n m, e.op = .barInit b n m → Reaches s (c / 16) b → ∃ s', goes rest s' ∧ .barrierInitApply ⟨b, some (c, e.task)⟩ n m ∈ s'.agenda) ∧
      (∀ b n, e.op = .barArrive b n → (b.level ≠ 0 → s.owed c 1 = true → waits) ∧
        (b.level = 0 ∨ s.owed c 1 = false → Reaches s (c / 16) b → ∃ s', goes rest s' ∧ .barrierArrivalApply ⟨b, some (c, e.task)⟩ n 0 ∈ s'.agenda)) ∧
      (∀ i, e.op = .send i → (s.owed c 1 = true → waits) ∧ (s.owed c 1 = false → ∃ s', goes rest s' ∧ i ∈ s'.agenda)) ∧
      (∀ scope, e.op = .acquire scope →
        ((∃ p ∈ path, p.core = c ∧ p.amo = some e.task ∧ p.acked = false) → waits) ∧
        ((∀ p ∈ path, p.core = c → p.amo = some e.task → p.acked = true) → ∃ s', goes rest s' ∧ (2 ≤ scope → (s'.pquad (c / 4)).l1 = []))) ∧
      (∀ a, e.op = .amo a → s.noRoute (c / 16) a.pa = false → s.fireWaits c (s.amoCells c a) = false →
        (a.reply ≠ none → s.quadHeld c e.task = true → waits) ∧
        (a.reply ≠ none → s.quadHeld c e.task = false → ∃ s', goes rest s' ∧ .homeAmo a ∈ s'.agenda) ∧
        (a.reply = none → ∃ s' p, goes rest s' ∧ .homeAmo { a with ack := some (c / 4, e.id) } ∈ s'.agenda ∧
          (s'.pquad (c / 4)).path = path ++ [p] ∧ p.id = e.id ∧ p.core = c ∧ p.acked = false)))) ∧
  (∀ (s : State) (q id : Nat), s.monitors = [] → ∃ s', exec (.writeAck q id) s = .next s' ∧ SameMemory s s' ∧
    (s'.pquad q).path = ((s.pquad q).path.map (fun e => if e.id = id then { e with acked := true, see := none } else e)).dropWhile (fun e => e.acked)) ∧
  (∀ (s : State) (w : WriteReq) (a : Nat) (b : Byte) (rest : List (Nat × Byte)), w.rel = none → w.cells = (a, b) :: rest →
    let plain := regionOf a ≠ 3 ∧ s.spadGone w.src a = false
    let calm := plain ∧ s.resvs = [] ∧ s.monitors = [] ∧ s.binds = []
    let one := fun (pa : Nat) => word ((s.putCells w.cells).readN pa 8)
    (calm → s.marks = [] → ∃ s', exec (.homeWrite w) s = .next s' ∧ MemoryWith s s' w.cells ∧
      ∀ q id, w.ack = some (q, id) → .writeAck q id ∈ s'.agenda ∧ ∀ e ∈ (s'.pquad q).path, e.id = id → e.done = true) ∧
    (plain → s.marks.find (lineOf a) = some .repair → exec (.homeWrite w) s =
      (if 256 ≤ (s.parked.filter (fun e => s.homeNode e.1 == s.homeNode a)).length then .next { s with agenda := .homeWrite w :: s.agenda }
       else .next { s with parked := s.parked ++ [(lineOf a, .homeWrite w)] })) ∧
    (calm → s.marks = [(lineOf a, .poisoned)] → (∀ i, i < 64 → ∃ e ∈ w.cells, e.1 = lineOf a + i) →
      ∃ s', exec (.homeWrite w) s = .next s' ∧ MemoryWith s s' w.cells ∧ s'.marks.find (lineOf a) = none) ∧
    (∀ r, plain → s.marks = [] → s.resvs = [r] → r.pa = lineOf a → r.holder ≠ 0 →
      exec (.homeWrite w) s = .next { s with resvs := [{ r with queue := r.queue ++ [.homeWrite w] }] }) ∧
    (∀ m x, plain → s.marks = [] → s.resvs = [] → s.binds = [] → s.monitors = [m] → m.fired = none →
      (∃ e ∈ w.cells, m.pa ≤ e.1 ∧ e.1 < m.pa + 8) → (if m.ne then one m.pa ≠ m.value else one m.pa = m.value) →
      s.recOf m.r = some x → x.st = .waiting → ∃ s', exec (.homeWrite w) s = .next s' ∧
      (if (s.ackWrite w.ack).uncommitted (s.coreOf m.r / 4) m.pa 8 then s'.monitors = [{ m with fired := some (one m.pa) }]
       else s'.monitors = [] ∧ ∃ y, s'.recOf m.r = some y ∧ y.st = .ready)) ∧
    (∀ k, plain → w.copy = none → s.marks = [] → s.resvs = [] → s.monitors = [] → s.binds = [k] →
      (∀ i, i < 8 → ∃ e ∈ w.cells, e.1 = k.pa + i) → let ln := s.dispatcherOf k.part (s.homeNode k.pa)
      ∃ s' e, exec (.homeWrite w) s = .next s' ∧ e.body = k.body ∧ e.src = .mailbox k.va (one k.pa) (w.by_.bind (·.origin)) ∧
        (if s.inboxRoom ln = true ∧ (s.lnode ln).waiters = [] then e ∈ (s'.lnode ln).inbox ∧ .dispatcherTake ln ∈ s'.agenda
         else .firing e ∈ (s'.lnode ln).waiters)) ∧
    (regionOf a ≠ 3 → s.spadGone w.src a = true → w.ack = none → s.monitors = [] → ∃ s', exec (.homeWrite w) s = .next s' ∧ s'.tasks = s.tasks) ∧
    (regionOf a = 3 → a / 2 ^ 44 % 16 ≠ 0 → a / 2 ^ 44 % 16 ≠ 2 → exec (.homeWrite w) s = .fault (.unlistedRegister a))) ∧
  (∀ (s : State) (w : WriteReq) (line : Nat), w.rel = some line → s.marks = [] → s.monitors = [] → s.binds = [] →
    ∃ s', exec (.homeWrite w) s = .next s' ∧ MemoryWith s s' w.cells ∧
      (∀ r, s.resvs = [r] → r.pa = lineOf line → r.queue = [] → s'.resvs = []) ∧
      (∀ r e l, s.resvs = [r] → r.pa = lineOf line → r.queue = e :: l → s'.resvs = [{ r with holder := 0 }] ∧ e ∈ s'.agenda)) ∧
  (∀ (s : State) (a : AmoReq), a.op < 13 → s.resvs = [] → s.spadGone a.src a.pa = false →
    let n := if a.dbl then 8 else 4
    let old := little (fun i => s.byteAt (a.pa + i)) n
    (s.marks = [] → s.monitors = [] → s.binds = [] →
      (∀ r, a.reply = some r → s.uncommitted (s.coreOf r / 4) a.pa n = false) → ∃ s' new, exec (.homeAmo a) s = .next s' ∧
        AmoLeaves a.op (8 * n) old (a.arg.toNat % 2 ^ (8 * n)) (a.cmp.toNat % 2 ^ (8 * n)) new ∧
        (∀ x, s'.byteAt x = if a.pa ≤ x ∧ x < a.pa + n then byteOf (word new) (x - a.pa) else s.byteAt x) ∧
        (∀ r, a.reply = some r → ∃ (v : Word) (see : Option (Nat × List (Nat × Byte))), v.toInt = (old : Int).bmod (2 ^ (8 * n)) ∧
          .recordReply r { Reply.word_ v with see := see } ∈ s'.agenda) ∧
        (∀ q id, a.reply = none → a.ack = some (q, id) → .writeAck q id ∈ s'.agenda)) ∧
    (∀ r, a.reply = some r → s.uncommitted (s.coreOf r / 4) a.pa n = false → s.marks.find (lineOf a.pa) = some .poisoned →
      ∃ s', exec (.homeAmo a) s = .next s' ∧ .recordReply r (Reply.trap_ 31 a.va) ∈ s'.agenda ∧ SameMemory s s')) ∧
  (∀ (s : State) (c i : Nat),
    ((s.slot c i).thread = none → exec (.wcBufferTimeout c i) s = .next s) ∧
    (∀ t w, (s.slot c i).thread = some t → t.wc = some w → ∃ s' p, exec (.wcBufferTimeout c i) s = .next s' ∧ SameMemory s s' ∧
      (s'.slot c i).thread = some { t with wc := none } ∧ (s'.pquad (c / 4)).path = (s.pquad (c / 4)).path ++ [p] ∧ p.core = c ∧
      p.cells = w.cells ∧ p.acked = false))

/-- What a waiting record gets. A reply is stored in the record's place of its reply register, and the record is ready; one that carries a trap leaves it to the relaunch; a record that has gone discards it. A load at its home reads its bytes; a
wait, or a join once its own forks' increments are there, answers at once or arms a monitor; a reservation is taken or queues; a page of the own window comes in before a wait there is judged; a page comes into a free frame with the bytes of its backing; an I-cache line arrives; a walk that fails makes its record ready with the fault, one that
succeeds sends the request on; a repair ends with the parked requests sent back, or replayed on a poisoned line, before what is on its way (04 R95, 05 R113, 06 R129, R139, R142, 11 R239, 15 R302, R313, R316 to R318). -/
def Obligations.MemoryReadResult : Prop :=
  (∀ (s : State) (r : RecRef) (rep : Reply),
    let core := s.coreOf r
    rep.see = none →
    (s.recOf r = none → exec (.recordReply r rep) s = .next s) ∧
    (∀ x, s.recOf r = some x → x.st ≠ .waiting → exec (.recordReply r rep) s = .next s) ∧
    (∀ x a, s.recOf r = some x → x.st = .waiting → x.want = .access a → kx57 (s.csrs r.lc).satp = false →
      (∀ k, k < 8192 → s.siloPa r.lc (x.addr + word k) = some (x.addr.toNat + k)) →
      (rep.err = none → rep.mask ≠ 0 → 0 < x.reply → x.reply < 32 →
        (a.op = .load ∧ a.scope = none ∧ a.cmp = 0) ∨ (∃ n, a.op = .amo n ∧ a.scope = none) ∨ a.op = .waitNe ∨ a.op = .waitEq ∨ a.op = .join →
        ∃ s' y, exec (.recordReply r rep) s = .next s' ∧ s'.recOf r = some y ∧ y.st = .ready ∧ (s'.lcore r.lc).ready = (s.lcore r.lc).ready ++ [r.id] ∧
          (∀ i, i < 8 → s'.byteAt (x.addr.toNat + xPlace x.mask x.reply + i) = byteOf (rep.val.setWidth 64) i) ∧
          (s'.byteAt (x.addr.toNat + 8)).toNat = (s.byteAt (x.addr.toNat + 8)).toNat / 16 * 16 + 2 ∧
          (a.op = .waitNe ∨ a.op = .waitEq ∨ a.op = .join → (s'.pquad (core / 4)).l1 = [])) ∧
      (∀ e, rep.err = some e → rep.mask = 0 → ∃ s' y, exec (.recordReply r rep) s = .next s' ∧ s'.recOf r = some y ∧ y.st = .ready ∧ y.err = some e))) ∧
  (∀ (s s1 : State) (r : RecRef) (x : Rec) (a : Acc) (p : Piece) (pa : Nat), s.recOf r = some x → s1.recOf r = some x → x.want = .access a →
    x.st = .waiting → a.pieces = [p] → s.heldBack (s.coreOf r) x.task false false = false → s.coreOf r = s1.coreOf r →
    s1.noRoute (s.coreOf r / 16) pa = false → s1.resvs = [] → s.walkParks (s.coreOf r) x a.op.kind a.vas = none →
    let c := s.coreOf r
    (a.op = .load → a.got = 0 → a.fwd = [] → a.cmp = 0 → a.fault = none → p.off = 0 → pa % 64 = p.va.toNat % 64 →
      s.walkPieces c r.lc x .load [p] = (s1, [(p, .out pa 1)], none) →
      s1.readWaits c pa p.size r.id (a.arg == 1) = false → s1.olderThere x pa p.size = false →
      (s1.marks = [] → ∃ s' rep, exec (.homeRequest r) s = .next s' ∧ SameMemory s1 s' ∧ .recordReply r rep ∈ s'.agenda ∧ rep.err = none ∧
        rep.val = accValue a (ofBytes (s1.bytesAt pa p.size))) ∧
      (s1.marks.find (lineOf pa) = some .poisoned → ∃ s' y, exec (.homeRequest r) s = .next s' ∧ s'.recOf r = some y ∧ y.st = .ready ∧
        y.err = some (31, p.va))) ∧
    (∀ l, a.op = .waitNe ∨ a.op = .waitEq ∨ a.op = .join → s.walkPieces c r.lc x a.op [p] = (s1, [(p, l)], none) → l.pa? = some pa → s1.marks = [] →
      (a.op = .join → s1.olderOwn c pa 8 r.id = false ∧ s1.olderThere x pa 8 = false) →
      let v := word (s1.readN pa 8)
      let met := if a.op = .join then v = 0 else if a.op = .waitEq then v = a.arg else v ≠ a.arg
      let m : Monitor := { pa := pa, value := if a.op = .join then 0 else a.arg, ne := a.op == .waitNe, r := r, fired := none }
      let s2 := s1.touch r.lc [pa]
      (met → s1.uncommitted (c / 4) pa 8 = false →
        exec (.homeRequest r) s = .next { s2 with agenda := s2.agenda ++ [.recordReply r (Reply.word_ v)] }) ∧
      (met → s1.uncommitted (c / 4) pa 8 = true → exec (.homeRequest r) s = .next { s2 with monitors := s2.monitors ++ [{ m with fired := some v }] }) ∧
      (¬met → exec (.homeRequest r) s = .next { s2 with monitors := s2.monitors ++ [m] })) ∧
    (∀ pg, a.op = .waitNe ∨ a.op = .waitEq ∨ a.op = .join → s.walkPieces c r.lc x a.op [p] = (s1, [(p, .absent pg)], none) →
      exec (.homeRequest r) s = .next ((s1.pushOnce (.pageInComplete pg)).putBack (.homeRequest r)))) ∧
  (∀ (s s1 : State) (r : RecRef) (x : Rec) (a : Acc) (p : Piece) (l : Loc) (pa : Nat), s.recOf r = some x → x.want = .access a →
    s.walkPieces (s.coreOf r) r.lc x a.op a.pieces = (s1, [(p, l)], none) → l.pa? = some pa → s.walkParks (s.coreOf r) x .load a.vas = none →
    s1.heldBack (s.coreOf r) x.task false false = false → s1.readWaits (s.coreOf r) pa 64 r.id false = false → s1.olderThere x pa 64 = false →
    s1.noRoute (s.coreOf r / 16) pa = false → s1.marks = [] →
    (s1.resvs = [] → ∃ s', exec (.homeReservation r) s = .next s' ∧ SameMemory s1 s' ∧
      s'.resvs = [{ pa := lineOf pa, holder := x.task, queue := [] }] ∧
      .recordReply r { val := BitVec.ofNat 1024 (s1.readN (lineOf pa) 64), mask := BitVec.allOnes 128, err := none } ∈ s'.agenda) ∧
    (∀ q, s1.resvs = [q] → q.pa = lineOf pa → q.holder ≠ 0 →
      exec (.homeReservation r) s = .next { s1 with resvs := [{ q with queue := q.queue ++ [.homeReservation r] }] })) ∧
  (∀ (s : State) (p : PageRef) (f : Nat),
    ((s.pnode (s.nodeOfLc p.lc)).st = .resetting →
      exec (.pageInComplete p) s = .next { s with agenda := .pageInComplete p :: s.agenda }) ∧
    ((s.pnode (s.nodeOfLc p.lc)).st ≠ .resetting → (s.lcore p.lc).recs = [] → s.frameOf p = none →
      (s.pcore (s.physOf p.lc)).freeFrame = some f →
      ∃ s' fr, exec (.pageInComplete p) s = .next s' ∧ (s'.pcore (s.physOf p.lc)).frames.find f = some fr ∧ fr.page = p ∧ fr.dirty = 0 ∧
        fr.pinned = false ∧ ∀ i b j, i < 256 → s.backing p (64 * i) = some b → j < 64 →
          s'.byteAt (frameAddr (s.physOf p.lc) f (64 * i + j)) = s.byteAt (b + j))) ∧
  (∀ (s s1 : State) (r : RecRef) (x : Rec) (a : Acc), s.recOf r = some x → s1.recOf r = some x → x.want = .access a → x.st = .waiting →
    s.walkParks (s.coreOf r) x .fetch a.vas = none → s.walkParks (s.coreOf r) x .load a.vas = none →
    let c := s.coreOf r
    (∀ p cause ok, s.walkPieces c r.lc x .fetch a.pieces = (s1, ok, some (p, cause)) →
      ∃ s' y, exec (.icacheFill r) s = .next s' ∧ s'.recOf r = some y ∧ y.st = .ready ∧ y.err = some (cause, p.va)) ∧
    (∀ p pa ty, s.walkPieces c r.lc x .fetch a.pieces = (s1, [(p, .out pa ty)], none) → (s1.pcore c).isync = false →
      let has := fun (line : Line) => ∃ s' y, exec (.icacheFill r) s = .next s' ∧ (s'.pcore c).icache.find (lineOf pa) = some line ∧
        (s'.pquad (c / 4)).icache.find (lineOf pa) = some line ∧ s'.recOf r = some y ∧ y.st = .ready
      (∀ line, (s1.pquad (c / 4)).icache.find (lineOf pa) = some line → has line) ∧
      ((s1.pquad (c / 4)).icache.find (lineOf pa) = none → s1.readWaits c (lineOf pa) 64 r.id false = false → s1.marks = [] → s1.resvs = [] →
        s1.noRoute (c / 16) pa = false → has (BitVec.ofNat 512 (s1.readN (lineOf pa) 64)))) ∧
    (a.op = .load → a.cmp = 0 →
      (∀ ok, s.walkPieces c r.lc x .load a.pieces = (s1, ok, none) → s1.resvs = [] → s1.parked = [] → ∃ s', exec (.tlbWalkComplete r) s = .next s' ∧ SameMemory s1 s' ∧
        .homeRequest r ∈ s'.agenda) ∧
      (∀ p cause ok, s.walkPieces c r.lc x .load a.pieces = (s1, ok, some (p, cause)) → (∀ q ∈ a.pieces, p.off ≤ q.off) → ∃ s' y, exec (.tlbWalkComplete r) s = .next s' ∧
        s'.recOf r = some y ∧ y.st = .ready ∧ y.err = some (cause, p.va)))) ∧
  (∀ (s : State) (node line : Nat),
    (s.marks.find line ≠ some .repair ∨ s.homeNode line ≠ node →
      exec (.repairRetry node line) s = .next s ∧ exec (.repairPoison node line) s = .next s) ∧
    (s.marks.find line = some .repair → s.homeNode line = node →
      (∃ s', exec (.repairRetry node line) s = .next s' ∧ s'.marks.find line = none ∧ s'.parked = s.parked.filter (fun e => e.1 != line) ∧
        ∀ i, (line, i) ∈ s.parked → (∀ w, i ≠ .homeWrite w) → (∀ a, i ≠ .homeAmo a) → i ∈ s'.agenda) ∧
      (∃ s', exec (.repairPoison node line) s = .next s' ∧ SameMemory s s' ∧ s'.marks.find line = some .poisoned ∧
        s'.parked = s.parked.filter (fun e => e.1 != line) ∧
        s'.agenda = (s.parked.filter (fun e => e.1 == line)).map (·.2) ++ s.agenda)))

/-- From a host queue to an issue slot. A TAIL write enters work, and more of it than the ring holds stops the queue with OVR; the arbiter grants a queue of highest effective priority, whose record enters its dispatcher's FIFO; a remap leaves
no waiting queue without a port while there are ports for all; the dispatcher makes the task that a record describes, which asks for its keys or goes to the core it names, makes the tasks of a launch on their cores and answers it with
its launch id, and answers a launch that R106 rejects with 0; a free slot takes a
pending S-mode task, then a ready record with its registers restored, then the bottom of the deque (05 R105, R106, 14 R274 to R280, R282, R285, R293). -/
def Obligations.SchedulingResult : Prop :=
  (∀ (s : State) (q tail : Nat),
    (s.queues.find q = none → exec (.queueTailWrite q tail) s = .next s) ∧
    (∀ h, s.queues.find q = some h →
      let t := BitVec.ofNat 32 tail
      let tooMuch := decide (2 ^ h.log2n < (t - h.head).toNat)
      ∃ s' h', exec (.queueTailWrite q tail) s = .next s' ∧ SameMemory s s' ∧ s'.queues.find q = some h' ∧ h'.tail = t ∧ h'.head = h.head ∧
        h'.ovr = (h.ovr || tooMuch) ∧ h'.st = (if tooMuch ∧ h.st = .active then .stopped else h.st) ∧
        (h'.st = .active → t ≠ h.head → .arbiterGrant h.fn ∈ s'.agenda))) ∧
  (∀ (s : State) (d : Nat),
    (s.arbitrate d = none → exec (.arbiterGrant d) s = .next s) ∧
    (∀ q h p, s.arbitrate d = some (q, h, p) →
      (h.fn = d ∧ h.st = .active ∧ h.tail ≠ h.head ∧ h.port = some p ∧ (q, h) ∈ s.queues ∧
        ∀ q' h', (q', h') ∈ s.queues → h'.fn = d → h'.st = .active → h'.tail ≠ h'.head → h'.port.isSome →
          s.inboxRoom (s.homeDispatcher h') = true → s.eprio h' ≤ s.eprio h) ∧
      ∃ s' e, exec (.arbiterGrant d) s = .next s' ∧ SameMemory s s' ∧
        (s'.lnode (s.homeDispatcher h)).inbox = (s.lnode (s.homeDispatcher h)).inbox ++ [e] ∧ e.src = .port q h.sq ∧
        (∀ i, i < 128 → e.body.extractLsb' (8 * i) 8 =
          s.bar2.get 0 (h.fn * 2 ^ 30 + h.ring + h.head.toNat % 2 ^ h.log2n * 128 + i)) ∧
        (s'.queue q).head = h.head + 1 ∧ .dispatcherTake (s.homeDispatcher h) ∈ s'.agenda) ∧
    (s.queues.risingFrom 0 = true → ∃ s', exec (.portRemap d) s = .next s' ∧ SameMemory s s' ∧
      (∀ q h, s.queues.find q = some h → ∃ p, s'.queues.find q = some { h with port := p }) ∧
      ((s.queues.filter (fun e => e.2.fn == d && e.2.st == .active && e.2.tail != e.2.head)).length ≤ 128 →
        ∀ q h, s.queues.find q = some h → h.fn = d → h.st = .active → h.tail ≠ h.head →
          .arbiterGrant d ∈ s'.agenda ∧ ∃ h', s'.queues.find q = some h' ∧ h'.port.isSome))) ∧
  (∀ (s : State) (ln : Nat), (s.lnode ln).waiters = [] →
    ((s.lnode ln).inbox = [] → exec (.dispatcherTake ln) s = .next s.portsGo) ∧
    (∀ q h, s.queues.find q = some h → h.st = .active → h.tail ≠ h.head → .arbiterGrant h.fn ∈ s.portsGo.agenda) ∧
    (∀ e rest q sq, (s.lnode ln).inbox = e :: rest → e.src = .port q sq →
      let p := ln / 256
      let b := e.body
      let goes := fun (s' : State) (key : Nat) => exec (.dispatcherTake ln) s = .next s' ∧ ∃ t, s'.tasks.find key = some t ∧ t.part = p ∧
        t.entry = (bits b 0 64 &&& ~~~1#64) ∧ t.smode = (sq && b.getLsbD 0) ∧ t.args = [bits b 64 64, bits b 128 64, bits b 192 64, bits b 256 64] ∧
        t.origin = some q ∧ t.fmt = bits b 512 64 ∧ t.scl = bits b 576 64 ∧ t.sscl = bits b 640 64 ∧ t.join = bits b 960 64 ∧ t.prio = field b 448 3
      (recordRanges b ≠ [] → 1024 ≤ (s.lnode ln).ranged.length → exec (.dispatcherTake ln) s = .next s) ∧
      (∀ k sh l, recordRanges b = [] → recordKeys b = (k, sh) :: l → ∃ s' tid, goes s' (taskKey p tid) ∧ (s'.lnode ln).inbox = rest ∧
        .keyRequest { part := p, task := taskKey p tid, key := k, shared := sh, disp := ln } ∈ s'.agenda) ∧
      (let lc := p * 4096 + field b 464 16
       recordRanges b = [] → recordKeys b = [] → (sq && b.getLsbD 0) = false → field b 464 16 < s.lcount p → field b 464 16 < 4096 →
        (s.lnode ln).placing = [] → s.nodeAway (s.nodeOfLc lc) = false → ∃ s' tid, goes s' (taskKey p tid) ∧
        (s'.lcore lc).deque = taskKey p tid :: (s.lcore lc).deque)) ∧
    (∀ e rest lc sm satp o r, (s.lnode ln).inbox = e :: rest → e.src = .launch lc sm satp o r → s.launchWaits (ln / 256) e.body = false →
      field e.body 64 32 = 0 → ∃ s', exec (.dispatcherTake ln) s = .next s' ∧ SameMemory s s' ∧ .recordReply r (Reply.word_ 0) ∈ s'.agenda) ∧
    (∀ e rest lc sm satp o r, (s.lnode ln).inbox = e :: rest → e.src = .launch lc sm satp o r → s.launchWaits (ln / 256) e.body = false →
      let b := e.body
      let p := if field b 96 16 = 0 then partOfLc lc else field b 96 16
      let t := field b 64 32
      let first := field b 128 16
      let c := if field b 144 16 = 0 then s.lcount p - first else field b 144 16
      let place := field b 160 2
      t ≠ 0 → c ≠ 0 → first + c ≤ s.lcount p → place < 2 → b.getLsbD 1 = false → field b 112 16 = 0 → field b 163 29 = 0 →
      (bits b 448 64).toNat % windowSize = 0 → (sm = true ∨ p = partOfLc lc) → (s.backRuns sm satp (bits b 448 64) (512 * c) (512 * first) []).isSome →
      s.freeLaunch p 65535 (s.partOf p).nextLaunch ≠ 0 → (s.lnode ln).phys < 256 → (s.usedSeqs p ((s.lnode ln).phys * 16)).length + t < 2 ^ 20 →
      ∃ s' id, exec (.dispatcherTake ln) s = .next s' ∧ .recordReply r (Reply.word_ (word id)) ∈ s'.agenda ∧ 1 ≤ id ∧ id ≤ 65535 ∧
        s.launches.find (launchKey p id) = none ∧ (s'.launches.find (launchKey p id)).isSome ∧
        ∀ i, i < t → ∃ key h, s'.tasks.find key = some h ∧ h.part = p ∧ h.launch = id ∧ h.idx = word i ∧ h.icnt = word t ∧
          h.args = [word i, bits b 384 64, 0, 0] ∧ h.entry = (bits b 0 64 &&& ~~~3#64) ∧ h.smode = (sm && b.getLsbD 0) ∧ h.held = [] ∧ h.ranges = [] ∧
          h.lcore = first + (if place = 1 then i % c else i / ((t + c - 1) / c)) ∧ key ∈ (s'.lcore (p * 4096 + h.lcore)).deque)) ∧
  (∀ (s : State) (c i lc : Nat),
    let p := s.pcore c
    (p.halted = true ∨ p.stopped = true ∨ p.fenced = true → exec (.slotFill c) s = .next s) ∧
    (p.halted = false → p.stopped = false → p.fenced = false → s.hosted c = [lc] → s.mustPark c = false → i < 8 → s.slot c i = Slot.empty →
      (∀ j, j < 8 → j ≠ i → s.slot c j ≠ Slot.empty) →
      let l := s.lcore lc
      let started := fun (s' : State) (k : Nat) => exec (.slotFill c) s = .next s' ∧ ∃ t, (s'.slot c i).thread = some t ∧ t.task = k ∧
        t.pc = ((s.task k).entry &&& ~~~1#64) ∧ t.smode = (s.task k).smode ∧ t.vl = 128 ∧
        ∀ j v, j < 4 → (s.task k).args[j]? = some v → t.getX (BitVec.ofNat 5 (10 + j)) = v
      (∀ k rest, l.pendS = k :: rest → (s.csrs lc).kxrsv = false ∨ i = 7 → StartsOn s k (s.task k).lc → ∃ s', started s' k ∧ (s'.lcore lc).pendS = rest) ∧
      (∀ id x b, l.pendS = [] → l.ready = [id] → s.recOf { lc := lc, id := id } = some x → s.overT1 x.task = false → x.movedFrom = none →
        x.err = none → x.want = .nothing → x.id = id → (s.task x.task).ctx.isSome → s.siloParked lc x.addr x.size = false → s.relaunchFault lc x = none → s.siloGet lc x.addr x.size = some b →
        ∃ s', exec (.slotFill c) s = .next s' ∧ (s'.slot c i).thread = some (restore x b) ∧ s'.recOf { lc := lc, id := id } = none) ∧
      (∀ k, l.pendS = [] → l.ready = [] → l.deque = [k] → (s.task k).launch = 0 → StartsOn s k (s.task k).lc → ∃ s', started s' k ∧ (s'.lcore lc).deque = [])))

/-- Keys, stealing, the governor and the watchdog. A key request is granted at once or queues; a grant is entered and the next key asked for; a release grants the head of the queue, one of key 0 frees the range entry; a message to an
unreachable node is logged; a thief asks its victims in turn, takes what it may take and starts it, or, which is the model's choice, leaves it at the bottom of its deque where no slot is free any more (log 45); the governor moves a core from the
ring below its mark to the ring above; T1 forces yields of the threads that are not marked for a kill, T2 kills the origin's tasks, T3 fences the cores where one still stands (14 R284, R288 to R292, R295, R297, R298, 17 R330). -/
def Obligations.KeyStealWatchdogResult : Prop :=
  (∀ (s : State) (m : KeyMsg),
    let e := s.keyEnt m.part m.key
    let home := s.keyHome m.part m.key
    let disp := s.dispNode m
    let live := (s.tasks.find m.task).isSome
    (s.unreachable disp home = true → ∃ s', exec (.keyRequest m) s = .next s' ∧ s'.tasks = s.tasks ∧ s'.parts = s.parts ∧
      ∃ x ∈ s'.fw.log, x.kind = 1 ∧ x.node = disp) ∧
    (s.unreachable disp home = false →
      (live = false → exec (.keyRequest m) s = .next s) ∧
      (live = true → e.fifo = [] → (e.holders = [] ∨ m.shared = true ∧ ∀ h ∈ e.holders, h.2 = true) → ∃ s', exec (.keyRequest m) s = .next s' ∧
        s'.keyEnt m.part m.key = { holders := e.holders ++ [(m.task, m.shared)], fifo := [] } ∧ .keyGrant m ∈ s'.agenda) ∧
      (live = true → e.fifo ≠ [] ∨ ¬(e.holders = [] ∨ m.shared = true ∧ ∀ h ∈ e.holders, h.2 = true) → ∃ s', exec (.keyRequest m) s = .next s' ∧
        s'.keyEnt m.part m.key = { e with fifo := e.fifo ++ [(m.task, m.shared)] } ∧ s'.agenda = s.agenda) ∧
      (∀ sh k rest, m.key ≠ 0 → e.holders = [(m.task, sh)] → e.fifo = (k, false) :: rest → (∀ x ∈ e.fifo, x.1 ≠ m.task) →
        ∃ s', exec (.keyRelease m) s = .next s' ∧ s'.keyEnt m.part m.key = { holders := [(k, false)], fifo := rest } ∧
          .keyGrant { part := m.part, task := k, key := m.key, shared := false, disp := (s.task k).disp } ∈ s'.agenda)) ∧
    (m.key = 0 → ∃ s', exec (.keyRelease m) s = .next s' ∧ ∀ ln l, s'.lnodes.find ln = some l → ∀ r ∈ l.ranged, r.1 ≠ m.task) ∧
    (live = false → exec (.keyGrant m) s = .next { s with agenda := s.agenda ++ [.keyRelease m] }) ∧
    (live = true → s.unreachable home disp = false → ∃ s', exec (.keyGrant m) s = .next s' ∧
      (s'.task m.task).held = (s.task m.task).held ++ [(m.key, m.shared)] ∧ (s'.task m.task).want = (s.task m.task).want.drop 1 ∧
      ∀ k sh l, (s.task m.task).want.drop 1 = (k, sh) :: l →
        .keyRequest { part := (s.task m.task).part, task := m.task, key := k, shared := sh, disp := (s.task m.task).disp } ∈ s'.agenda)) ∧
  (∀ (s : State) (n : Nat),
    let p := s.pnode n
    (p.gov.getLsbD 0 = false → exec (.governorPeriod n) s = .next s) ∧
    (∀ above below u, p.gov.getLsbD 0 = true → p.gov.getLsbD 1 = false → u < 16 →
      bestRing p (fun r => p.occ r - p.high r) = some above → bestRing p (fun r => p.low r - p.occ r) = some below →
      (∀ i, i < 16 → ((p.mask i).getLsbD below = true ↔ i = u)) →
      ∃ s', exec (.governorPeriod n) s = .next s' ∧ SameMemory s s' ∧ (s'.pnode n).mask u = 1#8 <<< above ∧
        (∀ i, i ≠ u → (s'.pnode n).mask i = p.mask i) ∧ .governorPeriod n ∈ s'.agenda)) ∧
  (∀ (s : State) (thief victim : Nat),
    let c := s.physOf thief
    let vc := s.physOf victim
    (s.unreachable (s.nodeOfLc thief) (vc / 16) = true → ∃ s', exec (.stealRequest thief victim) s = .next s' ∧ s'.agenda = s.agenda ∧
      s'.tasks = s.tasks ∧ s'.lcores = s.lcores ∧ ∃ x ∈ s'.fw.log, x.kind = 1 ∧ x.node = s.nodeOfLc thief) ∧
    (s.unreachable (s.nodeOfLc thief) (vc / 16) = false → s.unreachable (vc / 16) (s.nodeOfLc thief) = false →
      (s.nodeAway (vc / 16) = true ∨ (s.lcore victim).deque.find? (s.mayTake thief) = none →
        exec (.stealRequest thief victim) s = .next { s with agenda := s.agenda ++ [.stealAnswer thief none] }) ∧
      (∀ k, s.nodeAway (vc / 16) = false → (s.lcore victim).deque.find? (s.mayTake thief) = some k →
        (s.lags vc (scopeOf thief victim) = true →
          exec (.stealRequest thief victim) s = .next { s with agenda := .stealRequest thief victim :: s.agenda }) ∧
        (s.lags vc (scopeOf thief victim) = false → ∃ s', exec (.stealRequest thief victim) s = .next s' ∧
          (s'.lcore victim).deque = (s.lcore victim).deque.filter (· != k) ∧ .stealAnswer thief (some k) ∈ s'.agenda))) ∧
    (∀ k, (s.tasks.find k).isSome → (s.pcore c).fills = true →
      (∀ i, s.freeFor c = some i → StartsOn s k ((s.task k).part * 4096 + thief % 4096) → ∃ s' t, exec (.stealAnswer thief (some k)) s = .next s' ∧ (s'.slot c i).thread = some t ∧ t.task = k ∧
        t.pc = ((s.task k).entry &&& ~~~1#64) ∧ (s'.task k).lcore = thief % 4096) ∧
      (s.freeFor c = none → ∃ s', exec (.stealAnswer thief (some k)) s = .next s' ∧ (s'.lcore thief).deque = (s.lcore thief).deque ++ [k])) ∧
    ((s.pcore c).stealTry = none → exec (.stealAnswer thief none) s = .next s) ∧
    (∀ n v, (s.pcore c).stealTry = some n → (s.pcore c).fills = true → s.freeFor c ≠ none → (s.victims thief)[n + 1]? = some v →
      exec (.stealAnswer thief none) s = .next ((s.setPcore c { s.pcore c with stealTry := some (n + 1) }).push (.stealRequest thief v))) ∧
    (∃ s', exec (.stealPauseEnd thief) s = .next s' ∧ (s'.pcore c).stealPause = false ∧ .slotFill c ∈ s'.agenda ∧ SameMemory s s')) ∧
  (∀ (s : State) (q : Nat),
    let ofQ := fun (t : Thread) => (s.task t.task).origin = some q
    (∃ s', exec (.watchdogT1 q) s = .next s' ∧ (s'.queue q).aboveT1 = true ∧ ((s.queue q).t2 ≠ 0 → .watchdogT2 q ∈ s'.agenda) ∧ SameMemory s s' ∧
      ∀ c i t, (s.slot c i).thread = some t → (ofQ t → (s'.slot c i).thread = some { t with mark := if t.mark = .kill then .kill else .yield }) ∧
        (¬ofQ t → (s'.slot c i).thread = some t)) ∧
    ((∀ e ∈ s.lcores, e.2.recs = []) → ∃ s', exec (.watchdogT2 q) s = .next s' ∧ (s'.queue q).st = .killed ∧
      ((s.queue q).t3 ≠ 0 → .watchdogT3 q ∈ s'.agenda) ∧
      (∀ k t, s.tasks.find k = some t → t.origin = some q → s.resident k = false → s'.tasks.find k = none) ∧
      (∀ c i t, (s.slot c i).thread = some t → (s.tasks.find t.task).isSome → s.resident t.task = true → ofQ t →
        ∃ t', (s'.slot c i).thread = some t' ∧ t'.task = t.task ∧ t'.mark = .kill)) ∧
    (∃ s', exec (.watchdogT3 q) s = .next s' ∧ SameMemory s s' ∧ s'.tasks = s.tasks ∧
      (∀ c i, (∃ t, (s.slot c i).thread = some t ∧ ofQ t) ∨ (∃ k, (s.slot c i).credit = some k ∧ (c, i, k) ∈ (s.queue q).reserved) → (s'.pcore c).fenced = true) ∧
      (∀ c, (∀ x ∈ (s.pcore c).slots, (∀ t, x.2.thread = some t → ¬ofQ t) ∧ ∀ k, x.2.credit = some k → (c, x.1, k) ∉ (s.queue q).reserved) → s'.pcore c = s.pcore c)))

/-- Links, the wave that brings the nodes up, power and the stall map. Fewer than eight replays in a row keep a link ACTIVE, the eighth may retrain it; a retrain that comes to its end makes it ACTIVE, one that does not fences a node that is being
brought up and in service marks the link failed at both ends; a packet on its way goes on from its relay to its home, and one that found no route is dropped and counts as acknowledged. A DARK node locks to a clock beside it or is fenced with FCODE 1, trains its links or is fenced with FCODE 2, is configured with
the tables of R332 and tests itself, and is fenced with FCODE 3 or becomes READY and in service; a quiesce that times out fences with FCODE 5. A throttle step moves by one between 0 and 8, in all regions when the package draws too much. A
sample is numbered in order. With a dead router at an edge node bring-up has failed, whatever else came up. A cold reset leaves host memory and pod memory. The model's choices: logs 20 (the tables through which the stall map's base is read), 36 (which clock feeds a node), 37 (a failed link) and 38 (what a cold reset clears) (17 R325 to R344, 21 R371, 22 R387 to R390). -/
def Obligations.MeshBringupResult : Prop :=
  (∀ (s : State) (l : LinkRef), l.node < 256 → l.dir < 4 → l.mesh < 3 →
    let st := fun (x : State) => x.linkState l.node l.mesh l.dir
    let count := fun (x : State) => (x.pnode l.node).replays.get 0 (4 * l.mesh + l.dir)
    let marked := fun (x : State) (n d : Nat) => x.linkState n l.mesh d = .failed ∧ (x.pnode n).harvest.getLsbD (20 + 4 * l.mesh + d) = true
    (st s ≠ .active → exec (.linkReplayRequest l) s = .next s) ∧
    (st s = .active → ∃ s', exec (.linkReplayRequest l) s = .next s' ∧ SameMemory s s' ∧
      (st s' = .active ∧ (count s' = 1 ∨ count s' = count s + 1) ∨
       7 ≤ count s ∧ st s' = .retrain ∧ (.retrainReachesActive l ∈ s'.agenda ∨ .linkRetrainTimeout l ∈ s'.agenda))) ∧
    (st s = .retrain → ∃ s', exec (.retrainReachesActive l) s = .next s' ∧ st s' = .active ∧ SameMemory s s') ∧
    (st s ≠ .retrain → exec (.retrainReachesActive l) s = .next s) ∧
    ((s.pnode l.node).st = .clocked → ∃ s', exec (.linkRetrainTimeout l) s = .next s' ∧ (s'.pnode l.node).st = .fenced ∧ (s'.pnode l.node).fcode = 2) ∧
    ((s.pnode l.node).st ≠ .clocked → st s = .retrain → ∃ s', exec (.linkRetrainTimeout l) s = .next s' ∧ SameMemory s s' ∧
      marked s' l.node l.dir ∧ (∀ m, neighbour l.node l.dir = some m → marked s' m ((l.dir + 2) % 4)) ∧ ∃ e ∈ s'.fw.log, e.kind = 1 ∧ e.node = l.node) ∧
    ((s.pnode l.node).st ≠ .clocked → st s ≠ .retrain → exec (.linkRetrainTimeout l) s = .next s)) ∧
  (∀ (s : State) (relay dst : Nat) (w : WriteReq),
    (relay ≠ w.src → exec (.relayPacket relay dst w) s = .next { s with agenda := .homeWrite w :: s.agenda }) ∧
    (relay = w.src → ∃ s', exec (.relayPacket relay dst w) s = .next s' ∧ (s.parts = [] → SameMemory s s') ∧
      ∀ q id, w.ack = some (q, id) → .writeAck q id ∈ s'.agenda)) ∧
  (∀ (s : State) (n up : Nat), n < 256 →
    let st := fun (x : State) => (x.pnode n).st
    let feeds := (up = 0xFF ∧ (n = 64 ∨ n = 176)) ∨ (up ≠ 0xFF ∧ ((s.pnode up).st = .clocked ∨ (s.pnode up).st = .linked) ∧ ∃ d, d < 4 ∧ neighbour n d = some up)
    let fenced := fun (x : State) (code : Nat) => st x = .fenced ∧ (x.pnode n).fcode = code
    (st s ≠ .dark ∨ ¬feeds → exec (.clockLock n up) s = .next s) ∧
    (st s = .dark → feeds → s.triesFirst n up = true → exec (.clockLock n up) s = .next (s.putBack (.clockLock n up))) ∧
    (st s = .dark → feeds → s.triesFirst n up = false → ∃ s', exec (.clockLock n up) s = .next s' ∧ SameMemory s s' ∧ st s' = .clocked ∧ (s'.pnode n).up = up ∧
      (.linkTrained n ∈ s'.agenda ∨ ∃ l, l.node = n ∧ .linkRetrainTimeout l ∈ s'.agenda) ∧
      ∀ d m, neighbour n d = some m → (s.pnode m).st = .dark → .clockLock m n ∈ s'.agenda) ∧
    (st s ≠ .dark → exec (.clockLockTimeout n) s = .next s) ∧
    (st s = .dark → (∀ d m u, neighbour n d = some m → .clockLock m u ∉ s.agenda) → ∃ s', exec (.clockLockTimeout n) s = .next s' ∧ fenced s' 1) ∧
    (st s ≠ .clocked → exec (.linkTrained n) s = .next s) ∧
    (st s = .clocked → (∀ d k, d < 4 → k < 3 → s.linkState n k d ≠ .retrain) → ∃ s', exec (.linkTrained n) s = .next s' ∧ st s' = .linked ∧
      (s'.pnode n).vLink = .active ∧ (s'.pnode n).mLink = .active) ∧
    (∀ pass, (st s = .configured → pass = true → ∃ s', exec (.selfTestDone n pass) s = .next s' ∧ st s' = .tested ∧ .selfTestDone n true ∈ s'.agenda) ∧
      (st s = .configured → pass = false → ∃ s', exec (.selfTestDone n pass) s = .next s' ∧ fenced s' 3) ∧
      (st s = .tested → ∃ s', exec (.selfTestDone n pass) s = .next s' ∧ st s' = .ready ∧ n ∈ s'.fw.service) ∧
      (st s ≠ .configured → st s ≠ .tested → exec (.selfTestDone n pass) s = .next s)) ∧
    (st s ≠ .quiescing → exec (.quiesceTimeout n) s = .next s) ∧
    (st s = .quiescing → ∃ s', exec (.quiesceTimeout n) s = .next s' ∧ fenced s' 5) ∧
    (st s = .dark ∨ st s = .clocked → exec .configurationPhase s = .next s) ∧
    ((∀ m, m < 256 → (s.pnode m).st ≠ .dark ∧ (s.pnode m).st ≠ .clocked) → st s = .linked → ∃ s', exec .configurationPhase s = .next s' ∧
      st s' = .configured ∧ (.selfTestDone n true ∈ s'.agenda ∨ .selfTestDone n false ∈ s'.agenda) ∧
      ∀ b, b < 256 → b ≠ n → (s.pathUsable 0 n b = true → s.pathUsable 1 n b = false → s'.entry n b = 0) ∧
        (s.pathUsable 0 n b = false → s.pathUsable 1 n b = true → s'.entry n b = 1) ∧
        (s.pathUsable 0 n b = true → s.pathUsable 1 n b = true → (s'.entry n b).toNat = (n % 16 + n / 16 + b % 16 + b / 16) % 2))) ∧
  (∀ s : State, (∀ m, m < 256 → (s.pnode m).st ≠ .dark ∧ (s.pnode m).st ≠ .clocked) → (∃ m ∈ edgeNodes, s.deadRouter m = true) →
    ∃ s', exec .configurationPhase s = .next s' ∧ s'.fw.failed = true ∧ ∃ e ∈ s'.fw.log, e.kind = 5) ∧
  (∀ s : State, ∃ s' : State, exec .coldReset s = .next { State.reset with mem := s'.mem, free := s.free } ∧
    ∀ a, s'.byteAt a = if a / 2 ^ 48 = 2 ∨ a / 2 ^ 48 = 4 then s.byteAt a else 0) ∧
  (∀ (s : State) (r : Nat),
    let v := s.fw.steps.get 0 r
    (32 ≤ r ∨ 8 ≤ v → exec (.throttleUp r) s = .next s) ∧
    (32 ≤ r ∨ v = 0 → exec (.throttleDown r) s = .next s) ∧
    (r < 32 → v < 8 → ∃ s', exec (.throttleUp r) s = .next s' ∧ SameMemory s s' ∧ s'.fw.steps.get 0 r = v + 1 ∧ ∃ e ∈ s'.fw.log, e.kind = 6) ∧
    (r < 32 → 0 < v → ∃ s', exec (.throttleDown r) s = .next s' ∧ SameMemory s s' ∧ s'.fw.steps.get 0 r = v - 1 ∧ ∃ e ∈ s'.fw.log, e.kind = 6) ∧
    (∃ s', exec .packagePowerOver s = .next s' ∧ SameMemory s s' ∧ (r < 32 → s'.fw.steps.get 0 r = if v < 8 then v + 1 else v))) ∧
  (∀ s : State,
    let at_ := (s.fw.stallBase + word (s.fw.stallNum % s.fw.stallRing * 65600)).toNat
    (s.fw.stallRing = 0 ∨ s.fw.features.getLsbD 2 = false → exec .stallMapSample s = .next s) ∧
    (s.fw.stallRing ≠ 0 → s.fw.features.getLsbD 2 = true → Quiet s → kx57 s.fw.stallSatp = false → at_ % 8 = 0 → 2 ^ 48 ≤ at_ →
      at_ + 65600 ≤ 2 ^ 48 + 2304 * 2 ^ 30 → ∃ s', exec .stallMapSample s = .next s' ∧ s'.fw.stallNum = s.fw.stallNum + 1 ∧
      .stallMapSample ∈ s'.agenda ∧ (∀ i, i < 8 → s'.byteAt (at_ + i) = byteOf (word s.fw.stallNum) i) ∧
      ∀ a, a < at_ ∨ at_ + 65600 ≤ a → s'.byteAt a = s.byteAt a))

/-- The mailbox commands. Before features are negotiated only those that R382 names run, and none once feature 0 has not been accepted (22 R383); each checks its arguments, carries out its effect and completes with its status in MBSTAT and its response. Which status a refused argument gives is the model's
choice where R382 leaves it open (log 22). A partition gets its nodes, cores, quads and silos; PREEMPT of idle cores moves each logical quad with its cores onto quads that stay, and one for which there is no room changes nothing; RESET_COMPUTE of an idle node takes it to RESETTING, and from there
to ADMITTED with its core CSRs kept, or to FENCED with FCODE 4. Further choices of the model: the bytes that a measurement of an image digests (log 19), what SET_WATCHDOG does to an origin above T1 and to the records it holds back (log 68), and logs 20, 31, 32, 33 and 34 (15 R319 to R322, 17 R334 to R338, 19 R347, R360, 21 R371, 22 R379 to R386, R390). -/
def Obligations.MailboxResult : Prop :=
  (∀ s : State, s.fw.pending = [] → ∀ i ∈ [Instr.identify, .negotiateFeatures, .attest, .createPartition, .destroyPartition, .createQueue, .destroyQueue,
      .setQueuePriority, .setAgeing, .setWatchdog, .killLaunch, .readHarvestMap, .writeNst, .writeTree, .loadPortFirmware, .setStallMap,
      .setPowerCap, .readLog, .unknownCommand], exec i s = .next s) ∧
  (∀ (s : State) (fn : Nat) (rest : List Nat), s.fw.pending = fn :: rest →
    let a := arg s fn
    let done := fun (i : Instr) (status : Nat) (rsp : List Word) => ∃ s', exec i s = .next s' ∧ Done s s' fn status rsp ∧ SameMemory s s'
    let shut := s.fw.negotiated = true ∧ s.fw.features.getLsbD 0 = false
    (s.fw.negotiated = false ∨ s.fw.features.getLsbD 0 = false → ∀ i ∈ [Instr.createPartition, .destroyPartition, .createQueue, .destroyQueue,
      .setQueuePriority, .setAgeing, .setWatchdog, .killLaunch, .readHarvestMap, .writeNst, .writeTree, .loadPortFirmware, .setStallMap,
      .setPowerCap], done i 3 []) ∧
    (shut → ∀ i ∈ [Instr.identify, .negotiateFeatures, .attest, .readLog, .unknownCommand], done i 3 []) ∧
    (¬shut → done .identify 0 [word grade, word (if s.fw.failed then 0 else s.fw.service.length), Config.romVersion, 1] ∧ done .unknownCommand 1 []) ∧
    (¬shut → s.fw.negotiated = true → s.parts ≠ [] → done .negotiateFeatures 5 []) ∧
    (¬shut → s.fw.negotiated = false ∨ s.parts = [] → ∃ s', exec .negotiateFeatures s = .next s' ∧ Done s s' fn 0 [] ∧ s'.fw.negotiated = true ∧
      ∀ f, f < 128 → s'.fw.features.getLsbD f = (decide (f < 5) && (a 0).getLsbD (2 * f + 1))) ∧
    (¬shut → ¬HostBuffer (a 4) 3456 → done .attest 2 []) ∧
    (¬shut → HostBuffer (a 4) 3456 → Quiet s → ∃ s', exec .attest s = .next s' ∧ Done s s' fn 0 [] ∧
      (∀ i k, i < 4 → k < 8 → s'.byteAt (2 * 2 ^ 48 + (a 4).toNat + 8 * i + k) = byteOf (a i) k) ∧
      (∀ (j k : Nat) (m : BitVec 512), [s.fw.mrom, s.fw.mcfg, s.fw.mharv, s.fw.mpart][j]? = some m → k < 64 →
        s'.byteAt (2 * 2 ^ 48 + (a 4).toNat + 64 + 64 * j + k) = m.extractLsb' (8 * k) 8) ∧
      ∀ x, x < 2 * 2 ^ 48 + (a 4).toNat ∨ 2 * 2 ^ 48 + (a 4).toNat + 3456 ≤ x → s'.byteAt x = s.byteAt x) ∧
    (let n := min (a 1).toNat s.fw.log.length
     ¬shut → HostBuffer (a 0) (32 * n) → Quiet s → ∃ s', exec .readLog s = .next s' ∧ Done s s' fn 0 [word n] ∧ s'.fw.log = s.fw.log.drop n ∧
      ∀ i e, i < n → s.fw.log[i]? = some e → (s'.byteAt (2 * 2 ^ 48 + (a 0).toNat + 32 * i + 8)).toNat = e.kind % 256 ∧
        (s'.byteAt (2 * 2 ^ 48 + (a 0).toNat + 32 * i + 9)).toNat = e.node % 256)) ∧
  (∀ (s : State) (fn : Nat), Commands s fn →
    let a := arg s fn
    let done := fun (i : Instr) (status : Nat) (rsp : List Word) => ∃ s', exec i s = .next s' ∧ Done s s' fn status rsp ∧ SameMemory s s'
    let q := (a 0).toNat
    let owned := s.ownsQueue fn q = true
    ((a 0 = 0 ∨ 65535 < (a 0).toNat) → done .setAgeing 2 []) ∧
    (a 0 ≠ 0 → (a 0).toNat ≤ 65535 → ∃ s', exec .setAgeing s = .next s' ∧ Done s s' fn 0 [] ∧ (s'.die fn).ageing = (a 0).toNat) ∧
    (65535 < q → done .setQueuePriority 2 [] ∧ done .setWatchdog 2 [] ∧ done .destroyQueue 2 []) ∧
    (q ≤ 65535 → ¬owned → (7 < (a 1).toNat → done .setQueuePriority 2 []) ∧ ((a 1).toNat ≤ 7 → done .setQueuePriority 5 []) ∧ done .destroyQueue 5 []) ∧
    (q ≤ 65535 → owned → (a 1).toNat ≤ 7 → ∃ s', exec .setQueuePriority s = .next s' ∧ Done s s' fn 0 [] ∧ (s'.queue q).prio = (a 1).toNat) ∧
    (q ≤ 65535 → owned → ∃ s', exec .destroyQueue s = .next s' ∧ Done s s' fn 0 [] ∧ (s'.queue q).st = .destroyed) ∧
    (q ≤ 65535 → a 1 ≠ 0 → a 2 ≠ 0 → (a 2).toNat ≤ (a 1).toNat → done .setWatchdog 2 []) ∧
    (q ≤ 65535 → owned → 0 < (a 1).toNat → (a 1).toNat < (a 2).toNat → (a 2).toNat < (a 3).toNat → ∃ s', exec .setWatchdog s = .next s' ∧
      Done s s' fn 0 [] ∧ (s'.queue q).t1 = 1000 * (a 1).toNat ∧ (s'.queue q).t2 = 1000 * (a 2).toNat ∧ (s'.queue q).t3 = 1000 * (a 3).toNat) ∧
    (q ≤ 65535 → owned → a 1 = 0 → a 2 = 0 → a 3 = 0 → ∃ s', exec .setWatchdog s = .next s' ∧ Done s s' fn 0 [] ∧ (s'.queue q).t1 = 0 ∧
      (s'.queue q).aboveT1 = false ∧ .watchdogT1 q ∉ s'.agenda ∧ .watchdogT2 q ∉ s'.agenda ∧ .watchdogT3 q ∉ s'.agenda) ∧
    (let n := field (a 0) 0 16
     let p := field (a 0) 16 16
     let home := field (a 0) 32 8
     let size := 2 ^ field (a 0) 43 4 * 128
     let shape := p ≠ 0 ∧ 6 ≤ field (a 0) 43 4 ∧ field (a 0) 43 4 ≤ 12 ∧ field (a 0) 48 16 = 0 ∧ (a 1).toNat % 4096 = 0 ∧ 2 ^ 28 ≤ (a 1).toNat ∧
       (a 1).toNat + size ≤ 2 ^ 30
     (¬shape → done .createQueue 2 []) ∧
     (shape → s.parts.find p = none → done .createQueue 5 []) ∧
     (shape → (s.parts.find p).isSome → home ∈ (s.partOf p).nodes → s.queues = [] → ∃ s' h, exec .createQueue s = .next s' ∧ Done s s' fn 0 [] ∧
       s'.queues.find n = some h ∧ h.fn = fn ∧ h.part = p ∧ h.home = home ∧ h.prio = field (a 0) 40 3 ∧ h.sq = (a 0).getLsbD 47 ∧
       h.ring = (a 1).toNat ∧ h.log2n = field (a 0) 43 4 ∧ h.head = 0 ∧ h.tail = 0 ∧ h.st = .active)) ∧
    ((q = 0 ∨ 65535 < q ∨ a 1 = 0 ∨ 65535 < (a 1).toNat → done .killLaunch 2 []) ∧
     (q ≠ 0 → q ≤ 65535 → a 1 ≠ 0 → (a 1).toNat ≤ 65535 → ((∀ e ∈ s.tasks, ¬(e.2.part = q ∧ e.2.launch = (a 1).toNat)) → done .killLaunch 5 []) ∧
       ((∃ e ∈ s.tasks, e.2.part = q ∧ e.2.launch = (a 1).toNat) → (∀ e ∈ s.lcores, e.2.recs = []) → ∃ s', exec .killLaunch s = .next s' ∧ Done s s' fn 0 [] ∧
         ∀ k t, s.tasks.find k = some t → t.part = q → t.launch = (a 1).toNat → s.resident k = false → s'.tasks.find k = none))) ∧
    (¬HostBuffer (a 0) 2048 → done .readHarvestMap 2 []) ∧
    (HostBuffer (a 0) 2048 → Quiet s → ∃ s', exec .readHarvestMap s = .next s' ∧ Done s s' fn 0 [] ∧
      (∀ n k, n < 256 → k < 8 → s'.byteAt (2 * 2 ^ 48 + (a 0).toNat + 8 * n + k) = byteOf (s.pnode n).harvest k) ∧
      ∀ x, x < 2 * 2 ^ 48 + (a 0).toNat ∨ 2 * 2 ^ 48 + (a 0).toNat + 2048 ≤ x → s'.byteAt x = s.byteAt x) ∧
    (let w : BitVec 64 := word (s.readN (2 * 2 ^ 48 + (a 0).toNat) 8)
     HostBuffer (a 0) 8 → a 1 = 1 →
      (1 < field w 8 8 ∨ field w 24 8 ≠ 0 → done .writeNst 2 []) ∧
      (field w 8 8 = 1 → field w 24 8 = 0 → field w 16 8 < 64 → field w 41 23 = 0 → field w 38 2 < 3 → field w 32 6 < 48 → s.relaysOk = true →
        ∃ s', exec .writeNst s = .next s' ∧ Done s s' fn 0 [] ∧ SameMemory s s' ∧
          (s'.pnode (field w 0 8)).egress.get 0 (field w 16 8) = bits w 32 32)) ∧
    (let n := field (a 0) 0 8
     let t := field (a 0) 8 4
     (field (a 2) 0 16 = 0 ∨ 4 < field (a 1) 16 3 → done .writeTree 2 []) ∧
     (field (a 0) 12 52 = 0 → field (a 1) 16 3 ≤ 4 → field (a 1) 19 5 = 0 → field (a 2) 16 48 = 0 → field (a 2) 0 16 ≠ 0 →
       ∃ s', exec .writeTree s = .next s' ∧ Done s s' fn 0 [] ∧ (s'.pnode n).trees.get 0 (2 * t) = a 1 ∧ (s'.pnode n).trees.get 0 (2 * t + 1) = a 2)) ∧
    (143 < q ∨ 2 ^ 20 < (a 2).toNat ∨ ¬HostBuffer (a 1) (a 2).toNat → done .loadPortFirmware 2 []) ∧
    (q ≤ 143 → (a 2).toNat ≤ 2 ^ 20 → HostBuffer (a 1) (a 2).toNat → s.colls = [] → (∀ e ∈ s.lcores, e.2.recs = []) → ∃ s',
      exec .loadPortFirmware s = .next s' ∧ Done s s' fn 0 [] ∧ (s'.portProc q).loading = false ∧
      s'.fw.mpart = extend s.fw.mpart (Shake.digest (s.bytesAt (2 * 2 ^ 48 + (a 1).toNat) (a 2).toNat))) ∧
    (s.fw.features.getLsbD 2 = false → done .setStallMap 3 []) ∧
    (s.fw.features.getLsbD 2 = true → (a 1 = 0 ∨ a 2 = 0 ∨ 65535 < (a 2).toNat → done .setStallMap 2 []) ∧
      (a 1 ≠ 0 → a 2 ≠ 0 → (a 2).toNat ≤ 65535 → ∃ s', exec .setStallMap s = .next s' ∧ Done s s' fn 0 [] ∧ s'.fw.stallBase = a 0 ∧
        s'.fw.stallRing = (a 1).toNat ∧ s'.fw.stallEvery = (a 2).toNat ∧ s'.fw.stallNum = 0 ∧ .stallMapSample ∈ s'.agenda)) ∧
    (let w := (a 0).toNat
     let r := (a 1).toNat
     (w < 5000 ∨ 25000 < w ∨ r < 200 ∨ 1000 < r → done .setPowerCap 2 []) ∧
     (5000 ≤ w → w ≤ 25000 → 200 ≤ r → r ≤ 1000 → ∃ s', exec .setPowerCap s = .next s' ∧ Done s s' fn 0 [] ∧ s'.fw.pkgCap = w ∧ s'.fw.regCap = r)) ∧
    (let nodes := (List.range 256).filter (fun n => (a (n / 64)).getLsbD (n % 64))
     let pkg := field (a 4) 0 13
     let pod := field (a 4) 13 11
     let shape := nodes ≠ [] ∧ pkg ≤ 4096 ∧ pod ≤ 1024 ∧ field (a 4) 24 6 ≤ 32 ∧ field (a 4) 30 34 = 0 ∧ (a 7).toNat / 2 ^ 48 = 0 ∧
       (a 8).toNat / 2 ^ 48 = 1 ∧ (a 8).toNat % 2 ^ 21 = 0 ∧ (a 8).toNat % 2 ^ 48 + nodes.length * 2 ^ 25 ≤ 2304 * 2 ^ 30
     (nodes = [] ∨ 4096 < pkg ∨ (a 8).toNat % 2 ^ 21 ≠ 0 → done .createPartition 2 []) ∧
     (shape → s.fw.failed = true ∨ (∃ n ∈ nodes, (s.pnode n).st ≠ .ready) ∨ s.readyLeft < nodes.length → done .createPartition 5 []) ∧
     (shape → s.fw.failed = false → (∀ n ∈ nodes, (s.pnode n).st = .ready) → nodes.length ≤ s.readyLeft → s.parts = [] → ∃ s' id, exec .createPartition s = .next s' ∧
       Done s s' fn 0 [word id, word (16 * nodes.length), word pkg, word pod] ∧ SameMemory s s' ∧ 0 < id ∧ id < 65536 ∧ (s'.partOf id).nodes = nodes ∧
       (∀ n ∈ nodes, (s'.pnode n).st = .admitted ∧ (s'.pnode n).l2dir = field (a 4) 24 6) ∧
       ∀ k n j, nodes[k]? = some n → j < 16 → (s'.lcore (id * 4096 + 16 * k + j)).phys = 16 * n + j ∧
         (s'.lcore (id * 4096 + 16 * k + j)).silob = a 8 + word ((16 * k + j) * 2 ^ 21))) ∧
    ((q = 0 ∨ 65535 < q → done .destroyPartition 2 []) ∧
     (q ≠ 0 → q ≤ 65535 → s.parts.find q = none → done .destroyPartition 5 []) ∧
     (q ≠ 0 → q ≤ 65535 → (s.parts.find q).isSome → s.fw.ongoing = [] → Idle s → s.tasks = [] → s.queues = [] → ∃ s', exec .destroyPartition s = .next s' ∧
       Done s s' fn 0 [] ∧ SameMemory s s' ∧ s'.parts.find q = none ∧ ∀ n ∈ (s.partOf q).nodes, (s'.pnode n).l2dir = 0 ∧ ((s.pnode n).st = .admitted → (s'.pnode n).st = .ready)))) ∧
  (∀ (s : State) (fn : Nat), s.fw.pending = [fn] → s.fw.ongoing = [] → s.fw.negotiated = true → s.fw.features.getLsbD 0 = true →
    let a := arg s fn
    let p := (a 0).toNat
    let n := field (a 1) 0 8
    ((s.die fn).cmd = 0x0B →
      (p = 0 ∨ 65535 < p → ∃ s', exec .preempt s = .next s' ∧ Done s s' fn 2 [] ∧ SameMemory s s') ∧
      (p ≠ 0 → p ≤ 65535 → bits (a 1) 12 52 = 0 → s.parts.find p = none → ∃ s', exec .preempt s = .next s' ∧ Done s s' fn 5 [] ∧ SameMemory s s') ∧
      (p ≠ 0 → p ≤ 65535 → bits (a 1) 12 52 = 0 → (s.parts.find p).isSome → bits (a 1) 8 4 = 15 → s.readyLeft = 0 →
        ∃ s', exec .preempt s = .next s' ∧ Done s s' fn 5 [] ∧ SameMemory s s') ∧
      (∀ lq, p ≠ 0 → p ≤ 65535 → bits (a 1) 12 52 = 0 → (s.parts.find p).isSome → n ∈ (s.partOf p).nodes → (s.pnode n).st = .admitted → Idle s →
        bits (a 1) 8 4 = 1 → s.quadsOn (4 * n) = [lq] → (∀ i, 0 < i → i < 4 → (s.quadsOn (4 * n + i)).length ≤ 1) →
        ∃ s', exec .preempt s = .next s' ∧ Done s s' fn 0 [] ∧ s'.fw.ongoing = [] ∧ (s'.lquad lq).phys / 4 = n ∧ (s'.lquad lq).phys ≠ 4 * n ∧
          ∀ i, i < 4 → (s'.lcore (4 * lq + i)).phys = 4 * (s'.lquad lq).phys + i)) ∧
    ((s.die fn).cmd = 0x0D →
      (255 < p → ∃ s', exec .resetCompute s = .next s' ∧ Done s s' fn 2 [] ∧ SameMemory s s') ∧
      (p ≤ 255 → (s.pnode p).st ≠ .admitted → (s.pnode p).st ≠ .fenced → ∃ s', exec .resetCompute s = .next s' ∧ Done s s' fn 5 [] ∧ SameMemory s s') ∧
      (p ≤ 255 → (s.pnode p).st = .admitted → Idle s → ∃ s', exec .resetCompute s = .next s' ∧ (s'.pnode p).st = .resetting ∧
        (s'.pnode p).vLink = .l1 ∧ (s'.pnode p).mLink = .l1 ∧ s'.fw.ongoing = [fn] ∧ .resetCompute ∈ s'.agenda ∧ .quiesceTimeout p ∉ s'.agenda))) ∧
  (∀ (s : State) (fn : Nat), s.fw.pending = [] →
    let n := field (arg s fn 0) 0 8
    (s.fw.ongoing = [] → exec .preempt s = .next s ∧ exec .resetCompute s = .next s) ∧
    (s.fw.ongoing = [fn] → (s.die fn).cmd = 0x0D → (s.pnode n).st = .resetting → ∃ s', exec .resetCompute s = .next s' ∧ s'.fw.ongoing = [] ∧
      ((s'.pnode n).st = .fenced ∧ (s'.pnode n).fcode = 4 ∧ (s'.pnode n).vLink = .failed ∨
       (s'.pnode n).st = .admitted ∧ (s'.pnode n).vLink = .active ∧ (s'.pnode n).mLink = .active ∧ Done s s' fn 0 [] ∧
         ∀ i, i < 16 → let c := 16 * n + i
           (s'.pcore c).csrs = (s.pcore c).csrs ∧ (s'.pcore c).tlb = [] ∧ (s'.pcore c).icache = [])))

/-- Debugging and registers. A halt request halts a core with cause 3, a resume lets it go on, for one instruction where dcsr.step is set; an abstract command reads or writes a register of the thread in a slot, and one for an empty slot or of an unknown number leaves an error (the register numbers and error codes are those
of log 16), and so does one of an unsupported kind. A write of 1 to bit 63 clears ENGERR, CPYERR or CENDIV; the host writes the mailbox and its ring, and a doorbell puts its command behind those that wait and is ignored while one runs; a write through BAR 4 goes to the home of its line at APBASE, and beyond HBM it does nothing; a write of a control page but for TAIL, whose write is the step QUEUE_TAIL_WRITE, is ignored, as the bytes of the registers there
are taken to be read-only (log 53); a write to an offset of a node's block that
has no register stops the machine (log 30) (00 R7, 11 R246, 14 R274, R288, 21 R366 to R372, R376, 22 R378 to R381). -/
def Obligations.DebugRegisterResult : Prop :=
  (∀ (s : State) (c : Nat),
    let p := s.pcore c
    (p.halted = true ∨ p.stopped = true → exec (.debugHaltRequest c) s = .next s) ∧
    (p.halted = false → p.stopped = false → ∃ s', exec (.debugHaltRequest c) s = .next s' ∧ (s'.pcore c).halted = true ∧ (s'.pcore c).dcause = 3 ∧
      (s'.pcore c).slots = p.slots ∧ SameMemory s s') ∧
    (p.halted = false → exec (.debugResumeRequest c) s = .next (s.setPcore c { p with resumeAck := true })) ∧
    (p.halted = true → ∃ s', exec (.debugResumeRequest c) s = .next s' ∧ (s'.pcore c).halted = false ∧ (s'.pcore c).resumeAck = true ∧
      (s'.pcore c).stepping = p.dstep ∧ (s'.pcore c).slots = p.slots ∧
      .slotFill c ∈ s'.agenda ∧ SameMemory s s') ∧
    (∀ i r w, (s.slot c i).thread = none → exec (.debugAbstractCommand c i r w) s = .next (s.setPcore c { p with dmErr := 4 })) ∧
    (∀ i t, (s.slot c i).thread = some t →
      let reads := fun (r : Nat) (v : Word) => exec (.debugAbstractCommand c i r none) s = .next (s.setPcore c { p with dmData := v })
      let writes := fun (r : Nat) (v : Word) (u : Thread) => exec (.debugAbstractCommand c i r (some v)) s = .next (s.putThread c i u)
      (∀ n : Reg, reads (0x1000 + n.toNat) (t.getX n) ∧ ∀ v, writes (0x1000 + n.toNat) v (t.setX n v)) ∧
      (∀ (n : Reg) (k : Nat), k < 32 → reads (0xC000 + 32 * n.toNat + k) (word (field (t.getV n) (32 * k) 32)) ∧
        ∀ v : Word, ∃ x, writes (0xC000 + 32 * n.toNat + k) v (t.setV n x) ∧ ∀ j, j < 32 →
          field x (32 * j) 32 = if j = k then v.toNat % 2 ^ 32 else field (t.getV n) (32 * j) 32) ∧
      reads 0x7B1 t.pc ∧ (∀ v : Word, writes 0x7B1 v { t with pc := v &&& ~~~3#64 }) ∧
      (∀ v : Word, exec (.debugAbstractCommand c i 0x7B0 (some v)) s = .next (s.setPcore c { p with ebreaks := v.getLsbD 13, ebreaku := v.getLsbD 12, dstep := v.getLsbD 2 })) ∧
      (∀ r w, 0xC410 ≤ r → exec (.debugAbstractCommand c i r w) s = .next (s.setPcore c { p with dmErr := 3 })))) ∧
  (∀ (s : State) (n q : Nat) (v : Word),
    (v.getLsbD 63 = false → (∀ copy, exec (.engerrClear n q copy v) s = .next s) ∧ exec (.cendivClear n q v) s = .next s) ∧
    (v.getLsbD 63 = true →
      exec (.engerrClear n q false v) s = .next (s.setPquad (4 * n + q) { s.pquad (4 * n + q) with engerr := 0 }) ∧
      exec (.engerrClear n q true v) s = .next (s.setPquad (4 * n + q) { s.pquad (4 * n + q) with cpyerr := 0 }) ∧
      exec (.cendivClear n q v) s = .next (s.setPquad (4 * n + q) { s.pquad (4 * n + q) with cendiv := 0, censeq := 0 }))) ∧
  (∀ (s : State) (fn off : Nat) (v : Word),
    let d := s.die fn
    exec (.registerWrite (.bar0 fn 0) v) s = .next (s.setDie fn { d with opcode := bits v 0 16, seq := bits v 32 32 }) ∧
    (∀ i, i < 32 → exec (.registerWrite (.bar0 fn (0x100 + 8 * i)) v) s = .next (s.setDie fn { d with req := d.req.set i v })) ∧
    exec (.registerWrite (.bar0 fn 0x400) v) s = .next (s.setDie fn { d with apbase := v &&& 0xFFF }) ∧
    (d.stat.getLsbD 0 = true → exec (.registerWrite (.bar0 fn 8) v) s = .next s) ∧
    (d.stat.getLsbD 0 = false → ∃ s', exec (.registerWrite (.bar0 fn 8) v) s = .next s' ∧ (s'.die fn).stat.getLsbD 0 = true ∧
      (s'.die fn).stat.getLsbD 1 = false ∧ (s'.die fn).cmd = d.opcode.toNat ∧ (s'.die fn).cmdSeq = d.seq.toNat ∧ (s'.die fn).args = d.req ∧
      s'.fw.pending = s.fw.pending ++ [fn] ∧ (s.fw.pending = [] → s'.agenda = s.agenda ++ [commandOf d.opcode.toNat]) ∧
      (s.fw.pending ≠ [] → s'.agenda = s.agenda)) ∧
    (2 ^ 28 ≤ off → ∃ s', exec (.registerWrite (.bar2 fn off) v) s = .next s' ∧ SameMemory s s' ∧
      ∀ x, s'.bar2.get 0 x = if fn * 2 ^ 30 + off ≤ x ∧ x < fn * 2 ^ 30 + off + 8 then byteOf v (x - (fn * 2 ^ 30 + off)) else s.bar2.get 0 x) ∧
    (off < 2 ^ 28 → off % 4096 ≠ 0 → exec (.registerWrite (.bar2 fn off) v) s = .next s) ∧
    (let o := (d.apbase &&& 0xFFF).toNat * 2 ^ 30 + off
     (2304 * 2 ^ 30 < o + 8 → exec (.registerWrite (.bar4 fn off) v) s = .next s) ∧
     (o + 8 ≤ 2304 * 2 ^ 30 → ∃ s' w, exec (.registerWrite (.bar4 fn off) v) s = .next s' ∧ SameMemory s s' ∧ w.cells = cellsOf (2 ^ 48 + o) 8 v.toNat ∧
       w.src = (if fn = 0 then 64 else 176) ∧ (.homeWrite w ∈ s'.agenda ∨ ∃ relay dst, .relayPacket relay dst w ∈ s'.agenda))) ∧
    (∀ k, k < 16 → (s.pcore (16 * fn + k)).dmErr = 0 → bits v 24 8 ≠ 0 →
      exec (.registerWrite (.node fn (0x4000 + 0x400 * k + 0x5C)) v) s = .next (s.setPcore (16 * fn + k) { s.pcore (16 * fn + k) with dmErr := 2 })) ∧
    (∃ s', exec (.registerWrite (.node fn 0x200) v) s = .next s' ∧ (s'.pnode fn).gov = v &&& 0xFFFF0003) ∧
    (0x1500 ≤ off → off < 0x4000 → exec (.registerWrite (.node fn off) v) s = .fault (.unlistedRegister (3 * 2 ^ 48 + fn * 2 ^ 36 + off))))

/-- A step runs the decoded instruction. With one slot that can issue and nothing else due, the step takes that slot's turn, fetches the word at its PC from the line of its I-cache, decodes it and carries it out on the state at the
instruction's start, which counts it; a word that is no instruction, a forced yield and a kill at the boundary run the row that stands for them; then the turn passes, and a core that was resumed for a single instruction halts again. A step of another agent that is due alone, and reads or writes no line that may prove uncorrectable, is carried out as it stands. With several moves possible, the step carries out one
of them, or a request finds its line uncorrectable (logs 3 and 59); with none the clock goes on. That an idle step takes 8 cycles (log 4), that a wait keeps the phase that it resumes in only at its own pc (log 66)
and what a single step leaves in dcause (log 16) are the model's choices (01 R13, R20, 04 R74, R93, R95, 14 R298). -/
def Obligations.StepRunsDecoded : Prop :=
  (∀ (s : State) (p : Nat × Nat), s.moves = [.issue p] → step s = issueAt s p) ∧
  (∀ (s : State) (i : Instr), s.nextPlace = none → s.agenda = [i] → s.requestAt i = none → step s = exec i { s with agenda := [] }) ∧
  (∀ s : State, s.nextPlace = none → s.agenda = [] → step s = .next { s with clock := s.clock + 8 }) ∧
  (∀ s : State, let c := s.turn.1
    ((s.pcore c).stepping = false ∨ (s.pcore c).halted = true → s.endTurn = { s with turn := (c + 1, s.turn.2) }) ∧
    ((s.pcore c).stepping = true → (s.pcore c).halted = false → let p := s.endTurn.pcore c
      s.endTurn.turn = (c + 1, s.turn.2) ∧ p.halted = true ∧ p.stepping = false ∧ p.dcause = 4 ∧ p.slots = (s.pcore c).slots)) ∧
  (∀ s : State, 1 < s.moves.length → (∃ p, s.nextPlace = some p ∧ step s = issueAt { s with free := s.free + 1 } p) ∨
    ∃ n i, s.agenda[n]? = some i ∧ (step s = exec i { s with free := s.free + 1, agenda := s.agenda.eraseIdx n } ∨
      (s.requestAt i).isSome ∧ step s = .next (State.errorAt { s with free := s.free + 1 } n))) ∧
  (∀ (s : State) (p : Nat × Nat) (t : Thread) (pa ty : Nat) (line : Line),
    let u := s.takeTurn p
    let w := bits line (8 * (pa % 64)) 32
    let runs := fun (i : Instr) (v : State) =>
      (∀ x, exec i v = .next x → issueAt s p = .next x.endTurn) ∧ (∀ f, exec i v = .fault f → issueAt s p = .fault f)
    u.turn = p ∧ SameMemory s u ∧ u.tasks = s.tasks ∧
    (u.cur = some t →
      (t.mark = .kill → runs (.forcedYield p.1 p.2) u) ∧
      (t.mark ≠ .kill → t.pc.toNat % 4 = 0 → (u.pcore p.1).triggers = [] → u.threadTr t .fetch t.pc = .mem pa ty →
        (u.pcore p.1).icache.find (lineOf pa) = some line →
        (∀ i, decodeWord w = .ok i → u.mustYield = false ∨ u.illegalNow i = true → runs i u.begin) ∧
        (∀ i, decodeWord w = .ok i → u.mustYield = true → u.illegalNow i = false → runs (.forcedYield p.1 p.2) u) ∧
        (∀ e, decodeWord w = .error e → runs (.illegalInstruction w) u)) ∧
      SameMemory u u.begin ∧ u.begin.cur =
        some { t with issued := t.issued + 1, resv := t.resv.map (fun r => { r with count := r.count + 1 }), again := t.again.bind (fun a => if a.1 = t.pc then some a else none) }))

/-- Decode and encode agree, over the whole instruction set: the word of a well-formed instruction decodes to it, with every operand; and a word that decodes gives a well-formed instruction whose word it is, so that no word decodes that the tables of 04
do not give, and no bit of a word is dropped (04 R75 to R93). -/
def Obligations.DecodeEncode : Prop :=
  (∀ (i : Instr) (w : BitVec 32), i.wf = true → encode i = some w → decodeWord w = .ok i) ∧
  (∀ (i : Instr) (w : BitVec 32), decodeWord w = .ok i → i.wf = true ∧ encode i = some w) ∧
  (∀ (w : BitVec 32) (rest : List Byte), decode ([bits w 0 8, bits w 8 8, bits w 16 8, bits w 24 8] ++ rest) =
    (decodeWord w).map (fun i => (i, rest))) ∧
  (∀ b : List Byte, b.length < 4 → decode b = .error .truncated)

/-- A few words, written out from the encodings of 04, decode to the instructions that they stand for (04 R76 to R92). -/
def Obligations.DecodeWords : Prop :=
  decodeWord 0x00B50533 = .ok (.integerOp (.rr .add 10 10 11)) ∧
  decodeWord 0xFFF50513 = .ok (.integerOp (.imm .addi 10 10 0xFFF)) ∧
  decodeWord 0x00853503 = .ok (.load .ld 10 10 8) ∧
  decodeWord 0x0035800B = .ok (.quit 11 3) ∧
  decodeWord 0x04B6252B = .ok (.amoAdd { scope := 2, rs2 := 11, rs1 := 12, dbl := false, rd := 10 }) ∧
  decodeWord 0x94B5102B = .ok (.stl { width := 2, scope := 2, rs2 := 11, rs1 := 10, rd := 0 }) ∧
  decodeWord 0x0014005B = .ok (.mxIssue 8 1) ∧
  decodeWord 0x0003907B = .ok (.cenMode 7) ∧
  decodeWord 0x804161D7 = .ok (.vfadd { vs2 := 2, vs1 := 1, pg := 1, ew := 2, vd := 3 }) ∧
  decodeWord 0x00052087 = .ok (.vld { pg := 0, f := 0, rs1 := 10, nt := false, ew := 2, vd := 1 }) ∧
  decodeWord 0x00000000 = .error .notPrefix ∧ decodeWord 0xFFFFFFFF = .error .opcode

/-- Every step keeps memory in its canonical form, in which equal memories are equal data: addresses strictly rising and no entry equal to what an unlisted address reads as (log 1). -/
def Obligations.MemoryCanonical : Prop :=
  ∀ s s' : State, Memory.wf s.mem = true → step s = .next s' → Memory.wf s'.mem = true

/-- What reset leaves: every node DARK or, where the map of the part says so, HARVESTED, with FCODE 0, UP 0xFF, L2SPLIT.DIR 0 and its tables 0; no partition, task, queue or thread; `kxrq` 4,096, `kxrsv` 1, `kxsilol` 1 MiB, `stvec` and `satp`
0; the governor off with PERIOD 10; every barrier object disabled in phase 0; power limits of 25,000 W and 1,000 A with every region at step 0; an ageing interval of 50 us; the measurements but MROM 0, which is 0 extended by the ROM's digest; the clocks of the nodes that the host dies feed about to
lock, which as the first steps due is the model's choice (logs 3 and 12); and a memory in canonical form (01 R26, R27, 06 R133, 14 R279, R288, 17 R335, R340 to R342, 22 R384, R389, R390). -/
def Obligations.ResetValues : Prop :=
  let s := State.reset
  (∀ n, ((s.pnode n).st = if (Config.harvestMap n).getLsbD 0 then NodeState.harvested else .dark) ∧ (s.pnode n).fcode = 0 ∧ (s.pnode n).up = 0xFF ∧
    (s.pnode n).l2dir = 0 ∧ (s.pnode n).govOn = false ∧ bits (s.pnode n).gov 16 16 = 10 ∧
    (∀ r, (s.pnode n).low r = 0 ∧ (s.pnode n).high r = 256) ∧ (∀ i, (s.pnode n).mask i = 0xFF) ∧
    (∀ m, (s.pnode n).nst.get 0 m = 0 ∧ (s.pnode n).egress.get 0 m = 0)) ∧
  (∀ c, (s.pcore c).csrs.kxrq = 4096 ∧ (s.pcore c).csrs.kxrsv = true ∧ (s.pcore c).csrs.stvec = 0 ∧ (s.pcore c).csrs.satp = 0 ∧ ∀ i, s.slot c i = Slot.empty) ∧
  (∀ l, (s.lcore l).silob = 0 ∧ (s.lcore l).silol = 0x100000) ∧
  (∀ b : BarRef, (s.bar b).exp = 0 ∧ (s.bar b).phase = false) ∧
  (∀ d, (s.die d).ageing = 50 ∧ (s.die d).stat = 0) ∧
  s.parts = [] ∧ s.tasks = [] ∧ s.queues = [] ∧ s.fw.negotiated = false ∧ s.fw.mrom = extend 0 Config.romDigest ∧ s.fw.mcfg = 0 ∧ s.fw.mharv = 0 ∧ s.fw.mpart = 0 ∧
  s.fw.pkgCap = 25000 ∧ s.fw.regCap = 1000 ∧ (∀ r, s.fw.steps.get 0 r = 0) ∧
  s.agenda = [.clockLock 64 0xFF, .clockLock 176 0xFF] ∧ Memory.wf s.mem = true
end

