-- ==== Sys2Proof/Laws/State.lean ====
section
/-!
SUPPORT. What each primitive update of the state and of a thread leaves: one lemma for each field, true by unfolding.
-/
namespace Sys2Proof.Machine

namespace State

variable (s : State)

/-! ### `setPcore` -/

@[simp] theorem setPcore_mem (c : Nat) (v : PCore) : (s.setPcore c v).mem = s.mem := rfl
@[simp] theorem setPcore_tasks (c : Nat) (v : PCore) : (s.setPcore c v).tasks = s.tasks := rfl
@[simp] theorem setPcore_pcores (c : Nat) (v : PCore) : (s.setPcore c v).pcores = s.pcores.set c v := rfl
@[simp] theorem setPcore_lcores (c : Nat) (v : PCore) : (s.setPcore c v).lcores = s.lcores := rfl
@[simp] theorem setPcore_pquads (c : Nat) (v : PCore) : (s.setPcore c v).pquads = s.pquads := rfl
@[simp] theorem setPcore_lquads (c : Nat) (v : PCore) : (s.setPcore c v).lquads = s.lquads := rfl
@[simp] theorem setPcore_pnodes (c : Nat) (v : PCore) : (s.setPcore c v).pnodes = s.pnodes := rfl
@[simp] theorem setPcore_lnodes (c : Nat) (v : PCore) : (s.setPcore c v).lnodes = s.lnodes := rfl
@[simp] theorem setPcore_parts (c : Nat) (v : PCore) : (s.setPcore c v).parts = s.parts := rfl
@[simp] theorem setPcore_launches (c : Nat) (v : PCore) : (s.setPcore c v).launches = s.launches := rfl
@[simp] theorem setPcore_monitors (c : Nat) (v : PCore) : (s.setPcore c v).monitors = s.monitors := rfl
@[simp] theorem setPcore_resvs (c : Nat) (v : PCore) : (s.setPcore c v).resvs = s.resvs := rfl
@[simp] theorem setPcore_binds (c : Nat) (v : PCore) : (s.setPcore c v).binds = s.binds := rfl
@[simp] theorem setPcore_marks (c : Nat) (v : PCore) : (s.setPcore c v).marks = s.marks := rfl
@[simp] theorem setPcore_parked (c : Nat) (v : PCore) : (s.setPcore c v).parked = s.parked := rfl
@[simp] theorem setPcore_chans (c : Nat) (v : PCore) : (s.setPcore c v).chans = s.chans := rfl
@[simp] theorem setPcore_pps (c : Nat) (v : PCore) : (s.setPcore c v).pps = s.pps := rfl
@[simp] theorem setPcore_colls (c : Nat) (v : PCore) : (s.setPcore c v).colls = s.colls := rfl
@[simp] theorem setPcore_queues (c : Nat) (v : PCore) : (s.setPcore c v).queues = s.queues := rfl
@[simp] theorem setPcore_bar2 (c : Nat) (v : PCore) : (s.setPcore c v).bar2 = s.bar2 := rfl
@[simp] theorem setPcore_dies (c : Nat) (v : PCore) : (s.setPcore c v).dies = s.dies := rfl
@[simp] theorem setPcore_fw (c : Nat) (v : PCore) : (s.setPcore c v).fw = s.fw := rfl
@[simp] theorem setPcore_clock (c : Nat) (v : PCore) : (s.setPcore c v).clock = s.clock := rfl
@[simp] theorem setPcore_turn (c : Nat) (v : PCore) : (s.setPcore c v).turn = s.turn := rfl
@[simp] theorem setPcore_agenda (c : Nat) (v : PCore) : (s.setPcore c v).agenda = s.agenda := rfl
@[simp] theorem setPcore_free (c : Nat) (v : PCore) : (s.setPcore c v).free = s.free := rfl
@[simp] theorem setPcore_nextId (c : Nat) (v : PCore) : (s.setPcore c v).nextId = s.nextId := rfl

/-! ### `setLcore` -/

@[simp] theorem setLcore_mem (c : Nat) (v : LCore) : (s.setLcore c v).mem = s.mem := rfl
@[simp] theorem setLcore_tasks (c : Nat) (v : LCore) : (s.setLcore c v).tasks = s.tasks := rfl
@[simp] theorem setLcore_pcores (c : Nat) (v : LCore) : (s.setLcore c v).pcores = s.pcores := rfl
@[simp] theorem setLcore_lcores (c : Nat) (v : LCore) : (s.setLcore c v).lcores = s.lcores.set c v := rfl
@[simp] theorem setLcore_pquads (c : Nat) (v : LCore) : (s.setLcore c v).pquads = s.pquads := rfl
@[simp] theorem setLcore_lquads (c : Nat) (v : LCore) : (s.setLcore c v).lquads = s.lquads := rfl
@[simp] theorem setLcore_pnodes (c : Nat) (v : LCore) : (s.setLcore c v).pnodes = s.pnodes := rfl
@[simp] theorem setLcore_lnodes (c : Nat) (v : LCore) : (s.setLcore c v).lnodes = s.lnodes := rfl
@[simp] theorem setLcore_parts (c : Nat) (v : LCore) : (s.setLcore c v).parts = s.parts := rfl
@[simp] theorem setLcore_launches (c : Nat) (v : LCore) : (s.setLcore c v).launches = s.launches := rfl
@[simp] theorem setLcore_monitors (c : Nat) (v : LCore) : (s.setLcore c v).monitors = s.monitors := rfl
@[simp] theorem setLcore_resvs (c : Nat) (v : LCore) : (s.setLcore c v).resvs = s.resvs := rfl
@[simp] theorem setLcore_binds (c : Nat) (v : LCore) : (s.setLcore c v).binds = s.binds := rfl
@[simp] theorem setLcore_marks (c : Nat) (v : LCore) : (s.setLcore c v).marks = s.marks := rfl
@[simp] theorem setLcore_parked (c : Nat) (v : LCore) : (s.setLcore c v).parked = s.parked := rfl
@[simp] theorem setLcore_chans (c : Nat) (v : LCore) : (s.setLcore c v).chans = s.chans := rfl
@[simp] theorem setLcore_pps (c : Nat) (v : LCore) : (s.setLcore c v).pps = s.pps := rfl
@[simp] theorem setLcore_colls (c : Nat) (v : LCore) : (s.setLcore c v).colls = s.colls := rfl
@[simp] theorem setLcore_queues (c : Nat) (v : LCore) : (s.setLcore c v).queues = s.queues := rfl
@[simp] theorem setLcore_bar2 (c : Nat) (v : LCore) : (s.setLcore c v).bar2 = s.bar2 := rfl
@[simp] theorem setLcore_dies (c : Nat) (v : LCore) : (s.setLcore c v).dies = s.dies := rfl
@[simp] theorem setLcore_fw (c : Nat) (v : LCore) : (s.setLcore c v).fw = s.fw := rfl
@[simp] theorem setLcore_clock (c : Nat) (v : LCore) : (s.setLcore c v).clock = s.clock := rfl
@[simp] theorem setLcore_turn (c : Nat) (v : LCore) : (s.setLcore c v).turn = s.turn := rfl
@[simp] theorem setLcore_agenda (c : Nat) (v : LCore) : (s.setLcore c v).agenda = s.agenda := rfl
@[simp] theorem setLcore_free (c : Nat) (v : LCore) : (s.setLcore c v).free = s.free := rfl
@[simp] theorem setLcore_nextId (c : Nat) (v : LCore) : (s.setLcore c v).nextId = s.nextId := rfl

/-! ### `setPquad` -/

@[simp] theorem setPquad_mem (c : Nat) (v : PQuad) : (s.setPquad c v).mem = s.mem := rfl
@[simp] theorem setPquad_tasks (c : Nat) (v : PQuad) : (s.setPquad c v).tasks = s.tasks := rfl
@[simp] theorem setPquad_pcores (c : Nat) (v : PQuad) : (s.setPquad c v).pcores = s.pcores := rfl
@[simp] theorem setPquad_lcores (c : Nat) (v : PQuad) : (s.setPquad c v).lcores = s.lcores := rfl
@[simp] theorem setPquad_pquads (c : Nat) (v : PQuad) : (s.setPquad c v).pquads = s.pquads.set c v := rfl
@[simp] theorem setPquad_lquads (c : Nat) (v : PQuad) : (s.setPquad c v).lquads = s.lquads := rfl
@[simp] theorem setPquad_pnodes (c : Nat) (v : PQuad) : (s.setPquad c v).pnodes = s.pnodes := rfl
@[simp] theorem setPquad_lnodes (c : Nat) (v : PQuad) : (s.setPquad c v).lnodes = s.lnodes := rfl
@[simp] theorem setPquad_parts (c : Nat) (v : PQuad) : (s.setPquad c v).parts = s.parts := rfl
@[simp] theorem setPquad_launches (c : Nat) (v : PQuad) : (s.setPquad c v).launches = s.launches := rfl
@[simp] theorem setPquad_monitors (c : Nat) (v : PQuad) : (s.setPquad c v).monitors = s.monitors := rfl
@[simp] theorem setPquad_resvs (c : Nat) (v : PQuad) : (s.setPquad c v).resvs = s.resvs := rfl
@[simp] theorem setPquad_binds (c : Nat) (v : PQuad) : (s.setPquad c v).binds = s.binds := rfl
@[simp] theorem setPquad_marks (c : Nat) (v : PQuad) : (s.setPquad c v).marks = s.marks := rfl
@[simp] theorem setPquad_parked (c : Nat) (v : PQuad) : (s.setPquad c v).parked = s.parked := rfl
@[simp] theorem setPquad_chans (c : Nat) (v : PQuad) : (s.setPquad c v).chans = s.chans := rfl
@[simp] theorem setPquad_pps (c : Nat) (v : PQuad) : (s.setPquad c v).pps = s.pps := rfl
@[simp] theorem setPquad_colls (c : Nat) (v : PQuad) : (s.setPquad c v).colls = s.colls := rfl
@[simp] theorem setPquad_queues (c : Nat) (v : PQuad) : (s.setPquad c v).queues = s.queues := rfl
@[simp] theorem setPquad_bar2 (c : Nat) (v : PQuad) : (s.setPquad c v).bar2 = s.bar2 := rfl
@[simp] theorem setPquad_dies (c : Nat) (v : PQuad) : (s.setPquad c v).dies = s.dies := rfl
@[simp] theorem setPquad_fw (c : Nat) (v : PQuad) : (s.setPquad c v).fw = s.fw := rfl
@[simp] theorem setPquad_clock (c : Nat) (v : PQuad) : (s.setPquad c v).clock = s.clock := rfl
@[simp] theorem setPquad_turn (c : Nat) (v : PQuad) : (s.setPquad c v).turn = s.turn := rfl
@[simp] theorem setPquad_agenda (c : Nat) (v : PQuad) : (s.setPquad c v).agenda = s.agenda := rfl
@[simp] theorem setPquad_free (c : Nat) (v : PQuad) : (s.setPquad c v).free = s.free := rfl
@[simp] theorem setPquad_nextId (c : Nat) (v : PQuad) : (s.setPquad c v).nextId = s.nextId := rfl

/-! ### `setLquad` -/

@[simp] theorem setLquad_mem (c : Nat) (v : LQuad) : (s.setLquad c v).mem = s.mem := rfl
@[simp] theorem setLquad_tasks (c : Nat) (v : LQuad) : (s.setLquad c v).tasks = s.tasks := rfl
@[simp] theorem setLquad_pcores (c : Nat) (v : LQuad) : (s.setLquad c v).pcores = s.pcores := rfl
@[simp] theorem setLquad_lcores (c : Nat) (v : LQuad) : (s.setLquad c v).lcores = s.lcores := rfl
@[simp] theorem setLquad_pquads (c : Nat) (v : LQuad) : (s.setLquad c v).pquads = s.pquads := rfl
@[simp] theorem setLquad_lquads (c : Nat) (v : LQuad) : (s.setLquad c v).lquads = s.lquads.set c v := rfl
@[simp] theorem setLquad_pnodes (c : Nat) (v : LQuad) : (s.setLquad c v).pnodes = s.pnodes := rfl
@[simp] theorem setLquad_lnodes (c : Nat) (v : LQuad) : (s.setLquad c v).lnodes = s.lnodes := rfl
@[simp] theorem setLquad_parts (c : Nat) (v : LQuad) : (s.setLquad c v).parts = s.parts := rfl
@[simp] theorem setLquad_launches (c : Nat) (v : LQuad) : (s.setLquad c v).launches = s.launches := rfl
@[simp] theorem setLquad_monitors (c : Nat) (v : LQuad) : (s.setLquad c v).monitors = s.monitors := rfl
@[simp] theorem setLquad_resvs (c : Nat) (v : LQuad) : (s.setLquad c v).resvs = s.resvs := rfl
@[simp] theorem setLquad_binds (c : Nat) (v : LQuad) : (s.setLquad c v).binds = s.binds := rfl
@[simp] theorem setLquad_marks (c : Nat) (v : LQuad) : (s.setLquad c v).marks = s.marks := rfl
@[simp] theorem setLquad_parked (c : Nat) (v : LQuad) : (s.setLquad c v).parked = s.parked := rfl
@[simp] theorem setLquad_chans (c : Nat) (v : LQuad) : (s.setLquad c v).chans = s.chans := rfl
@[simp] theorem setLquad_pps (c : Nat) (v : LQuad) : (s.setLquad c v).pps = s.pps := rfl
@[simp] theorem setLquad_colls (c : Nat) (v : LQuad) : (s.setLquad c v).colls = s.colls := rfl
@[simp] theorem setLquad_queues (c : Nat) (v : LQuad) : (s.setLquad c v).queues = s.queues := rfl
@[simp] theorem setLquad_bar2 (c : Nat) (v : LQuad) : (s.setLquad c v).bar2 = s.bar2 := rfl
@[simp] theorem setLquad_dies (c : Nat) (v : LQuad) : (s.setLquad c v).dies = s.dies := rfl
@[simp] theorem setLquad_fw (c : Nat) (v : LQuad) : (s.setLquad c v).fw = s.fw := rfl
@[simp] theorem setLquad_clock (c : Nat) (v : LQuad) : (s.setLquad c v).clock = s.clock := rfl
@[simp] theorem setLquad_turn (c : Nat) (v : LQuad) : (s.setLquad c v).turn = s.turn := rfl
@[simp] theorem setLquad_agenda (c : Nat) (v : LQuad) : (s.setLquad c v).agenda = s.agenda := rfl
@[simp] theorem setLquad_free (c : Nat) (v : LQuad) : (s.setLquad c v).free = s.free := rfl
@[simp] theorem setLquad_nextId (c : Nat) (v : LQuad) : (s.setLquad c v).nextId = s.nextId := rfl

/-! ### `setPnode` -/

@[simp] theorem setPnode_mem (c : Nat) (v : PNode) : (s.setPnode c v).mem = s.mem := rfl
@[simp] theorem setPnode_tasks (c : Nat) (v : PNode) : (s.setPnode c v).tasks = s.tasks := rfl
@[simp] theorem setPnode_pcores (c : Nat) (v : PNode) : (s.setPnode c v).pcores = s.pcores := rfl
@[simp] theorem setPnode_lcores (c : Nat) (v : PNode) : (s.setPnode c v).lcores = s.lcores := rfl
@[simp] theorem setPnode_pquads (c : Nat) (v : PNode) : (s.setPnode c v).pquads = s.pquads := rfl
@[simp] theorem setPnode_lquads (c : Nat) (v : PNode) : (s.setPnode c v).lquads = s.lquads := rfl
@[simp] theorem setPnode_pnodes (c : Nat) (v : PNode) : (s.setPnode c v).pnodes = s.pnodes.set c v := rfl
@[simp] theorem setPnode_lnodes (c : Nat) (v : PNode) : (s.setPnode c v).lnodes = s.lnodes := rfl
@[simp] theorem setPnode_parts (c : Nat) (v : PNode) : (s.setPnode c v).parts = s.parts := rfl
@[simp] theorem setPnode_launches (c : Nat) (v : PNode) : (s.setPnode c v).launches = s.launches := rfl
@[simp] theorem setPnode_monitors (c : Nat) (v : PNode) : (s.setPnode c v).monitors = s.monitors := rfl
@[simp] theorem setPnode_resvs (c : Nat) (v : PNode) : (s.setPnode c v).resvs = s.resvs := rfl
@[simp] theorem setPnode_binds (c : Nat) (v : PNode) : (s.setPnode c v).binds = s.binds := rfl
@[simp] theorem setPnode_marks (c : Nat) (v : PNode) : (s.setPnode c v).marks = s.marks := rfl
@[simp] theorem setPnode_parked (c : Nat) (v : PNode) : (s.setPnode c v).parked = s.parked := rfl
@[simp] theorem setPnode_chans (c : Nat) (v : PNode) : (s.setPnode c v).chans = s.chans := rfl
@[simp] theorem setPnode_pps (c : Nat) (v : PNode) : (s.setPnode c v).pps = s.pps := rfl
@[simp] theorem setPnode_colls (c : Nat) (v : PNode) : (s.setPnode c v).colls = s.colls := rfl
@[simp] theorem setPnode_queues (c : Nat) (v : PNode) : (s.setPnode c v).queues = s.queues := rfl
@[simp] theorem setPnode_bar2 (c : Nat) (v : PNode) : (s.setPnode c v).bar2 = s.bar2 := rfl
@[simp] theorem setPnode_dies (c : Nat) (v : PNode) : (s.setPnode c v).dies = s.dies := rfl
@[simp] theorem setPnode_fw (c : Nat) (v : PNode) : (s.setPnode c v).fw = s.fw := rfl
@[simp] theorem setPnode_clock (c : Nat) (v : PNode) : (s.setPnode c v).clock = s.clock := rfl
@[simp] theorem setPnode_turn (c : Nat) (v : PNode) : (s.setPnode c v).turn = s.turn := rfl
@[simp] theorem setPnode_agenda (c : Nat) (v : PNode) : (s.setPnode c v).agenda = s.agenda := rfl
@[simp] theorem setPnode_free (c : Nat) (v : PNode) : (s.setPnode c v).free = s.free := rfl
@[simp] theorem setPnode_nextId (c : Nat) (v : PNode) : (s.setPnode c v).nextId = s.nextId := rfl

/-! ### `setLnode` -/

@[simp] theorem setLnode_mem (c : Nat) (v : LNode) : (s.setLnode c v).mem = s.mem := rfl
@[simp] theorem setLnode_tasks (c : Nat) (v : LNode) : (s.setLnode c v).tasks = s.tasks := rfl
@[simp] theorem setLnode_pcores (c : Nat) (v : LNode) : (s.setLnode c v).pcores = s.pcores := rfl
@[simp] theorem setLnode_lcores (c : Nat) (v : LNode) : (s.setLnode c v).lcores = s.lcores := rfl
@[simp] theorem setLnode_pquads (c : Nat) (v : LNode) : (s.setLnode c v).pquads = s.pquads := rfl
@[simp] theorem setLnode_lquads (c : Nat) (v : LNode) : (s.setLnode c v).lquads = s.lquads := rfl
@[simp] theorem setLnode_pnodes (c : Nat) (v : LNode) : (s.setLnode c v).pnodes = s.pnodes := rfl
@[simp] theorem setLnode_lnodes (c : Nat) (v : LNode) : (s.setLnode c v).lnodes = s.lnodes.set c v := rfl
@[simp] theorem setLnode_parts (c : Nat) (v : LNode) : (s.setLnode c v).parts = s.parts := rfl
@[simp] theorem setLnode_launches (c : Nat) (v : LNode) : (s.setLnode c v).launches = s.launches := rfl
@[simp] theorem setLnode_monitors (c : Nat) (v : LNode) : (s.setLnode c v).monitors = s.monitors := rfl
@[simp] theorem setLnode_resvs (c : Nat) (v : LNode) : (s.setLnode c v).resvs = s.resvs := rfl
@[simp] theorem setLnode_binds (c : Nat) (v : LNode) : (s.setLnode c v).binds = s.binds := rfl
@[simp] theorem setLnode_marks (c : Nat) (v : LNode) : (s.setLnode c v).marks = s.marks := rfl
@[simp] theorem setLnode_parked (c : Nat) (v : LNode) : (s.setLnode c v).parked = s.parked := rfl
@[simp] theorem setLnode_chans (c : Nat) (v : LNode) : (s.setLnode c v).chans = s.chans := rfl
@[simp] theorem setLnode_pps (c : Nat) (v : LNode) : (s.setLnode c v).pps = s.pps := rfl
@[simp] theorem setLnode_colls (c : Nat) (v : LNode) : (s.setLnode c v).colls = s.colls := rfl
@[simp] theorem setLnode_queues (c : Nat) (v : LNode) : (s.setLnode c v).queues = s.queues := rfl
@[simp] theorem setLnode_bar2 (c : Nat) (v : LNode) : (s.setLnode c v).bar2 = s.bar2 := rfl
@[simp] theorem setLnode_dies (c : Nat) (v : LNode) : (s.setLnode c v).dies = s.dies := rfl
@[simp] theorem setLnode_fw (c : Nat) (v : LNode) : (s.setLnode c v).fw = s.fw := rfl
@[simp] theorem setLnode_clock (c : Nat) (v : LNode) : (s.setLnode c v).clock = s.clock := rfl
@[simp] theorem setLnode_turn (c : Nat) (v : LNode) : (s.setLnode c v).turn = s.turn := rfl
@[simp] theorem setLnode_agenda (c : Nat) (v : LNode) : (s.setLnode c v).agenda = s.agenda := rfl
@[simp] theorem setLnode_free (c : Nat) (v : LNode) : (s.setLnode c v).free = s.free := rfl
@[simp] theorem setLnode_nextId (c : Nat) (v : LNode) : (s.setLnode c v).nextId = s.nextId := rfl

/-! ### `setPart` -/

@[simp] theorem setPart_mem (c : Nat) (v : Part) : (s.setPart c v).mem = s.mem := rfl
@[simp] theorem setPart_tasks (c : Nat) (v : Part) : (s.setPart c v).tasks = s.tasks := rfl
@[simp] theorem setPart_pcores (c : Nat) (v : Part) : (s.setPart c v).pcores = s.pcores := rfl
@[simp] theorem setPart_lcores (c : Nat) (v : Part) : (s.setPart c v).lcores = s.lcores := rfl
@[simp] theorem setPart_pquads (c : Nat) (v : Part) : (s.setPart c v).pquads = s.pquads := rfl
@[simp] theorem setPart_lquads (c : Nat) (v : Part) : (s.setPart c v).lquads = s.lquads := rfl
@[simp] theorem setPart_pnodes (c : Nat) (v : Part) : (s.setPart c v).pnodes = s.pnodes := rfl
@[simp] theorem setPart_lnodes (c : Nat) (v : Part) : (s.setPart c v).lnodes = s.lnodes := rfl
@[simp] theorem setPart_parts (c : Nat) (v : Part) : (s.setPart c v).parts = s.parts.set c v := rfl
@[simp] theorem setPart_launches (c : Nat) (v : Part) : (s.setPart c v).launches = s.launches := rfl
@[simp] theorem setPart_monitors (c : Nat) (v : Part) : (s.setPart c v).monitors = s.monitors := rfl
@[simp] theorem setPart_resvs (c : Nat) (v : Part) : (s.setPart c v).resvs = s.resvs := rfl
@[simp] theorem setPart_binds (c : Nat) (v : Part) : (s.setPart c v).binds = s.binds := rfl
@[simp] theorem setPart_marks (c : Nat) (v : Part) : (s.setPart c v).marks = s.marks := rfl
@[simp] theorem setPart_parked (c : Nat) (v : Part) : (s.setPart c v).parked = s.parked := rfl
@[simp] theorem setPart_chans (c : Nat) (v : Part) : (s.setPart c v).chans = s.chans := rfl
@[simp] theorem setPart_pps (c : Nat) (v : Part) : (s.setPart c v).pps = s.pps := rfl
@[simp] theorem setPart_colls (c : Nat) (v : Part) : (s.setPart c v).colls = s.colls := rfl
@[simp] theorem setPart_queues (c : Nat) (v : Part) : (s.setPart c v).queues = s.queues := rfl
@[simp] theorem setPart_bar2 (c : Nat) (v : Part) : (s.setPart c v).bar2 = s.bar2 := rfl
@[simp] theorem setPart_dies (c : Nat) (v : Part) : (s.setPart c v).dies = s.dies := rfl
@[simp] theorem setPart_fw (c : Nat) (v : Part) : (s.setPart c v).fw = s.fw := rfl
@[simp] theorem setPart_clock (c : Nat) (v : Part) : (s.setPart c v).clock = s.clock := rfl
@[simp] theorem setPart_turn (c : Nat) (v : Part) : (s.setPart c v).turn = s.turn := rfl
@[simp] theorem setPart_agenda (c : Nat) (v : Part) : (s.setPart c v).agenda = s.agenda := rfl
@[simp] theorem setPart_free (c : Nat) (v : Part) : (s.setPart c v).free = s.free := rfl
@[simp] theorem setPart_nextId (c : Nat) (v : Part) : (s.setPart c v).nextId = s.nextId := rfl

/-! ### `setTask` -/

@[simp] theorem setTask_mem (c : Nat) (v : Task) : (s.setTask c v).mem = s.mem := rfl
@[simp] theorem setTask_tasks (c : Nat) (v : Task) : (s.setTask c v).tasks = s.tasks.set c v := rfl
@[simp] theorem setTask_pcores (c : Nat) (v : Task) : (s.setTask c v).pcores = s.pcores := rfl
@[simp] theorem setTask_lcores (c : Nat) (v : Task) : (s.setTask c v).lcores = s.lcores := rfl
@[simp] theorem setTask_pquads (c : Nat) (v : Task) : (s.setTask c v).pquads = s.pquads := rfl
@[simp] theorem setTask_lquads (c : Nat) (v : Task) : (s.setTask c v).lquads = s.lquads := rfl
@[simp] theorem setTask_pnodes (c : Nat) (v : Task) : (s.setTask c v).pnodes = s.pnodes := rfl
@[simp] theorem setTask_lnodes (c : Nat) (v : Task) : (s.setTask c v).lnodes = s.lnodes := rfl
@[simp] theorem setTask_parts (c : Nat) (v : Task) : (s.setTask c v).parts = s.parts := rfl
@[simp] theorem setTask_launches (c : Nat) (v : Task) : (s.setTask c v).launches = s.launches := rfl
@[simp] theorem setTask_monitors (c : Nat) (v : Task) : (s.setTask c v).monitors = s.monitors := rfl
@[simp] theorem setTask_resvs (c : Nat) (v : Task) : (s.setTask c v).resvs = s.resvs := rfl
@[simp] theorem setTask_binds (c : Nat) (v : Task) : (s.setTask c v).binds = s.binds := rfl
@[simp] theorem setTask_marks (c : Nat) (v : Task) : (s.setTask c v).marks = s.marks := rfl
@[simp] theorem setTask_parked (c : Nat) (v : Task) : (s.setTask c v).parked = s.parked := rfl
@[simp] theorem setTask_chans (c : Nat) (v : Task) : (s.setTask c v).chans = s.chans := rfl
@[simp] theorem setTask_pps (c : Nat) (v : Task) : (s.setTask c v).pps = s.pps := rfl
@[simp] theorem setTask_colls (c : Nat) (v : Task) : (s.setTask c v).colls = s.colls := rfl
@[simp] theorem setTask_queues (c : Nat) (v : Task) : (s.setTask c v).queues = s.queues := rfl
@[simp] theorem setTask_bar2 (c : Nat) (v : Task) : (s.setTask c v).bar2 = s.bar2 := rfl
@[simp] theorem setTask_dies (c : Nat) (v : Task) : (s.setTask c v).dies = s.dies := rfl
@[simp] theorem setTask_fw (c : Nat) (v : Task) : (s.setTask c v).fw = s.fw := rfl
@[simp] theorem setTask_clock (c : Nat) (v : Task) : (s.setTask c v).clock = s.clock := rfl
@[simp] theorem setTask_turn (c : Nat) (v : Task) : (s.setTask c v).turn = s.turn := rfl
@[simp] theorem setTask_agenda (c : Nat) (v : Task) : (s.setTask c v).agenda = s.agenda := rfl
@[simp] theorem setTask_free (c : Nat) (v : Task) : (s.setTask c v).free = s.free := rfl
@[simp] theorem setTask_nextId (c : Nat) (v : Task) : (s.setTask c v).nextId = s.nextId := rfl

/-! ### `setLaunch` -/

@[simp] theorem setLaunch_mem (c : Nat) (v : Launch) : (s.setLaunch c v).mem = s.mem := rfl
@[simp] theorem setLaunch_tasks (c : Nat) (v : Launch) : (s.setLaunch c v).tasks = s.tasks := rfl
@[simp] theorem setLaunch_pcores (c : Nat) (v : Launch) : (s.setLaunch c v).pcores = s.pcores := rfl
@[simp] theorem setLaunch_lcores (c : Nat) (v : Launch) : (s.setLaunch c v).lcores = s.lcores := rfl
@[simp] theorem setLaunch_pquads (c : Nat) (v : Launch) : (s.setLaunch c v).pquads = s.pquads := rfl
@[simp] theorem setLaunch_lquads (c : Nat) (v : Launch) : (s.setLaunch c v).lquads = s.lquads := rfl
@[simp] theorem setLaunch_pnodes (c : Nat) (v : Launch) : (s.setLaunch c v).pnodes = s.pnodes := rfl
@[simp] theorem setLaunch_lnodes (c : Nat) (v : Launch) : (s.setLaunch c v).lnodes = s.lnodes := rfl
@[simp] theorem setLaunch_parts (c : Nat) (v : Launch) : (s.setLaunch c v).parts = s.parts := rfl
@[simp] theorem setLaunch_launches (c : Nat) (v : Launch) : (s.setLaunch c v).launches = s.launches.set c v := rfl
@[simp] theorem setLaunch_monitors (c : Nat) (v : Launch) : (s.setLaunch c v).monitors = s.monitors := rfl
@[simp] theorem setLaunch_resvs (c : Nat) (v : Launch) : (s.setLaunch c v).resvs = s.resvs := rfl
@[simp] theorem setLaunch_binds (c : Nat) (v : Launch) : (s.setLaunch c v).binds = s.binds := rfl
@[simp] theorem setLaunch_marks (c : Nat) (v : Launch) : (s.setLaunch c v).marks = s.marks := rfl
@[simp] theorem setLaunch_parked (c : Nat) (v : Launch) : (s.setLaunch c v).parked = s.parked := rfl
@[simp] theorem setLaunch_chans (c : Nat) (v : Launch) : (s.setLaunch c v).chans = s.chans := rfl
@[simp] theorem setLaunch_pps (c : Nat) (v : Launch) : (s.setLaunch c v).pps = s.pps := rfl
@[simp] theorem setLaunch_colls (c : Nat) (v : Launch) : (s.setLaunch c v).colls = s.colls := rfl
@[simp] theorem setLaunch_queues (c : Nat) (v : Launch) : (s.setLaunch c v).queues = s.queues := rfl
@[simp] theorem setLaunch_bar2 (c : Nat) (v : Launch) : (s.setLaunch c v).bar2 = s.bar2 := rfl
@[simp] theorem setLaunch_dies (c : Nat) (v : Launch) : (s.setLaunch c v).dies = s.dies := rfl
@[simp] theorem setLaunch_fw (c : Nat) (v : Launch) : (s.setLaunch c v).fw = s.fw := rfl
@[simp] theorem setLaunch_clock (c : Nat) (v : Launch) : (s.setLaunch c v).clock = s.clock := rfl
@[simp] theorem setLaunch_turn (c : Nat) (v : Launch) : (s.setLaunch c v).turn = s.turn := rfl
@[simp] theorem setLaunch_agenda (c : Nat) (v : Launch) : (s.setLaunch c v).agenda = s.agenda := rfl
@[simp] theorem setLaunch_free (c : Nat) (v : Launch) : (s.setLaunch c v).free = s.free := rfl
@[simp] theorem setLaunch_nextId (c : Nat) (v : Launch) : (s.setLaunch c v).nextId = s.nextId := rfl

/-! ### `setQueue` -/

@[simp] theorem setQueue_mem (c : Nat) (v : HQueue) : (s.setQueue c v).mem = s.mem := rfl
@[simp] theorem setQueue_tasks (c : Nat) (v : HQueue) : (s.setQueue c v).tasks = s.tasks := rfl
@[simp] theorem setQueue_pcores (c : Nat) (v : HQueue) : (s.setQueue c v).pcores = s.pcores := rfl
@[simp] theorem setQueue_lcores (c : Nat) (v : HQueue) : (s.setQueue c v).lcores = s.lcores := rfl
@[simp] theorem setQueue_pquads (c : Nat) (v : HQueue) : (s.setQueue c v).pquads = s.pquads := rfl
@[simp] theorem setQueue_lquads (c : Nat) (v : HQueue) : (s.setQueue c v).lquads = s.lquads := rfl
@[simp] theorem setQueue_pnodes (c : Nat) (v : HQueue) : (s.setQueue c v).pnodes = s.pnodes := rfl
@[simp] theorem setQueue_lnodes (c : Nat) (v : HQueue) : (s.setQueue c v).lnodes = s.lnodes := rfl
@[simp] theorem setQueue_parts (c : Nat) (v : HQueue) : (s.setQueue c v).parts = s.parts := rfl
@[simp] theorem setQueue_launches (c : Nat) (v : HQueue) : (s.setQueue c v).launches = s.launches := rfl
@[simp] theorem setQueue_monitors (c : Nat) (v : HQueue) : (s.setQueue c v).monitors = s.monitors := rfl
@[simp] theorem setQueue_resvs (c : Nat) (v : HQueue) : (s.setQueue c v).resvs = s.resvs := rfl
@[simp] theorem setQueue_binds (c : Nat) (v : HQueue) : (s.setQueue c v).binds = s.binds := rfl
@[simp] theorem setQueue_marks (c : Nat) (v : HQueue) : (s.setQueue c v).marks = s.marks := rfl
@[simp] theorem setQueue_parked (c : Nat) (v : HQueue) : (s.setQueue c v).parked = s.parked := rfl
@[simp] theorem setQueue_chans (c : Nat) (v : HQueue) : (s.setQueue c v).chans = s.chans := rfl
@[simp] theorem setQueue_pps (c : Nat) (v : HQueue) : (s.setQueue c v).pps = s.pps := rfl
@[simp] theorem setQueue_colls (c : Nat) (v : HQueue) : (s.setQueue c v).colls = s.colls := rfl
@[simp] theorem setQueue_queues (c : Nat) (v : HQueue) : (s.setQueue c v).queues = s.queues.set c v := rfl
@[simp] theorem setQueue_bar2 (c : Nat) (v : HQueue) : (s.setQueue c v).bar2 = s.bar2 := rfl
@[simp] theorem setQueue_dies (c : Nat) (v : HQueue) : (s.setQueue c v).dies = s.dies := rfl
@[simp] theorem setQueue_fw (c : Nat) (v : HQueue) : (s.setQueue c v).fw = s.fw := rfl
@[simp] theorem setQueue_clock (c : Nat) (v : HQueue) : (s.setQueue c v).clock = s.clock := rfl
@[simp] theorem setQueue_turn (c : Nat) (v : HQueue) : (s.setQueue c v).turn = s.turn := rfl
@[simp] theorem setQueue_agenda (c : Nat) (v : HQueue) : (s.setQueue c v).agenda = s.agenda := rfl
@[simp] theorem setQueue_free (c : Nat) (v : HQueue) : (s.setQueue c v).free = s.free := rfl
@[simp] theorem setQueue_nextId (c : Nat) (v : HQueue) : (s.setQueue c v).nextId = s.nextId := rfl

/-! ### `setDie` -/

@[simp] theorem setDie_mem (c : Nat) (v : Die) : (s.setDie c v).mem = s.mem := rfl
@[simp] theorem setDie_tasks (c : Nat) (v : Die) : (s.setDie c v).tasks = s.tasks := rfl
@[simp] theorem setDie_pcores (c : Nat) (v : Die) : (s.setDie c v).pcores = s.pcores := rfl
@[simp] theorem setDie_lcores (c : Nat) (v : Die) : (s.setDie c v).lcores = s.lcores := rfl
@[simp] theorem setDie_pquads (c : Nat) (v : Die) : (s.setDie c v).pquads = s.pquads := rfl
@[simp] theorem setDie_lquads (c : Nat) (v : Die) : (s.setDie c v).lquads = s.lquads := rfl
@[simp] theorem setDie_pnodes (c : Nat) (v : Die) : (s.setDie c v).pnodes = s.pnodes := rfl
@[simp] theorem setDie_lnodes (c : Nat) (v : Die) : (s.setDie c v).lnodes = s.lnodes := rfl
@[simp] theorem setDie_parts (c : Nat) (v : Die) : (s.setDie c v).parts = s.parts := rfl
@[simp] theorem setDie_launches (c : Nat) (v : Die) : (s.setDie c v).launches = s.launches := rfl
@[simp] theorem setDie_monitors (c : Nat) (v : Die) : (s.setDie c v).monitors = s.monitors := rfl
@[simp] theorem setDie_resvs (c : Nat) (v : Die) : (s.setDie c v).resvs = s.resvs := rfl
@[simp] theorem setDie_binds (c : Nat) (v : Die) : (s.setDie c v).binds = s.binds := rfl
@[simp] theorem setDie_marks (c : Nat) (v : Die) : (s.setDie c v).marks = s.marks := rfl
@[simp] theorem setDie_parked (c : Nat) (v : Die) : (s.setDie c v).parked = s.parked := rfl
@[simp] theorem setDie_chans (c : Nat) (v : Die) : (s.setDie c v).chans = s.chans := rfl
@[simp] theorem setDie_pps (c : Nat) (v : Die) : (s.setDie c v).pps = s.pps := rfl
@[simp] theorem setDie_colls (c : Nat) (v : Die) : (s.setDie c v).colls = s.colls := rfl
@[simp] theorem setDie_queues (c : Nat) (v : Die) : (s.setDie c v).queues = s.queues := rfl
@[simp] theorem setDie_bar2 (c : Nat) (v : Die) : (s.setDie c v).bar2 = s.bar2 := rfl
@[simp] theorem setDie_dies (c : Nat) (v : Die) : (s.setDie c v).dies = s.dies.set c v := rfl
@[simp] theorem setDie_fw (c : Nat) (v : Die) : (s.setDie c v).fw = s.fw := rfl
@[simp] theorem setDie_clock (c : Nat) (v : Die) : (s.setDie c v).clock = s.clock := rfl
@[simp] theorem setDie_turn (c : Nat) (v : Die) : (s.setDie c v).turn = s.turn := rfl
@[simp] theorem setDie_agenda (c : Nat) (v : Die) : (s.setDie c v).agenda = s.agenda := rfl
@[simp] theorem setDie_free (c : Nat) (v : Die) : (s.setDie c v).free = s.free := rfl
@[simp] theorem setDie_nextId (c : Nat) (v : Die) : (s.setDie c v).nextId = s.nextId := rfl

/-! ### `modPp` -/

@[simp] theorem modPp_mem (c : Nat) (f : PortProc → PortProc) : (s.modPp c f).mem = s.mem := rfl
@[simp] theorem modPp_tasks (c : Nat) (f : PortProc → PortProc) : (s.modPp c f).tasks = s.tasks := rfl
@[simp] theorem modPp_pcores (c : Nat) (f : PortProc → PortProc) : (s.modPp c f).pcores = s.pcores := rfl
@[simp] theorem modPp_lcores (c : Nat) (f : PortProc → PortProc) : (s.modPp c f).lcores = s.lcores := rfl
@[simp] theorem modPp_pquads (c : Nat) (f : PortProc → PortProc) : (s.modPp c f).pquads = s.pquads := rfl
@[simp] theorem modPp_lquads (c : Nat) (f : PortProc → PortProc) : (s.modPp c f).lquads = s.lquads := rfl
@[simp] theorem modPp_pnodes (c : Nat) (f : PortProc → PortProc) : (s.modPp c f).pnodes = s.pnodes := rfl
@[simp] theorem modPp_lnodes (c : Nat) (f : PortProc → PortProc) : (s.modPp c f).lnodes = s.lnodes := rfl
@[simp] theorem modPp_parts (c : Nat) (f : PortProc → PortProc) : (s.modPp c f).parts = s.parts := rfl
@[simp] theorem modPp_launches (c : Nat) (f : PortProc → PortProc) : (s.modPp c f).launches = s.launches := rfl
@[simp] theorem modPp_monitors (c : Nat) (f : PortProc → PortProc) : (s.modPp c f).monitors = s.monitors := rfl
@[simp] theorem modPp_resvs (c : Nat) (f : PortProc → PortProc) : (s.modPp c f).resvs = s.resvs := rfl
@[simp] theorem modPp_binds (c : Nat) (f : PortProc → PortProc) : (s.modPp c f).binds = s.binds := rfl
@[simp] theorem modPp_marks (c : Nat) (f : PortProc → PortProc) : (s.modPp c f).marks = s.marks := rfl
@[simp] theorem modPp_parked (c : Nat) (f : PortProc → PortProc) : (s.modPp c f).parked = s.parked := rfl
@[simp] theorem modPp_chans (c : Nat) (f : PortProc → PortProc) : (s.modPp c f).chans = s.chans := rfl
@[simp] theorem modPp_pps (c : Nat) (f : PortProc → PortProc) : (s.modPp c f).pps = s.pps.set c (f (s.portProc c)) := rfl
@[simp] theorem modPp_colls (c : Nat) (f : PortProc → PortProc) : (s.modPp c f).colls = s.colls := rfl
@[simp] theorem modPp_queues (c : Nat) (f : PortProc → PortProc) : (s.modPp c f).queues = s.queues := rfl
@[simp] theorem modPp_bar2 (c : Nat) (f : PortProc → PortProc) : (s.modPp c f).bar2 = s.bar2 := rfl
@[simp] theorem modPp_dies (c : Nat) (f : PortProc → PortProc) : (s.modPp c f).dies = s.dies := rfl
@[simp] theorem modPp_fw (c : Nat) (f : PortProc → PortProc) : (s.modPp c f).fw = s.fw := rfl
@[simp] theorem modPp_clock (c : Nat) (f : PortProc → PortProc) : (s.modPp c f).clock = s.clock := rfl
@[simp] theorem modPp_turn (c : Nat) (f : PortProc → PortProc) : (s.modPp c f).turn = s.turn := rfl
@[simp] theorem modPp_agenda (c : Nat) (f : PortProc → PortProc) : (s.modPp c f).agenda = s.agenda := rfl
@[simp] theorem modPp_free (c : Nat) (f : PortProc → PortProc) : (s.modPp c f).free = s.free := rfl
@[simp] theorem modPp_nextId (c : Nat) (f : PortProc → PortProc) : (s.modPp c f).nextId = s.nextId := rfl

/-! ### `modPcore` -/

@[simp] theorem modPcore_mem (c : Nat) (f : PCore → PCore) : (s.modPcore c f).mem = s.mem := rfl
@[simp] theorem modPcore_tasks (c : Nat) (f : PCore → PCore) : (s.modPcore c f).tasks = s.tasks := rfl
@[simp] theorem modPcore_pcores (c : Nat) (f : PCore → PCore) : (s.modPcore c f).pcores = s.pcores.set c (f (s.pcore c)) := rfl
@[simp] theorem modPcore_lcores (c : Nat) (f : PCore → PCore) : (s.modPcore c f).lcores = s.lcores := rfl
@[simp] theorem modPcore_pquads (c : Nat) (f : PCore → PCore) : (s.modPcore c f).pquads = s.pquads := rfl
@[simp] theorem modPcore_lquads (c : Nat) (f : PCore → PCore) : (s.modPcore c f).lquads = s.lquads := rfl
@[simp] theorem modPcore_pnodes (c : Nat) (f : PCore → PCore) : (s.modPcore c f).pnodes = s.pnodes := rfl
@[simp] theorem modPcore_lnodes (c : Nat) (f : PCore → PCore) : (s.modPcore c f).lnodes = s.lnodes := rfl
@[simp] theorem modPcore_parts (c : Nat) (f : PCore → PCore) : (s.modPcore c f).parts = s.parts := rfl
@[simp] theorem modPcore_launches (c : Nat) (f : PCore → PCore) : (s.modPcore c f).launches = s.launches := rfl
@[simp] theorem modPcore_monitors (c : Nat) (f : PCore → PCore) : (s.modPcore c f).monitors = s.monitors := rfl
@[simp] theorem modPcore_resvs (c : Nat) (f : PCore → PCore) : (s.modPcore c f).resvs = s.resvs := rfl
@[simp] theorem modPcore_binds (c : Nat) (f : PCore → PCore) : (s.modPcore c f).binds = s.binds := rfl
@[simp] theorem modPcore_marks (c : Nat) (f : PCore → PCore) : (s.modPcore c f).marks = s.marks := rfl
@[simp] theorem modPcore_parked (c : Nat) (f : PCore → PCore) : (s.modPcore c f).parked = s.parked := rfl
@[simp] theorem modPcore_chans (c : Nat) (f : PCore → PCore) : (s.modPcore c f).chans = s.chans := rfl
@[simp] theorem modPcore_pps (c : Nat) (f : PCore → PCore) : (s.modPcore c f).pps = s.pps := rfl
@[simp] theorem modPcore_colls (c : Nat) (f : PCore → PCore) : (s.modPcore c f).colls = s.colls := rfl
@[simp] theorem modPcore_queues (c : Nat) (f : PCore → PCore) : (s.modPcore c f).queues = s.queues := rfl
@[simp] theorem modPcore_bar2 (c : Nat) (f : PCore → PCore) : (s.modPcore c f).bar2 = s.bar2 := rfl
@[simp] theorem modPcore_dies (c : Nat) (f : PCore → PCore) : (s.modPcore c f).dies = s.dies := rfl
@[simp] theorem modPcore_fw (c : Nat) (f : PCore → PCore) : (s.modPcore c f).fw = s.fw := rfl
@[simp] theorem modPcore_clock (c : Nat) (f : PCore → PCore) : (s.modPcore c f).clock = s.clock := rfl
@[simp] theorem modPcore_turn (c : Nat) (f : PCore → PCore) : (s.modPcore c f).turn = s.turn := rfl
@[simp] theorem modPcore_agenda (c : Nat) (f : PCore → PCore) : (s.modPcore c f).agenda = s.agenda := rfl
@[simp] theorem modPcore_free (c : Nat) (f : PCore → PCore) : (s.modPcore c f).free = s.free := rfl
@[simp] theorem modPcore_nextId (c : Nat) (f : PCore → PCore) : (s.modPcore c f).nextId = s.nextId := rfl

/-! ### `modLcore` -/

@[simp] theorem modLcore_mem (c : Nat) (f : LCore → LCore) : (s.modLcore c f).mem = s.mem := rfl
@[simp] theorem modLcore_tasks (c : Nat) (f : LCore → LCore) : (s.modLcore c f).tasks = s.tasks := rfl
@[simp] theorem modLcore_pcores (c : Nat) (f : LCore → LCore) : (s.modLcore c f).pcores = s.pcores := rfl
@[simp] theorem modLcore_lcores (c : Nat) (f : LCore → LCore) : (s.modLcore c f).lcores = s.lcores.set c (f (s.lcore c)) := rfl
@[simp] theorem modLcore_pquads (c : Nat) (f : LCore → LCore) : (s.modLcore c f).pquads = s.pquads := rfl
@[simp] theorem modLcore_lquads (c : Nat) (f : LCore → LCore) : (s.modLcore c f).lquads = s.lquads := rfl
@[simp] theorem modLcore_pnodes (c : Nat) (f : LCore → LCore) : (s.modLcore c f).pnodes = s.pnodes := rfl
@[simp] theorem modLcore_lnodes (c : Nat) (f : LCore → LCore) : (s.modLcore c f).lnodes = s.lnodes := rfl
@[simp] theorem modLcore_parts (c : Nat) (f : LCore → LCore) : (s.modLcore c f).parts = s.parts := rfl
@[simp] theorem modLcore_launches (c : Nat) (f : LCore → LCore) : (s.modLcore c f).launches = s.launches := rfl
@[simp] theorem modLcore_monitors (c : Nat) (f : LCore → LCore) : (s.modLcore c f).monitors = s.monitors := rfl
@[simp] theorem modLcore_resvs (c : Nat) (f : LCore → LCore) : (s.modLcore c f).resvs = s.resvs := rfl
@[simp] theorem modLcore_binds (c : Nat) (f : LCore → LCore) : (s.modLcore c f).binds = s.binds := rfl
@[simp] theorem modLcore_marks (c : Nat) (f : LCore → LCore) : (s.modLcore c f).marks = s.marks := rfl
@[simp] theorem modLcore_parked (c : Nat) (f : LCore → LCore) : (s.modLcore c f).parked = s.parked := rfl
@[simp] theorem modLcore_chans (c : Nat) (f : LCore → LCore) : (s.modLcore c f).chans = s.chans := rfl
@[simp] theorem modLcore_pps (c : Nat) (f : LCore → LCore) : (s.modLcore c f).pps = s.pps := rfl
@[simp] theorem modLcore_colls (c : Nat) (f : LCore → LCore) : (s.modLcore c f).colls = s.colls := rfl
@[simp] theorem modLcore_queues (c : Nat) (f : LCore → LCore) : (s.modLcore c f).queues = s.queues := rfl
@[simp] theorem modLcore_bar2 (c : Nat) (f : LCore → LCore) : (s.modLcore c f).bar2 = s.bar2 := rfl
@[simp] theorem modLcore_dies (c : Nat) (f : LCore → LCore) : (s.modLcore c f).dies = s.dies := rfl
@[simp] theorem modLcore_fw (c : Nat) (f : LCore → LCore) : (s.modLcore c f).fw = s.fw := rfl
@[simp] theorem modLcore_clock (c : Nat) (f : LCore → LCore) : (s.modLcore c f).clock = s.clock := rfl
@[simp] theorem modLcore_turn (c : Nat) (f : LCore → LCore) : (s.modLcore c f).turn = s.turn := rfl
@[simp] theorem modLcore_agenda (c : Nat) (f : LCore → LCore) : (s.modLcore c f).agenda = s.agenda := rfl
@[simp] theorem modLcore_free (c : Nat) (f : LCore → LCore) : (s.modLcore c f).free = s.free := rfl
@[simp] theorem modLcore_nextId (c : Nat) (f : LCore → LCore) : (s.modLcore c f).nextId = s.nextId := rfl

/-! ### `modPquad` -/

@[simp] theorem modPquad_mem (c : Nat) (f : PQuad → PQuad) : (s.modPquad c f).mem = s.mem := rfl
@[simp] theorem modPquad_tasks (c : Nat) (f : PQuad → PQuad) : (s.modPquad c f).tasks = s.tasks := rfl
@[simp] theorem modPquad_pcores (c : Nat) (f : PQuad → PQuad) : (s.modPquad c f).pcores = s.pcores := rfl
@[simp] theorem modPquad_lcores (c : Nat) (f : PQuad → PQuad) : (s.modPquad c f).lcores = s.lcores := rfl
@[simp] theorem modPquad_pquads (c : Nat) (f : PQuad → PQuad) : (s.modPquad c f).pquads = s.pquads.set c (f (s.pquad c)) := rfl
@[simp] theorem modPquad_lquads (c : Nat) (f : PQuad → PQuad) : (s.modPquad c f).lquads = s.lquads := rfl
@[simp] theorem modPquad_pnodes (c : Nat) (f : PQuad → PQuad) : (s.modPquad c f).pnodes = s.pnodes := rfl
@[simp] theorem modPquad_lnodes (c : Nat) (f : PQuad → PQuad) : (s.modPquad c f).lnodes = s.lnodes := rfl
@[simp] theorem modPquad_parts (c : Nat) (f : PQuad → PQuad) : (s.modPquad c f).parts = s.parts := rfl
@[simp] theorem modPquad_launches (c : Nat) (f : PQuad → PQuad) : (s.modPquad c f).launches = s.launches := rfl
@[simp] theorem modPquad_monitors (c : Nat) (f : PQuad → PQuad) : (s.modPquad c f).monitors = s.monitors := rfl
@[simp] theorem modPquad_resvs (c : Nat) (f : PQuad → PQuad) : (s.modPquad c f).resvs = s.resvs := rfl
@[simp] theorem modPquad_binds (c : Nat) (f : PQuad → PQuad) : (s.modPquad c f).binds = s.binds := rfl
@[simp] theorem modPquad_marks (c : Nat) (f : PQuad → PQuad) : (s.modPquad c f).marks = s.marks := rfl
@[simp] theorem modPquad_parked (c : Nat) (f : PQuad → PQuad) : (s.modPquad c f).parked = s.parked := rfl
@[simp] theorem modPquad_chans (c : Nat) (f : PQuad → PQuad) : (s.modPquad c f).chans = s.chans := rfl
@[simp] theorem modPquad_pps (c : Nat) (f : PQuad → PQuad) : (s.modPquad c f).pps = s.pps := rfl
@[simp] theorem modPquad_colls (c : Nat) (f : PQuad → PQuad) : (s.modPquad c f).colls = s.colls := rfl
@[simp] theorem modPquad_queues (c : Nat) (f : PQuad → PQuad) : (s.modPquad c f).queues = s.queues := rfl
@[simp] theorem modPquad_bar2 (c : Nat) (f : PQuad → PQuad) : (s.modPquad c f).bar2 = s.bar2 := rfl
@[simp] theorem modPquad_dies (c : Nat) (f : PQuad → PQuad) : (s.modPquad c f).dies = s.dies := rfl
@[simp] theorem modPquad_fw (c : Nat) (f : PQuad → PQuad) : (s.modPquad c f).fw = s.fw := rfl
@[simp] theorem modPquad_clock (c : Nat) (f : PQuad → PQuad) : (s.modPquad c f).clock = s.clock := rfl
@[simp] theorem modPquad_turn (c : Nat) (f : PQuad → PQuad) : (s.modPquad c f).turn = s.turn := rfl
@[simp] theorem modPquad_agenda (c : Nat) (f : PQuad → PQuad) : (s.modPquad c f).agenda = s.agenda := rfl
@[simp] theorem modPquad_free (c : Nat) (f : PQuad → PQuad) : (s.modPquad c f).free = s.free := rfl
@[simp] theorem modPquad_nextId (c : Nat) (f : PQuad → PQuad) : (s.modPquad c f).nextId = s.nextId := rfl

/-! ### `modLquad` -/

@[simp] theorem modLquad_mem (c : Nat) (f : LQuad → LQuad) : (s.modLquad c f).mem = s.mem := rfl
@[simp] theorem modLquad_tasks (c : Nat) (f : LQuad → LQuad) : (s.modLquad c f).tasks = s.tasks := rfl
@[simp] theorem modLquad_pcores (c : Nat) (f : LQuad → LQuad) : (s.modLquad c f).pcores = s.pcores := rfl
@[simp] theorem modLquad_lcores (c : Nat) (f : LQuad → LQuad) : (s.modLquad c f).lcores = s.lcores := rfl
@[simp] theorem modLquad_pquads (c : Nat) (f : LQuad → LQuad) : (s.modLquad c f).pquads = s.pquads := rfl
@[simp] theorem modLquad_lquads (c : Nat) (f : LQuad → LQuad) : (s.modLquad c f).lquads = s.lquads.set c (f (s.lquad c)) := rfl
@[simp] theorem modLquad_pnodes (c : Nat) (f : LQuad → LQuad) : (s.modLquad c f).pnodes = s.pnodes := rfl
@[simp] theorem modLquad_lnodes (c : Nat) (f : LQuad → LQuad) : (s.modLquad c f).lnodes = s.lnodes := rfl
@[simp] theorem modLquad_parts (c : Nat) (f : LQuad → LQuad) : (s.modLquad c f).parts = s.parts := rfl
@[simp] theorem modLquad_launches (c : Nat) (f : LQuad → LQuad) : (s.modLquad c f).launches = s.launches := rfl
@[simp] theorem modLquad_monitors (c : Nat) (f : LQuad → LQuad) : (s.modLquad c f).monitors = s.monitors := rfl
@[simp] theorem modLquad_resvs (c : Nat) (f : LQuad → LQuad) : (s.modLquad c f).resvs = s.resvs := rfl
@[simp] theorem modLquad_binds (c : Nat) (f : LQuad → LQuad) : (s.modLquad c f).binds = s.binds := rfl
@[simp] theorem modLquad_marks (c : Nat) (f : LQuad → LQuad) : (s.modLquad c f).marks = s.marks := rfl
@[simp] theorem modLquad_parked (c : Nat) (f : LQuad → LQuad) : (s.modLquad c f).parked = s.parked := rfl
@[simp] theorem modLquad_chans (c : Nat) (f : LQuad → LQuad) : (s.modLquad c f).chans = s.chans := rfl
@[simp] theorem modLquad_pps (c : Nat) (f : LQuad → LQuad) : (s.modLquad c f).pps = s.pps := rfl
@[simp] theorem modLquad_colls (c : Nat) (f : LQuad → LQuad) : (s.modLquad c f).colls = s.colls := rfl
@[simp] theorem modLquad_queues (c : Nat) (f : LQuad → LQuad) : (s.modLquad c f).queues = s.queues := rfl
@[simp] theorem modLquad_bar2 (c : Nat) (f : LQuad → LQuad) : (s.modLquad c f).bar2 = s.bar2 := rfl
@[simp] theorem modLquad_dies (c : Nat) (f : LQuad → LQuad) : (s.modLquad c f).dies = s.dies := rfl
@[simp] theorem modLquad_fw (c : Nat) (f : LQuad → LQuad) : (s.modLquad c f).fw = s.fw := rfl
@[simp] theorem modLquad_clock (c : Nat) (f : LQuad → LQuad) : (s.modLquad c f).clock = s.clock := rfl
@[simp] theorem modLquad_turn (c : Nat) (f : LQuad → LQuad) : (s.modLquad c f).turn = s.turn := rfl
@[simp] theorem modLquad_agenda (c : Nat) (f : LQuad → LQuad) : (s.modLquad c f).agenda = s.agenda := rfl
@[simp] theorem modLquad_free (c : Nat) (f : LQuad → LQuad) : (s.modLquad c f).free = s.free := rfl
@[simp] theorem modLquad_nextId (c : Nat) (f : LQuad → LQuad) : (s.modLquad c f).nextId = s.nextId := rfl

/-! ### `modPnode` -/

@[simp] theorem modPnode_mem (c : Nat) (f : PNode → PNode) : (s.modPnode c f).mem = s.mem := rfl
@[simp] theorem modPnode_tasks (c : Nat) (f : PNode → PNode) : (s.modPnode c f).tasks = s.tasks := rfl
@[simp] theorem modPnode_pcores (c : Nat) (f : PNode → PNode) : (s.modPnode c f).pcores = s.pcores := rfl
@[simp] theorem modPnode_lcores (c : Nat) (f : PNode → PNode) : (s.modPnode c f).lcores = s.lcores := rfl
@[simp] theorem modPnode_pquads (c : Nat) (f : PNode → PNode) : (s.modPnode c f).pquads = s.pquads := rfl
@[simp] theorem modPnode_lquads (c : Nat) (f : PNode → PNode) : (s.modPnode c f).lquads = s.lquads := rfl
@[simp] theorem modPnode_pnodes (c : Nat) (f : PNode → PNode) : (s.modPnode c f).pnodes = s.pnodes.set c (f (s.pnode c)) := rfl
@[simp] theorem modPnode_lnodes (c : Nat) (f : PNode → PNode) : (s.modPnode c f).lnodes = s.lnodes := rfl
@[simp] theorem modPnode_parts (c : Nat) (f : PNode → PNode) : (s.modPnode c f).parts = s.parts := rfl
@[simp] theorem modPnode_launches (c : Nat) (f : PNode → PNode) : (s.modPnode c f).launches = s.launches := rfl
@[simp] theorem modPnode_monitors (c : Nat) (f : PNode → PNode) : (s.modPnode c f).monitors = s.monitors := rfl
@[simp] theorem modPnode_resvs (c : Nat) (f : PNode → PNode) : (s.modPnode c f).resvs = s.resvs := rfl
@[simp] theorem modPnode_binds (c : Nat) (f : PNode → PNode) : (s.modPnode c f).binds = s.binds := rfl
@[simp] theorem modPnode_marks (c : Nat) (f : PNode → PNode) : (s.modPnode c f).marks = s.marks := rfl
@[simp] theorem modPnode_parked (c : Nat) (f : PNode → PNode) : (s.modPnode c f).parked = s.parked := rfl
@[simp] theorem modPnode_chans (c : Nat) (f : PNode → PNode) : (s.modPnode c f).chans = s.chans := rfl
@[simp] theorem modPnode_pps (c : Nat) (f : PNode → PNode) : (s.modPnode c f).pps = s.pps := rfl
@[simp] theorem modPnode_colls (c : Nat) (f : PNode → PNode) : (s.modPnode c f).colls = s.colls := rfl
@[simp] theorem modPnode_queues (c : Nat) (f : PNode → PNode) : (s.modPnode c f).queues = s.queues := rfl
@[simp] theorem modPnode_bar2 (c : Nat) (f : PNode → PNode) : (s.modPnode c f).bar2 = s.bar2 := rfl
@[simp] theorem modPnode_dies (c : Nat) (f : PNode → PNode) : (s.modPnode c f).dies = s.dies := rfl
@[simp] theorem modPnode_fw (c : Nat) (f : PNode → PNode) : (s.modPnode c f).fw = s.fw := rfl
@[simp] theorem modPnode_clock (c : Nat) (f : PNode → PNode) : (s.modPnode c f).clock = s.clock := rfl
@[simp] theorem modPnode_turn (c : Nat) (f : PNode → PNode) : (s.modPnode c f).turn = s.turn := rfl
@[simp] theorem modPnode_agenda (c : Nat) (f : PNode → PNode) : (s.modPnode c f).agenda = s.agenda := rfl
@[simp] theorem modPnode_free (c : Nat) (f : PNode → PNode) : (s.modPnode c f).free = s.free := rfl
@[simp] theorem modPnode_nextId (c : Nat) (f : PNode → PNode) : (s.modPnode c f).nextId = s.nextId := rfl

/-! ### `modLnode` -/

@[simp] theorem modLnode_mem (c : Nat) (f : LNode → LNode) : (s.modLnode c f).mem = s.mem := rfl
@[simp] theorem modLnode_tasks (c : Nat) (f : LNode → LNode) : (s.modLnode c f).tasks = s.tasks := rfl
@[simp] theorem modLnode_pcores (c : Nat) (f : LNode → LNode) : (s.modLnode c f).pcores = s.pcores := rfl
@[simp] theorem modLnode_lcores (c : Nat) (f : LNode → LNode) : (s.modLnode c f).lcores = s.lcores := rfl
@[simp] theorem modLnode_pquads (c : Nat) (f : LNode → LNode) : (s.modLnode c f).pquads = s.pquads := rfl
@[simp] theorem modLnode_lquads (c : Nat) (f : LNode → LNode) : (s.modLnode c f).lquads = s.lquads := rfl
@[simp] theorem modLnode_pnodes (c : Nat) (f : LNode → LNode) : (s.modLnode c f).pnodes = s.pnodes := rfl
@[simp] theorem modLnode_lnodes (c : Nat) (f : LNode → LNode) : (s.modLnode c f).lnodes = s.lnodes.set c (f (s.lnode c)) := rfl
@[simp] theorem modLnode_parts (c : Nat) (f : LNode → LNode) : (s.modLnode c f).parts = s.parts := rfl
@[simp] theorem modLnode_launches (c : Nat) (f : LNode → LNode) : (s.modLnode c f).launches = s.launches := rfl
@[simp] theorem modLnode_monitors (c : Nat) (f : LNode → LNode) : (s.modLnode c f).monitors = s.monitors := rfl
@[simp] theorem modLnode_resvs (c : Nat) (f : LNode → LNode) : (s.modLnode c f).resvs = s.resvs := rfl
@[simp] theorem modLnode_binds (c : Nat) (f : LNode → LNode) : (s.modLnode c f).binds = s.binds := rfl
@[simp] theorem modLnode_marks (c : Nat) (f : LNode → LNode) : (s.modLnode c f).marks = s.marks := rfl
@[simp] theorem modLnode_parked (c : Nat) (f : LNode → LNode) : (s.modLnode c f).parked = s.parked := rfl
@[simp] theorem modLnode_chans (c : Nat) (f : LNode → LNode) : (s.modLnode c f).chans = s.chans := rfl
@[simp] theorem modLnode_pps (c : Nat) (f : LNode → LNode) : (s.modLnode c f).pps = s.pps := rfl
@[simp] theorem modLnode_colls (c : Nat) (f : LNode → LNode) : (s.modLnode c f).colls = s.colls := rfl
@[simp] theorem modLnode_queues (c : Nat) (f : LNode → LNode) : (s.modLnode c f).queues = s.queues := rfl
@[simp] theorem modLnode_bar2 (c : Nat) (f : LNode → LNode) : (s.modLnode c f).bar2 = s.bar2 := rfl
@[simp] theorem modLnode_dies (c : Nat) (f : LNode → LNode) : (s.modLnode c f).dies = s.dies := rfl
@[simp] theorem modLnode_fw (c : Nat) (f : LNode → LNode) : (s.modLnode c f).fw = s.fw := rfl
@[simp] theorem modLnode_clock (c : Nat) (f : LNode → LNode) : (s.modLnode c f).clock = s.clock := rfl
@[simp] theorem modLnode_turn (c : Nat) (f : LNode → LNode) : (s.modLnode c f).turn = s.turn := rfl
@[simp] theorem modLnode_agenda (c : Nat) (f : LNode → LNode) : (s.modLnode c f).agenda = s.agenda := rfl
@[simp] theorem modLnode_free (c : Nat) (f : LNode → LNode) : (s.modLnode c f).free = s.free := rfl
@[simp] theorem modLnode_nextId (c : Nat) (f : LNode → LNode) : (s.modLnode c f).nextId = s.nextId := rfl

/-! ### `modPart` -/

@[simp] theorem modPart_mem (c : Nat) (f : Part → Part) : (s.modPart c f).mem = s.mem := rfl
@[simp] theorem modPart_tasks (c : Nat) (f : Part → Part) : (s.modPart c f).tasks = s.tasks := rfl
@[simp] theorem modPart_pcores (c : Nat) (f : Part → Part) : (s.modPart c f).pcores = s.pcores := rfl
@[simp] theorem modPart_lcores (c : Nat) (f : Part → Part) : (s.modPart c f).lcores = s.lcores := rfl
@[simp] theorem modPart_pquads (c : Nat) (f : Part → Part) : (s.modPart c f).pquads = s.pquads := rfl
@[simp] theorem modPart_lquads (c : Nat) (f : Part → Part) : (s.modPart c f).lquads = s.lquads := rfl
@[simp] theorem modPart_pnodes (c : Nat) (f : Part → Part) : (s.modPart c f).pnodes = s.pnodes := rfl
@[simp] theorem modPart_lnodes (c : Nat) (f : Part → Part) : (s.modPart c f).lnodes = s.lnodes := rfl
@[simp] theorem modPart_parts (c : Nat) (f : Part → Part) : (s.modPart c f).parts = s.parts.set c (f (s.partOf c)) := rfl
@[simp] theorem modPart_launches (c : Nat) (f : Part → Part) : (s.modPart c f).launches = s.launches := rfl
@[simp] theorem modPart_monitors (c : Nat) (f : Part → Part) : (s.modPart c f).monitors = s.monitors := rfl
@[simp] theorem modPart_resvs (c : Nat) (f : Part → Part) : (s.modPart c f).resvs = s.resvs := rfl
@[simp] theorem modPart_binds (c : Nat) (f : Part → Part) : (s.modPart c f).binds = s.binds := rfl
@[simp] theorem modPart_marks (c : Nat) (f : Part → Part) : (s.modPart c f).marks = s.marks := rfl
@[simp] theorem modPart_parked (c : Nat) (f : Part → Part) : (s.modPart c f).parked = s.parked := rfl
@[simp] theorem modPart_chans (c : Nat) (f : Part → Part) : (s.modPart c f).chans = s.chans := rfl
@[simp] theorem modPart_pps (c : Nat) (f : Part → Part) : (s.modPart c f).pps = s.pps := rfl
@[simp] theorem modPart_colls (c : Nat) (f : Part → Part) : (s.modPart c f).colls = s.colls := rfl
@[simp] theorem modPart_queues (c : Nat) (f : Part → Part) : (s.modPart c f).queues = s.queues := rfl
@[simp] theorem modPart_bar2 (c : Nat) (f : Part → Part) : (s.modPart c f).bar2 = s.bar2 := rfl
@[simp] theorem modPart_dies (c : Nat) (f : Part → Part) : (s.modPart c f).dies = s.dies := rfl
@[simp] theorem modPart_fw (c : Nat) (f : Part → Part) : (s.modPart c f).fw = s.fw := rfl
@[simp] theorem modPart_clock (c : Nat) (f : Part → Part) : (s.modPart c f).clock = s.clock := rfl
@[simp] theorem modPart_turn (c : Nat) (f : Part → Part) : (s.modPart c f).turn = s.turn := rfl
@[simp] theorem modPart_agenda (c : Nat) (f : Part → Part) : (s.modPart c f).agenda = s.agenda := rfl
@[simp] theorem modPart_free (c : Nat) (f : Part → Part) : (s.modPart c f).free = s.free := rfl
@[simp] theorem modPart_nextId (c : Nat) (f : Part → Part) : (s.modPart c f).nextId = s.nextId := rfl

/-! ### `modLaunch` -/

@[simp] theorem modLaunch_mem (c : Nat) (f : Launch → Launch) : (s.modLaunch c f).mem = s.mem := rfl
@[simp] theorem modLaunch_tasks (c : Nat) (f : Launch → Launch) : (s.modLaunch c f).tasks = s.tasks := rfl
@[simp] theorem modLaunch_pcores (c : Nat) (f : Launch → Launch) : (s.modLaunch c f).pcores = s.pcores := rfl
@[simp] theorem modLaunch_lcores (c : Nat) (f : Launch → Launch) : (s.modLaunch c f).lcores = s.lcores := rfl
@[simp] theorem modLaunch_pquads (c : Nat) (f : Launch → Launch) : (s.modLaunch c f).pquads = s.pquads := rfl
@[simp] theorem modLaunch_lquads (c : Nat) (f : Launch → Launch) : (s.modLaunch c f).lquads = s.lquads := rfl
@[simp] theorem modLaunch_pnodes (c : Nat) (f : Launch → Launch) : (s.modLaunch c f).pnodes = s.pnodes := rfl
@[simp] theorem modLaunch_lnodes (c : Nat) (f : Launch → Launch) : (s.modLaunch c f).lnodes = s.lnodes := rfl
@[simp] theorem modLaunch_parts (c : Nat) (f : Launch → Launch) : (s.modLaunch c f).parts = s.parts := rfl
@[simp] theorem modLaunch_launches (c : Nat) (f : Launch → Launch) : (s.modLaunch c f).launches = s.launches.set c (f (s.launch c)) := rfl
@[simp] theorem modLaunch_monitors (c : Nat) (f : Launch → Launch) : (s.modLaunch c f).monitors = s.monitors := rfl
@[simp] theorem modLaunch_resvs (c : Nat) (f : Launch → Launch) : (s.modLaunch c f).resvs = s.resvs := rfl
@[simp] theorem modLaunch_binds (c : Nat) (f : Launch → Launch) : (s.modLaunch c f).binds = s.binds := rfl
@[simp] theorem modLaunch_marks (c : Nat) (f : Launch → Launch) : (s.modLaunch c f).marks = s.marks := rfl
@[simp] theorem modLaunch_parked (c : Nat) (f : Launch → Launch) : (s.modLaunch c f).parked = s.parked := rfl
@[simp] theorem modLaunch_chans (c : Nat) (f : Launch → Launch) : (s.modLaunch c f).chans = s.chans := rfl
@[simp] theorem modLaunch_pps (c : Nat) (f : Launch → Launch) : (s.modLaunch c f).pps = s.pps := rfl
@[simp] theorem modLaunch_colls (c : Nat) (f : Launch → Launch) : (s.modLaunch c f).colls = s.colls := rfl
@[simp] theorem modLaunch_queues (c : Nat) (f : Launch → Launch) : (s.modLaunch c f).queues = s.queues := rfl
@[simp] theorem modLaunch_bar2 (c : Nat) (f : Launch → Launch) : (s.modLaunch c f).bar2 = s.bar2 := rfl
@[simp] theorem modLaunch_dies (c : Nat) (f : Launch → Launch) : (s.modLaunch c f).dies = s.dies := rfl
@[simp] theorem modLaunch_fw (c : Nat) (f : Launch → Launch) : (s.modLaunch c f).fw = s.fw := rfl
@[simp] theorem modLaunch_clock (c : Nat) (f : Launch → Launch) : (s.modLaunch c f).clock = s.clock := rfl
@[simp] theorem modLaunch_turn (c : Nat) (f : Launch → Launch) : (s.modLaunch c f).turn = s.turn := rfl
@[simp] theorem modLaunch_agenda (c : Nat) (f : Launch → Launch) : (s.modLaunch c f).agenda = s.agenda := rfl
@[simp] theorem modLaunch_free (c : Nat) (f : Launch → Launch) : (s.modLaunch c f).free = s.free := rfl
@[simp] theorem modLaunch_nextId (c : Nat) (f : Launch → Launch) : (s.modLaunch c f).nextId = s.nextId := rfl

/-! ### `modQueue` -/

@[simp] theorem modQueue_mem (c : Nat) (f : HQueue → HQueue) : (s.modQueue c f).mem = s.mem := rfl
@[simp] theorem modQueue_tasks (c : Nat) (f : HQueue → HQueue) : (s.modQueue c f).tasks = s.tasks := rfl
@[simp] theorem modQueue_pcores (c : Nat) (f : HQueue → HQueue) : (s.modQueue c f).pcores = s.pcores := rfl
@[simp] theorem modQueue_lcores (c : Nat) (f : HQueue → HQueue) : (s.modQueue c f).lcores = s.lcores := rfl
@[simp] theorem modQueue_pquads (c : Nat) (f : HQueue → HQueue) : (s.modQueue c f).pquads = s.pquads := rfl
@[simp] theorem modQueue_lquads (c : Nat) (f : HQueue → HQueue) : (s.modQueue c f).lquads = s.lquads := rfl
@[simp] theorem modQueue_pnodes (c : Nat) (f : HQueue → HQueue) : (s.modQueue c f).pnodes = s.pnodes := rfl
@[simp] theorem modQueue_lnodes (c : Nat) (f : HQueue → HQueue) : (s.modQueue c f).lnodes = s.lnodes := rfl
@[simp] theorem modQueue_parts (c : Nat) (f : HQueue → HQueue) : (s.modQueue c f).parts = s.parts := rfl
@[simp] theorem modQueue_launches (c : Nat) (f : HQueue → HQueue) : (s.modQueue c f).launches = s.launches := rfl
@[simp] theorem modQueue_monitors (c : Nat) (f : HQueue → HQueue) : (s.modQueue c f).monitors = s.monitors := rfl
@[simp] theorem modQueue_resvs (c : Nat) (f : HQueue → HQueue) : (s.modQueue c f).resvs = s.resvs := rfl
@[simp] theorem modQueue_binds (c : Nat) (f : HQueue → HQueue) : (s.modQueue c f).binds = s.binds := rfl
@[simp] theorem modQueue_marks (c : Nat) (f : HQueue → HQueue) : (s.modQueue c f).marks = s.marks := rfl
@[simp] theorem modQueue_parked (c : Nat) (f : HQueue → HQueue) : (s.modQueue c f).parked = s.parked := rfl
@[simp] theorem modQueue_chans (c : Nat) (f : HQueue → HQueue) : (s.modQueue c f).chans = s.chans := rfl
@[simp] theorem modQueue_pps (c : Nat) (f : HQueue → HQueue) : (s.modQueue c f).pps = s.pps := rfl
@[simp] theorem modQueue_colls (c : Nat) (f : HQueue → HQueue) : (s.modQueue c f).colls = s.colls := rfl
@[simp] theorem modQueue_queues (c : Nat) (f : HQueue → HQueue) : (s.modQueue c f).queues = s.queues.set c (f (s.queue c)) := rfl
@[simp] theorem modQueue_bar2 (c : Nat) (f : HQueue → HQueue) : (s.modQueue c f).bar2 = s.bar2 := rfl
@[simp] theorem modQueue_dies (c : Nat) (f : HQueue → HQueue) : (s.modQueue c f).dies = s.dies := rfl
@[simp] theorem modQueue_fw (c : Nat) (f : HQueue → HQueue) : (s.modQueue c f).fw = s.fw := rfl
@[simp] theorem modQueue_clock (c : Nat) (f : HQueue → HQueue) : (s.modQueue c f).clock = s.clock := rfl
@[simp] theorem modQueue_turn (c : Nat) (f : HQueue → HQueue) : (s.modQueue c f).turn = s.turn := rfl
@[simp] theorem modQueue_agenda (c : Nat) (f : HQueue → HQueue) : (s.modQueue c f).agenda = s.agenda := rfl
@[simp] theorem modQueue_free (c : Nat) (f : HQueue → HQueue) : (s.modQueue c f).free = s.free := rfl
@[simp] theorem modQueue_nextId (c : Nat) (f : HQueue → HQueue) : (s.modQueue c f).nextId = s.nextId := rfl

/-! ### `modDie` -/

@[simp] theorem modDie_mem (c : Nat) (f : Die → Die) : (s.modDie c f).mem = s.mem := rfl
@[simp] theorem modDie_tasks (c : Nat) (f : Die → Die) : (s.modDie c f).tasks = s.tasks := rfl
@[simp] theorem modDie_pcores (c : Nat) (f : Die → Die) : (s.modDie c f).pcores = s.pcores := rfl
@[simp] theorem modDie_lcores (c : Nat) (f : Die → Die) : (s.modDie c f).lcores = s.lcores := rfl
@[simp] theorem modDie_pquads (c : Nat) (f : Die → Die) : (s.modDie c f).pquads = s.pquads := rfl
@[simp] theorem modDie_lquads (c : Nat) (f : Die → Die) : (s.modDie c f).lquads = s.lquads := rfl
@[simp] theorem modDie_pnodes (c : Nat) (f : Die → Die) : (s.modDie c f).pnodes = s.pnodes := rfl
@[simp] theorem modDie_lnodes (c : Nat) (f : Die → Die) : (s.modDie c f).lnodes = s.lnodes := rfl
@[simp] theorem modDie_parts (c : Nat) (f : Die → Die) : (s.modDie c f).parts = s.parts := rfl
@[simp] theorem modDie_launches (c : Nat) (f : Die → Die) : (s.modDie c f).launches = s.launches := rfl
@[simp] theorem modDie_monitors (c : Nat) (f : Die → Die) : (s.modDie c f).monitors = s.monitors := rfl
@[simp] theorem modDie_resvs (c : Nat) (f : Die → Die) : (s.modDie c f).resvs = s.resvs := rfl
@[simp] theorem modDie_binds (c : Nat) (f : Die → Die) : (s.modDie c f).binds = s.binds := rfl
@[simp] theorem modDie_marks (c : Nat) (f : Die → Die) : (s.modDie c f).marks = s.marks := rfl
@[simp] theorem modDie_parked (c : Nat) (f : Die → Die) : (s.modDie c f).parked = s.parked := rfl
@[simp] theorem modDie_chans (c : Nat) (f : Die → Die) : (s.modDie c f).chans = s.chans := rfl
@[simp] theorem modDie_pps (c : Nat) (f : Die → Die) : (s.modDie c f).pps = s.pps := rfl
@[simp] theorem modDie_colls (c : Nat) (f : Die → Die) : (s.modDie c f).colls = s.colls := rfl
@[simp] theorem modDie_queues (c : Nat) (f : Die → Die) : (s.modDie c f).queues = s.queues := rfl
@[simp] theorem modDie_bar2 (c : Nat) (f : Die → Die) : (s.modDie c f).bar2 = s.bar2 := rfl
@[simp] theorem modDie_dies (c : Nat) (f : Die → Die) : (s.modDie c f).dies = s.dies.set c (f (s.die c)) := rfl
@[simp] theorem modDie_fw (c : Nat) (f : Die → Die) : (s.modDie c f).fw = s.fw := rfl
@[simp] theorem modDie_clock (c : Nat) (f : Die → Die) : (s.modDie c f).clock = s.clock := rfl
@[simp] theorem modDie_turn (c : Nat) (f : Die → Die) : (s.modDie c f).turn = s.turn := rfl
@[simp] theorem modDie_agenda (c : Nat) (f : Die → Die) : (s.modDie c f).agenda = s.agenda := rfl
@[simp] theorem modDie_free (c : Nat) (f : Die → Die) : (s.modDie c f).free = s.free := rfl
@[simp] theorem modDie_nextId (c : Nat) (f : Die → Die) : (s.modDie c f).nextId = s.nextId := rfl

/-! ### `push` -/

@[simp] theorem push_mem (i : Instr) : (s.push i).mem = s.mem := rfl
@[simp] theorem push_tasks (i : Instr) : (s.push i).tasks = s.tasks := rfl
@[simp] theorem push_pcores (i : Instr) : (s.push i).pcores = s.pcores := rfl
@[simp] theorem push_lcores (i : Instr) : (s.push i).lcores = s.lcores := rfl
@[simp] theorem push_pquads (i : Instr) : (s.push i).pquads = s.pquads := rfl
@[simp] theorem push_lquads (i : Instr) : (s.push i).lquads = s.lquads := rfl
@[simp] theorem push_pnodes (i : Instr) : (s.push i).pnodes = s.pnodes := rfl
@[simp] theorem push_lnodes (i : Instr) : (s.push i).lnodes = s.lnodes := rfl
@[simp] theorem push_parts (i : Instr) : (s.push i).parts = s.parts := rfl
@[simp] theorem push_launches (i : Instr) : (s.push i).launches = s.launches := rfl
@[simp] theorem push_monitors (i : Instr) : (s.push i).monitors = s.monitors := rfl
@[simp] theorem push_resvs (i : Instr) : (s.push i).resvs = s.resvs := rfl
@[simp] theorem push_binds (i : Instr) : (s.push i).binds = s.binds := rfl
@[simp] theorem push_marks (i : Instr) : (s.push i).marks = s.marks := rfl
@[simp] theorem push_parked (i : Instr) : (s.push i).parked = s.parked := rfl
@[simp] theorem push_chans (i : Instr) : (s.push i).chans = s.chans := rfl
@[simp] theorem push_pps (i : Instr) : (s.push i).pps = s.pps := rfl
@[simp] theorem push_colls (i : Instr) : (s.push i).colls = s.colls := rfl
@[simp] theorem push_queues (i : Instr) : (s.push i).queues = s.queues := rfl
@[simp] theorem push_bar2 (i : Instr) : (s.push i).bar2 = s.bar2 := rfl
@[simp] theorem push_dies (i : Instr) : (s.push i).dies = s.dies := rfl
@[simp] theorem push_fw (i : Instr) : (s.push i).fw = s.fw := rfl
@[simp] theorem push_clock (i : Instr) : (s.push i).clock = s.clock := rfl
@[simp] theorem push_turn (i : Instr) : (s.push i).turn = s.turn := rfl
@[simp] theorem push_agenda (i : Instr) : (s.push i).agenda = s.agenda ++ [i] := rfl
@[simp] theorem push_free (i : Instr) : (s.push i).free = s.free := rfl
@[simp] theorem push_nextId (i : Instr) : (s.push i).nextId = s.nextId := rfl

/-! ### `pushAll` -/

@[simp] theorem pushAll_mem (l : List Instr) : (s.pushAll l).mem = s.mem := rfl
@[simp] theorem pushAll_tasks (l : List Instr) : (s.pushAll l).tasks = s.tasks := rfl
@[simp] theorem pushAll_pcores (l : List Instr) : (s.pushAll l).pcores = s.pcores := rfl
@[simp] theorem pushAll_lcores (l : List Instr) : (s.pushAll l).lcores = s.lcores := rfl
@[simp] theorem pushAll_pquads (l : List Instr) : (s.pushAll l).pquads = s.pquads := rfl
@[simp] theorem pushAll_lquads (l : List Instr) : (s.pushAll l).lquads = s.lquads := rfl
@[simp] theorem pushAll_pnodes (l : List Instr) : (s.pushAll l).pnodes = s.pnodes := rfl
@[simp] theorem pushAll_lnodes (l : List Instr) : (s.pushAll l).lnodes = s.lnodes := rfl
@[simp] theorem pushAll_parts (l : List Instr) : (s.pushAll l).parts = s.parts := rfl
@[simp] theorem pushAll_launches (l : List Instr) : (s.pushAll l).launches = s.launches := rfl
@[simp] theorem pushAll_monitors (l : List Instr) : (s.pushAll l).monitors = s.monitors := rfl
@[simp] theorem pushAll_resvs (l : List Instr) : (s.pushAll l).resvs = s.resvs := rfl
@[simp] theorem pushAll_binds (l : List Instr) : (s.pushAll l).binds = s.binds := rfl
@[simp] theorem pushAll_marks (l : List Instr) : (s.pushAll l).marks = s.marks := rfl
@[simp] theorem pushAll_parked (l : List Instr) : (s.pushAll l).parked = s.parked := rfl
@[simp] theorem pushAll_chans (l : List Instr) : (s.pushAll l).chans = s.chans := rfl
@[simp] theorem pushAll_pps (l : List Instr) : (s.pushAll l).pps = s.pps := rfl
@[simp] theorem pushAll_colls (l : List Instr) : (s.pushAll l).colls = s.colls := rfl
@[simp] theorem pushAll_queues (l : List Instr) : (s.pushAll l).queues = s.queues := rfl
@[simp] theorem pushAll_bar2 (l : List Instr) : (s.pushAll l).bar2 = s.bar2 := rfl
@[simp] theorem pushAll_dies (l : List Instr) : (s.pushAll l).dies = s.dies := rfl
@[simp] theorem pushAll_fw (l : List Instr) : (s.pushAll l).fw = s.fw := rfl
@[simp] theorem pushAll_clock (l : List Instr) : (s.pushAll l).clock = s.clock := rfl
@[simp] theorem pushAll_turn (l : List Instr) : (s.pushAll l).turn = s.turn := rfl
@[simp] theorem pushAll_agenda (l : List Instr) : (s.pushAll l).agenda = s.agenda ++ l := rfl
@[simp] theorem pushAll_free (l : List Instr) : (s.pushAll l).free = s.free := rfl
@[simp] theorem pushAll_nextId (l : List Instr) : (s.pushAll l).nextId = s.nextId := rfl

/-! ### `putBack` -/

@[simp] theorem putBack_mem (i : Instr) : (s.putBack i).mem = s.mem := rfl
@[simp] theorem putBack_tasks (i : Instr) : (s.putBack i).tasks = s.tasks := rfl
@[simp] theorem putBack_pcores (i : Instr) : (s.putBack i).pcores = s.pcores := rfl
@[simp] theorem putBack_lcores (i : Instr) : (s.putBack i).lcores = s.lcores := rfl
@[simp] theorem putBack_pquads (i : Instr) : (s.putBack i).pquads = s.pquads := rfl
@[simp] theorem putBack_lquads (i : Instr) : (s.putBack i).lquads = s.lquads := rfl
@[simp] theorem putBack_pnodes (i : Instr) : (s.putBack i).pnodes = s.pnodes := rfl
@[simp] theorem putBack_lnodes (i : Instr) : (s.putBack i).lnodes = s.lnodes := rfl
@[simp] theorem putBack_parts (i : Instr) : (s.putBack i).parts = s.parts := rfl
@[simp] theorem putBack_launches (i : Instr) : (s.putBack i).launches = s.launches := rfl
@[simp] theorem putBack_monitors (i : Instr) : (s.putBack i).monitors = s.monitors := rfl
@[simp] theorem putBack_resvs (i : Instr) : (s.putBack i).resvs = s.resvs := rfl
@[simp] theorem putBack_binds (i : Instr) : (s.putBack i).binds = s.binds := rfl
@[simp] theorem putBack_marks (i : Instr) : (s.putBack i).marks = s.marks := rfl
@[simp] theorem putBack_parked (i : Instr) : (s.putBack i).parked = s.parked := rfl
@[simp] theorem putBack_chans (i : Instr) : (s.putBack i).chans = s.chans := rfl
@[simp] theorem putBack_pps (i : Instr) : (s.putBack i).pps = s.pps := rfl
@[simp] theorem putBack_colls (i : Instr) : (s.putBack i).colls = s.colls := rfl
@[simp] theorem putBack_queues (i : Instr) : (s.putBack i).queues = s.queues := rfl
@[simp] theorem putBack_bar2 (i : Instr) : (s.putBack i).bar2 = s.bar2 := rfl
@[simp] theorem putBack_dies (i : Instr) : (s.putBack i).dies = s.dies := rfl
@[simp] theorem putBack_fw (i : Instr) : (s.putBack i).fw = s.fw := rfl
@[simp] theorem putBack_clock (i : Instr) : (s.putBack i).clock = s.clock := rfl
@[simp] theorem putBack_turn (i : Instr) : (s.putBack i).turn = s.turn := rfl
@[simp] theorem putBack_agenda (i : Instr) : (s.putBack i).agenda = i :: s.agenda := rfl
@[simp] theorem putBack_free (i : Instr) : (s.putBack i).free = s.free := rfl
@[simp] theorem putBack_nextId (i : Instr) : (s.putBack i).nextId = s.nextId := rfl

/-! ### `drop` -/

@[simp] theorem drop_mem (p : Instr → Bool) : (s.drop p).mem = s.mem := rfl
@[simp] theorem drop_tasks (p : Instr → Bool) : (s.drop p).tasks = s.tasks := rfl
@[simp] theorem drop_pcores (p : Instr → Bool) : (s.drop p).pcores = s.pcores := rfl
@[simp] theorem drop_lcores (p : Instr → Bool) : (s.drop p).lcores = s.lcores := rfl
@[simp] theorem drop_pquads (p : Instr → Bool) : (s.drop p).pquads = s.pquads := rfl
@[simp] theorem drop_lquads (p : Instr → Bool) : (s.drop p).lquads = s.lquads := rfl
@[simp] theorem drop_pnodes (p : Instr → Bool) : (s.drop p).pnodes = s.pnodes := rfl
@[simp] theorem drop_lnodes (p : Instr → Bool) : (s.drop p).lnodes = s.lnodes := rfl
@[simp] theorem drop_parts (p : Instr → Bool) : (s.drop p).parts = s.parts := rfl
@[simp] theorem drop_launches (p : Instr → Bool) : (s.drop p).launches = s.launches := rfl
@[simp] theorem drop_monitors (p : Instr → Bool) : (s.drop p).monitors = s.monitors := rfl
@[simp] theorem drop_resvs (p : Instr → Bool) : (s.drop p).resvs = s.resvs := rfl
@[simp] theorem drop_binds (p : Instr → Bool) : (s.drop p).binds = s.binds := rfl
@[simp] theorem drop_marks (p : Instr → Bool) : (s.drop p).marks = s.marks := rfl
@[simp] theorem drop_parked (p : Instr → Bool) : (s.drop p).parked = s.parked := rfl
@[simp] theorem drop_chans (p : Instr → Bool) : (s.drop p).chans = s.chans := rfl
@[simp] theorem drop_pps (p : Instr → Bool) : (s.drop p).pps = s.pps := rfl
@[simp] theorem drop_colls (p : Instr → Bool) : (s.drop p).colls = s.colls := rfl
@[simp] theorem drop_queues (p : Instr → Bool) : (s.drop p).queues = s.queues := rfl
@[simp] theorem drop_bar2 (p : Instr → Bool) : (s.drop p).bar2 = s.bar2 := rfl
@[simp] theorem drop_dies (p : Instr → Bool) : (s.drop p).dies = s.dies := rfl
@[simp] theorem drop_fw (p : Instr → Bool) : (s.drop p).fw = s.fw := rfl
@[simp] theorem drop_clock (p : Instr → Bool) : (s.drop p).clock = s.clock := rfl
@[simp] theorem drop_turn (p : Instr → Bool) : (s.drop p).turn = s.turn := rfl
@[simp] theorem drop_agenda (p : Instr → Bool) : (s.drop p).agenda = s.agenda.filter (fun i => !p i) := rfl
@[simp] theorem drop_free (p : Instr → Bool) : (s.drop p).free = s.free := rfl
@[simp] theorem drop_nextId (p : Instr → Bool) : (s.drop p).nextId = s.nextId := rfl

/-! ### `drew` -/

@[simp] theorem drew_mem : (s.drew).mem = s.mem := rfl
@[simp] theorem drew_tasks : (s.drew).tasks = s.tasks := rfl
@[simp] theorem drew_pcores : (s.drew).pcores = s.pcores := rfl
@[simp] theorem drew_lcores : (s.drew).lcores = s.lcores := rfl
@[simp] theorem drew_pquads : (s.drew).pquads = s.pquads := rfl
@[simp] theorem drew_lquads : (s.drew).lquads = s.lquads := rfl
@[simp] theorem drew_pnodes : (s.drew).pnodes = s.pnodes := rfl
@[simp] theorem drew_lnodes : (s.drew).lnodes = s.lnodes := rfl
@[simp] theorem drew_parts : (s.drew).parts = s.parts := rfl
@[simp] theorem drew_launches : (s.drew).launches = s.launches := rfl
@[simp] theorem drew_monitors : (s.drew).monitors = s.monitors := rfl
@[simp] theorem drew_resvs : (s.drew).resvs = s.resvs := rfl
@[simp] theorem drew_binds : (s.drew).binds = s.binds := rfl
@[simp] theorem drew_marks : (s.drew).marks = s.marks := rfl
@[simp] theorem drew_parked : (s.drew).parked = s.parked := rfl
@[simp] theorem drew_chans : (s.drew).chans = s.chans := rfl
@[simp] theorem drew_pps : (s.drew).pps = s.pps := rfl
@[simp] theorem drew_colls : (s.drew).colls = s.colls := rfl
@[simp] theorem drew_queues : (s.drew).queues = s.queues := rfl
@[simp] theorem drew_bar2 : (s.drew).bar2 = s.bar2 := rfl
@[simp] theorem drew_dies : (s.drew).dies = s.dies := rfl
@[simp] theorem drew_fw : (s.drew).fw = s.fw := rfl
@[simp] theorem drew_clock : (s.drew).clock = s.clock := rfl
@[simp] theorem drew_turn : (s.drew).turn = s.turn := rfl
@[simp] theorem drew_agenda : (s.drew).agenda = s.agenda := rfl
@[simp] theorem drew_free : (s.drew).free = s.free + 1 := rfl
@[simp] theorem drew_nextId : (s.drew).nextId = s.nextId := rfl

/-! ### `bumpId` -/

@[simp] theorem bumpId_mem : (s.bumpId).mem = s.mem := rfl
@[simp] theorem bumpId_tasks : (s.bumpId).tasks = s.tasks := rfl
@[simp] theorem bumpId_pcores : (s.bumpId).pcores = s.pcores := rfl
@[simp] theorem bumpId_lcores : (s.bumpId).lcores = s.lcores := rfl
@[simp] theorem bumpId_pquads : (s.bumpId).pquads = s.pquads := rfl
@[simp] theorem bumpId_lquads : (s.bumpId).lquads = s.lquads := rfl
@[simp] theorem bumpId_pnodes : (s.bumpId).pnodes = s.pnodes := rfl
@[simp] theorem bumpId_lnodes : (s.bumpId).lnodes = s.lnodes := rfl
@[simp] theorem bumpId_parts : (s.bumpId).parts = s.parts := rfl
@[simp] theorem bumpId_launches : (s.bumpId).launches = s.launches := rfl
@[simp] theorem bumpId_monitors : (s.bumpId).monitors = s.monitors := rfl
@[simp] theorem bumpId_resvs : (s.bumpId).resvs = s.resvs := rfl
@[simp] theorem bumpId_binds : (s.bumpId).binds = s.binds := rfl
@[simp] theorem bumpId_marks : (s.bumpId).marks = s.marks := rfl
@[simp] theorem bumpId_parked : (s.bumpId).parked = s.parked := rfl
@[simp] theorem bumpId_chans : (s.bumpId).chans = s.chans := rfl
@[simp] theorem bumpId_pps : (s.bumpId).pps = s.pps := rfl
@[simp] theorem bumpId_colls : (s.bumpId).colls = s.colls := rfl
@[simp] theorem bumpId_queues : (s.bumpId).queues = s.queues := rfl
@[simp] theorem bumpId_bar2 : (s.bumpId).bar2 = s.bar2 := rfl
@[simp] theorem bumpId_dies : (s.bumpId).dies = s.dies := rfl
@[simp] theorem bumpId_fw : (s.bumpId).fw = s.fw := rfl
@[simp] theorem bumpId_clock : (s.bumpId).clock = s.clock := rfl
@[simp] theorem bumpId_turn : (s.bumpId).turn = s.turn := rfl
@[simp] theorem bumpId_agenda : (s.bumpId).agenda = s.agenda := rfl
@[simp] theorem bumpId_free : (s.bumpId).free = s.free := rfl
@[simp] theorem bumpId_nextId : (s.bumpId).nextId = s.nextId + 1 := rfl

/-! ### `putByte` -/

@[simp] theorem putByte_mem (a : Nat) (b : Byte) : (s.putByte a b).mem = s.mem.put 0 a b := rfl
@[simp] theorem putByte_tasks (a : Nat) (b : Byte) : (s.putByte a b).tasks = s.tasks := rfl
@[simp] theorem putByte_pcores (a : Nat) (b : Byte) : (s.putByte a b).pcores = s.pcores := rfl
@[simp] theorem putByte_lcores (a : Nat) (b : Byte) : (s.putByte a b).lcores = s.lcores := rfl
@[simp] theorem putByte_pquads (a : Nat) (b : Byte) : (s.putByte a b).pquads = s.pquads := rfl
@[simp] theorem putByte_lquads (a : Nat) (b : Byte) : (s.putByte a b).lquads = s.lquads := rfl
@[simp] theorem putByte_pnodes (a : Nat) (b : Byte) : (s.putByte a b).pnodes = s.pnodes := rfl
@[simp] theorem putByte_lnodes (a : Nat) (b : Byte) : (s.putByte a b).lnodes = s.lnodes := rfl
@[simp] theorem putByte_parts (a : Nat) (b : Byte) : (s.putByte a b).parts = s.parts := rfl
@[simp] theorem putByte_launches (a : Nat) (b : Byte) : (s.putByte a b).launches = s.launches := rfl
@[simp] theorem putByte_monitors (a : Nat) (b : Byte) : (s.putByte a b).monitors = s.monitors := rfl
@[simp] theorem putByte_resvs (a : Nat) (b : Byte) : (s.putByte a b).resvs = s.resvs := rfl
@[simp] theorem putByte_binds (a : Nat) (b : Byte) : (s.putByte a b).binds = s.binds := rfl
@[simp] theorem putByte_marks (a : Nat) (b : Byte) : (s.putByte a b).marks = s.marks := rfl
@[simp] theorem putByte_parked (a : Nat) (b : Byte) : (s.putByte a b).parked = s.parked := rfl
@[simp] theorem putByte_chans (a : Nat) (b : Byte) : (s.putByte a b).chans = s.chans := rfl
@[simp] theorem putByte_pps (a : Nat) (b : Byte) : (s.putByte a b).pps = s.pps := rfl
@[simp] theorem putByte_colls (a : Nat) (b : Byte) : (s.putByte a b).colls = s.colls := rfl
@[simp] theorem putByte_queues (a : Nat) (b : Byte) : (s.putByte a b).queues = s.queues := rfl
@[simp] theorem putByte_bar2 (a : Nat) (b : Byte) : (s.putByte a b).bar2 = s.bar2 := rfl
@[simp] theorem putByte_dies (a : Nat) (b : Byte) : (s.putByte a b).dies = s.dies := rfl
@[simp] theorem putByte_fw (a : Nat) (b : Byte) : (s.putByte a b).fw = s.fw := rfl
@[simp] theorem putByte_clock (a : Nat) (b : Byte) : (s.putByte a b).clock = s.clock := rfl
@[simp] theorem putByte_turn (a : Nat) (b : Byte) : (s.putByte a b).turn = s.turn := rfl
@[simp] theorem putByte_agenda (a : Nat) (b : Byte) : (s.putByte a b).agenda = s.agenda := rfl
@[simp] theorem putByte_free (a : Nat) (b : Byte) : (s.putByte a b).free = s.free := rfl
@[simp] theorem putByte_nextId (a : Nat) (b : Byte) : (s.putByte a b).nextId = s.nextId := rfl

/-! ### `putCells` -/

@[simp] theorem putCells_mem (l : List (Nat × Byte)) : (s.putCells l).mem = l.foldl (fun m c => m.put 0 c.1 c.2) s.mem := rfl
@[simp] theorem putCells_tasks (l : List (Nat × Byte)) : (s.putCells l).tasks = s.tasks := rfl
@[simp] theorem putCells_pcores (l : List (Nat × Byte)) : (s.putCells l).pcores = s.pcores := rfl
@[simp] theorem putCells_lcores (l : List (Nat × Byte)) : (s.putCells l).lcores = s.lcores := rfl
@[simp] theorem putCells_pquads (l : List (Nat × Byte)) : (s.putCells l).pquads = s.pquads := rfl
@[simp] theorem putCells_lquads (l : List (Nat × Byte)) : (s.putCells l).lquads = s.lquads := rfl
@[simp] theorem putCells_pnodes (l : List (Nat × Byte)) : (s.putCells l).pnodes = s.pnodes := rfl
@[simp] theorem putCells_lnodes (l : List (Nat × Byte)) : (s.putCells l).lnodes = s.lnodes := rfl
@[simp] theorem putCells_parts (l : List (Nat × Byte)) : (s.putCells l).parts = s.parts := rfl
@[simp] theorem putCells_launches (l : List (Nat × Byte)) : (s.putCells l).launches = s.launches := rfl
@[simp] theorem putCells_monitors (l : List (Nat × Byte)) : (s.putCells l).monitors = s.monitors := rfl
@[simp] theorem putCells_resvs (l : List (Nat × Byte)) : (s.putCells l).resvs = s.resvs := rfl
@[simp] theorem putCells_binds (l : List (Nat × Byte)) : (s.putCells l).binds = s.binds := rfl
@[simp] theorem putCells_marks (l : List (Nat × Byte)) : (s.putCells l).marks = s.marks := rfl
@[simp] theorem putCells_parked (l : List (Nat × Byte)) : (s.putCells l).parked = s.parked := rfl
@[simp] theorem putCells_chans (l : List (Nat × Byte)) : (s.putCells l).chans = s.chans := rfl
@[simp] theorem putCells_pps (l : List (Nat × Byte)) : (s.putCells l).pps = s.pps := rfl
@[simp] theorem putCells_colls (l : List (Nat × Byte)) : (s.putCells l).colls = s.colls := rfl
@[simp] theorem putCells_queues (l : List (Nat × Byte)) : (s.putCells l).queues = s.queues := rfl
@[simp] theorem putCells_bar2 (l : List (Nat × Byte)) : (s.putCells l).bar2 = s.bar2 := rfl
@[simp] theorem putCells_dies (l : List (Nat × Byte)) : (s.putCells l).dies = s.dies := rfl
@[simp] theorem putCells_fw (l : List (Nat × Byte)) : (s.putCells l).fw = s.fw := rfl
@[simp] theorem putCells_clock (l : List (Nat × Byte)) : (s.putCells l).clock = s.clock := rfl
@[simp] theorem putCells_turn (l : List (Nat × Byte)) : (s.putCells l).turn = s.turn := rfl
@[simp] theorem putCells_agenda (l : List (Nat × Byte)) : (s.putCells l).agenda = s.agenda := rfl
@[simp] theorem putCells_free (l : List (Nat × Byte)) : (s.putCells l).free = s.free := rfl
@[simp] theorem putCells_nextId (l : List (Nat × Byte)) : (s.putCells l).nextId = s.nextId := rfl

/-! ### `setSlot` -/

@[simp] theorem setSlot_mem (c i : Nat) (v : Slot) : (s.setSlot c i v).mem = s.mem := rfl
@[simp] theorem setSlot_tasks (c i : Nat) (v : Slot) : (s.setSlot c i v).tasks = s.tasks := rfl
@[simp] theorem setSlot_lcores (c i : Nat) (v : Slot) : (s.setSlot c i v).lcores = s.lcores := rfl
@[simp] theorem setSlot_pquads (c i : Nat) (v : Slot) : (s.setSlot c i v).pquads = s.pquads := rfl
@[simp] theorem setSlot_lquads (c i : Nat) (v : Slot) : (s.setSlot c i v).lquads = s.lquads := rfl
@[simp] theorem setSlot_pnodes (c i : Nat) (v : Slot) : (s.setSlot c i v).pnodes = s.pnodes := rfl
@[simp] theorem setSlot_lnodes (c i : Nat) (v : Slot) : (s.setSlot c i v).lnodes = s.lnodes := rfl
@[simp] theorem setSlot_parts (c i : Nat) (v : Slot) : (s.setSlot c i v).parts = s.parts := rfl
@[simp] theorem setSlot_launches (c i : Nat) (v : Slot) : (s.setSlot c i v).launches = s.launches := rfl
@[simp] theorem setSlot_monitors (c i : Nat) (v : Slot) : (s.setSlot c i v).monitors = s.monitors := rfl
@[simp] theorem setSlot_resvs (c i : Nat) (v : Slot) : (s.setSlot c i v).resvs = s.resvs := rfl
@[simp] theorem setSlot_binds (c i : Nat) (v : Slot) : (s.setSlot c i v).binds = s.binds := rfl
@[simp] theorem setSlot_marks (c i : Nat) (v : Slot) : (s.setSlot c i v).marks = s.marks := rfl
@[simp] theorem setSlot_parked (c i : Nat) (v : Slot) : (s.setSlot c i v).parked = s.parked := rfl
@[simp] theorem setSlot_chans (c i : Nat) (v : Slot) : (s.setSlot c i v).chans = s.chans := rfl
@[simp] theorem setSlot_pps (c i : Nat) (v : Slot) : (s.setSlot c i v).pps = s.pps := rfl
@[simp] theorem setSlot_colls (c i : Nat) (v : Slot) : (s.setSlot c i v).colls = s.colls := rfl
@[simp] theorem setSlot_queues (c i : Nat) (v : Slot) : (s.setSlot c i v).queues = s.queues := rfl
@[simp] theorem setSlot_bar2 (c i : Nat) (v : Slot) : (s.setSlot c i v).bar2 = s.bar2 := rfl
@[simp] theorem setSlot_dies (c i : Nat) (v : Slot) : (s.setSlot c i v).dies = s.dies := rfl
@[simp] theorem setSlot_fw (c i : Nat) (v : Slot) : (s.setSlot c i v).fw = s.fw := rfl
@[simp] theorem setSlot_clock (c i : Nat) (v : Slot) : (s.setSlot c i v).clock = s.clock := rfl
@[simp] theorem setSlot_turn (c i : Nat) (v : Slot) : (s.setSlot c i v).turn = s.turn := rfl
@[simp] theorem setSlot_agenda (c i : Nat) (v : Slot) : (s.setSlot c i v).agenda = s.agenda := rfl
@[simp] theorem setSlot_free (c i : Nat) (v : Slot) : (s.setSlot c i v).free = s.free := rfl
@[simp] theorem setSlot_nextId (c i : Nat) (v : Slot) : (s.setSlot c i v).nextId = s.nextId := rfl

/-! ### `putThread` -/

@[simp] theorem putThread_mem (c i : Nat) (t : Thread) : (s.putThread c i t).mem = s.mem := rfl
@[simp] theorem putThread_tasks (c i : Nat) (t : Thread) : (s.putThread c i t).tasks = s.tasks := rfl
@[simp] theorem putThread_lcores (c i : Nat) (t : Thread) : (s.putThread c i t).lcores = s.lcores := rfl
@[simp] theorem putThread_pquads (c i : Nat) (t : Thread) : (s.putThread c i t).pquads = s.pquads := rfl
@[simp] theorem putThread_lquads (c i : Nat) (t : Thread) : (s.putThread c i t).lquads = s.lquads := rfl
@[simp] theorem putThread_pnodes (c i : Nat) (t : Thread) : (s.putThread c i t).pnodes = s.pnodes := rfl
@[simp] theorem putThread_lnodes (c i : Nat) (t : Thread) : (s.putThread c i t).lnodes = s.lnodes := rfl
@[simp] theorem putThread_parts (c i : Nat) (t : Thread) : (s.putThread c i t).parts = s.parts := rfl
@[simp] theorem putThread_launches (c i : Nat) (t : Thread) : (s.putThread c i t).launches = s.launches := rfl
@[simp] theorem putThread_monitors (c i : Nat) (t : Thread) : (s.putThread c i t).monitors = s.monitors := rfl
@[simp] theorem putThread_resvs (c i : Nat) (t : Thread) : (s.putThread c i t).resvs = s.resvs := rfl
@[simp] theorem putThread_binds (c i : Nat) (t : Thread) : (s.putThread c i t).binds = s.binds := rfl
@[simp] theorem putThread_marks (c i : Nat) (t : Thread) : (s.putThread c i t).marks = s.marks := rfl
@[simp] theorem putThread_parked (c i : Nat) (t : Thread) : (s.putThread c i t).parked = s.parked := rfl
@[simp] theorem putThread_chans (c i : Nat) (t : Thread) : (s.putThread c i t).chans = s.chans := rfl
@[simp] theorem putThread_pps (c i : Nat) (t : Thread) : (s.putThread c i t).pps = s.pps := rfl
@[simp] theorem putThread_colls (c i : Nat) (t : Thread) : (s.putThread c i t).colls = s.colls := rfl
@[simp] theorem putThread_queues (c i : Nat) (t : Thread) : (s.putThread c i t).queues = s.queues := rfl
@[simp] theorem putThread_bar2 (c i : Nat) (t : Thread) : (s.putThread c i t).bar2 = s.bar2 := rfl
@[simp] theorem putThread_dies (c i : Nat) (t : Thread) : (s.putThread c i t).dies = s.dies := rfl
@[simp] theorem putThread_fw (c i : Nat) (t : Thread) : (s.putThread c i t).fw = s.fw := rfl
@[simp] theorem putThread_clock (c i : Nat) (t : Thread) : (s.putThread c i t).clock = s.clock := rfl
@[simp] theorem putThread_turn (c i : Nat) (t : Thread) : (s.putThread c i t).turn = s.turn := rfl
@[simp] theorem putThread_agenda (c i : Nat) (t : Thread) : (s.putThread c i t).agenda = s.agenda := rfl
@[simp] theorem putThread_free (c i : Nat) (t : Thread) : (s.putThread c i t).free = s.free := rfl
@[simp] theorem putThread_nextId (c i : Nat) (t : Thread) : (s.putThread c i t).nextId = s.nextId := rfl

/-! ### `freeSlot` -/

@[simp] theorem freeSlot_mem (c i : Nat) : (s.freeSlot c i).mem = s.mem := rfl
@[simp] theorem freeSlot_tasks (c i : Nat) : (s.freeSlot c i).tasks = s.tasks := rfl
@[simp] theorem freeSlot_lcores (c i : Nat) : (s.freeSlot c i).lcores = s.lcores := rfl
@[simp] theorem freeSlot_pquads (c i : Nat) : (s.freeSlot c i).pquads = s.pquads := rfl
@[simp] theorem freeSlot_lquads (c i : Nat) : (s.freeSlot c i).lquads = s.lquads := rfl
@[simp] theorem freeSlot_pnodes (c i : Nat) : (s.freeSlot c i).pnodes = s.pnodes := rfl
@[simp] theorem freeSlot_lnodes (c i : Nat) : (s.freeSlot c i).lnodes = s.lnodes := rfl
@[simp] theorem freeSlot_parts (c i : Nat) : (s.freeSlot c i).parts = s.parts := rfl
@[simp] theorem freeSlot_launches (c i : Nat) : (s.freeSlot c i).launches = s.launches := rfl
@[simp] theorem freeSlot_monitors (c i : Nat) : (s.freeSlot c i).monitors = s.monitors := rfl
@[simp] theorem freeSlot_resvs (c i : Nat) : (s.freeSlot c i).resvs = s.resvs := rfl
@[simp] theorem freeSlot_binds (c i : Nat) : (s.freeSlot c i).binds = s.binds := rfl
@[simp] theorem freeSlot_marks (c i : Nat) : (s.freeSlot c i).marks = s.marks := rfl
@[simp] theorem freeSlot_parked (c i : Nat) : (s.freeSlot c i).parked = s.parked := rfl
@[simp] theorem freeSlot_chans (c i : Nat) : (s.freeSlot c i).chans = s.chans := rfl
@[simp] theorem freeSlot_pps (c i : Nat) : (s.freeSlot c i).pps = s.pps := rfl
@[simp] theorem freeSlot_colls (c i : Nat) : (s.freeSlot c i).colls = s.colls := rfl
@[simp] theorem freeSlot_queues (c i : Nat) : (s.freeSlot c i).queues = s.queues := rfl
@[simp] theorem freeSlot_bar2 (c i : Nat) : (s.freeSlot c i).bar2 = s.bar2 := rfl
@[simp] theorem freeSlot_dies (c i : Nat) : (s.freeSlot c i).dies = s.dies := rfl
@[simp] theorem freeSlot_fw (c i : Nat) : (s.freeSlot c i).fw = s.fw := rfl
@[simp] theorem freeSlot_clock (c i : Nat) : (s.freeSlot c i).clock = s.clock := rfl
@[simp] theorem freeSlot_turn (c i : Nat) : (s.freeSlot c i).turn = s.turn := rfl
@[simp] theorem freeSlot_agenda (c i : Nat) : (s.freeSlot c i).agenda = s.agenda := rfl
@[simp] theorem freeSlot_free (c i : Nat) : (s.freeSlot c i).free = s.free := rfl
@[simp] theorem freeSlot_nextId (c i : Nat) : (s.freeSlot c i).nextId = s.nextId := rfl

/-! ### `putCur` -/

@[simp] theorem putCur_mem (t : Thread) : (s.putCur t).mem = s.mem := rfl
@[simp] theorem putCur_tasks (t : Thread) : (s.putCur t).tasks = s.tasks := rfl
@[simp] theorem putCur_lcores (t : Thread) : (s.putCur t).lcores = s.lcores := rfl
@[simp] theorem putCur_pquads (t : Thread) : (s.putCur t).pquads = s.pquads := rfl
@[simp] theorem putCur_lquads (t : Thread) : (s.putCur t).lquads = s.lquads := rfl
@[simp] theorem putCur_pnodes (t : Thread) : (s.putCur t).pnodes = s.pnodes := rfl
@[simp] theorem putCur_lnodes (t : Thread) : (s.putCur t).lnodes = s.lnodes := rfl
@[simp] theorem putCur_parts (t : Thread) : (s.putCur t).parts = s.parts := rfl
@[simp] theorem putCur_launches (t : Thread) : (s.putCur t).launches = s.launches := rfl
@[simp] theorem putCur_monitors (t : Thread) : (s.putCur t).monitors = s.monitors := rfl
@[simp] theorem putCur_resvs (t : Thread) : (s.putCur t).resvs = s.resvs := rfl
@[simp] theorem putCur_binds (t : Thread) : (s.putCur t).binds = s.binds := rfl
@[simp] theorem putCur_marks (t : Thread) : (s.putCur t).marks = s.marks := rfl
@[simp] theorem putCur_parked (t : Thread) : (s.putCur t).parked = s.parked := rfl
@[simp] theorem putCur_chans (t : Thread) : (s.putCur t).chans = s.chans := rfl
@[simp] theorem putCur_pps (t : Thread) : (s.putCur t).pps = s.pps := rfl
@[simp] theorem putCur_colls (t : Thread) : (s.putCur t).colls = s.colls := rfl
@[simp] theorem putCur_queues (t : Thread) : (s.putCur t).queues = s.queues := rfl
@[simp] theorem putCur_bar2 (t : Thread) : (s.putCur t).bar2 = s.bar2 := rfl
@[simp] theorem putCur_dies (t : Thread) : (s.putCur t).dies = s.dies := rfl
@[simp] theorem putCur_fw (t : Thread) : (s.putCur t).fw = s.fw := rfl
@[simp] theorem putCur_clock (t : Thread) : (s.putCur t).clock = s.clock := rfl
@[simp] theorem putCur_turn (t : Thread) : (s.putCur t).turn = s.turn := rfl
@[simp] theorem putCur_agenda (t : Thread) : (s.putCur t).agenda = s.agenda := rfl
@[simp] theorem putCur_free (t : Thread) : (s.putCur t).free = s.free := rfl
@[simp] theorem putCur_nextId (t : Thread) : (s.putCur t).nextId = s.nextId := rfl

/-! ### `retire` -/

@[simp] theorem retire_mem (t : Thread) : (s.retire t).mem = s.mem := rfl
@[simp] theorem retire_tasks (t : Thread) : (s.retire t).tasks = s.tasks := rfl
@[simp] theorem retire_lcores (t : Thread) : (s.retire t).lcores = s.lcores := rfl
@[simp] theorem retire_pquads (t : Thread) : (s.retire t).pquads = s.pquads := rfl
@[simp] theorem retire_lquads (t : Thread) : (s.retire t).lquads = s.lquads := rfl
@[simp] theorem retire_pnodes (t : Thread) : (s.retire t).pnodes = s.pnodes := rfl
@[simp] theorem retire_lnodes (t : Thread) : (s.retire t).lnodes = s.lnodes := rfl
@[simp] theorem retire_parts (t : Thread) : (s.retire t).parts = s.parts := rfl
@[simp] theorem retire_launches (t : Thread) : (s.retire t).launches = s.launches := rfl
@[simp] theorem retire_monitors (t : Thread) : (s.retire t).monitors = s.monitors := rfl
@[simp] theorem retire_resvs (t : Thread) : (s.retire t).resvs = s.resvs := rfl
@[simp] theorem retire_binds (t : Thread) : (s.retire t).binds = s.binds := rfl
@[simp] theorem retire_marks (t : Thread) : (s.retire t).marks = s.marks := rfl
@[simp] theorem retire_parked (t : Thread) : (s.retire t).parked = s.parked := rfl
@[simp] theorem retire_chans (t : Thread) : (s.retire t).chans = s.chans := rfl
@[simp] theorem retire_pps (t : Thread) : (s.retire t).pps = s.pps := rfl
@[simp] theorem retire_colls (t : Thread) : (s.retire t).colls = s.colls := rfl
@[simp] theorem retire_queues (t : Thread) : (s.retire t).queues = s.queues := rfl
@[simp] theorem retire_bar2 (t : Thread) : (s.retire t).bar2 = s.bar2 := rfl
@[simp] theorem retire_dies (t : Thread) : (s.retire t).dies = s.dies := rfl
@[simp] theorem retire_fw (t : Thread) : (s.retire t).fw = s.fw := rfl
@[simp] theorem retire_clock (t : Thread) : (s.retire t).clock = s.clock := rfl
@[simp] theorem retire_turn (t : Thread) : (s.retire t).turn = s.turn := rfl
@[simp] theorem retire_agenda (t : Thread) : (s.retire t).agenda = s.agenda := rfl
@[simp] theorem retire_free (t : Thread) : (s.retire t).free = s.free := rfl
@[simp] theorem retire_nextId (t : Thread) : (s.retire t).nextId = s.nextId := rfl

/-! ### `modTask` -/

@[simp] theorem modTask_mem (k : Nat) (f : Task → Task) : (s.modTask k f).mem = s.mem := by unfold State.modTask; split <;> rfl
@[simp] theorem modTask_pcores (k : Nat) (f : Task → Task) : (s.modTask k f).pcores = s.pcores := by unfold State.modTask; split <;> rfl
@[simp] theorem modTask_lcores (k : Nat) (f : Task → Task) : (s.modTask k f).lcores = s.lcores := by unfold State.modTask; split <;> rfl
@[simp] theorem modTask_pquads (k : Nat) (f : Task → Task) : (s.modTask k f).pquads = s.pquads := by unfold State.modTask; split <;> rfl
@[simp] theorem modTask_lquads (k : Nat) (f : Task → Task) : (s.modTask k f).lquads = s.lquads := by unfold State.modTask; split <;> rfl
@[simp] theorem modTask_pnodes (k : Nat) (f : Task → Task) : (s.modTask k f).pnodes = s.pnodes := by unfold State.modTask; split <;> rfl
@[simp] theorem modTask_lnodes (k : Nat) (f : Task → Task) : (s.modTask k f).lnodes = s.lnodes := by unfold State.modTask; split <;> rfl
@[simp] theorem modTask_parts (k : Nat) (f : Task → Task) : (s.modTask k f).parts = s.parts := by unfold State.modTask; split <;> rfl
@[simp] theorem modTask_launches (k : Nat) (f : Task → Task) : (s.modTask k f).launches = s.launches := by unfold State.modTask; split <;> rfl
@[simp] theorem modTask_monitors (k : Nat) (f : Task → Task) : (s.modTask k f).monitors = s.monitors := by unfold State.modTask; split <;> rfl
@[simp] theorem modTask_resvs (k : Nat) (f : Task → Task) : (s.modTask k f).resvs = s.resvs := by unfold State.modTask; split <;> rfl
@[simp] theorem modTask_binds (k : Nat) (f : Task → Task) : (s.modTask k f).binds = s.binds := by unfold State.modTask; split <;> rfl
@[simp] theorem modTask_marks (k : Nat) (f : Task → Task) : (s.modTask k f).marks = s.marks := by unfold State.modTask; split <;> rfl
@[simp] theorem modTask_parked (k : Nat) (f : Task → Task) : (s.modTask k f).parked = s.parked := by unfold State.modTask; split <;> rfl
@[simp] theorem modTask_chans (k : Nat) (f : Task → Task) : (s.modTask k f).chans = s.chans := by unfold State.modTask; split <;> rfl
@[simp] theorem modTask_pps (k : Nat) (f : Task → Task) : (s.modTask k f).pps = s.pps := by unfold State.modTask; split <;> rfl
@[simp] theorem modTask_colls (k : Nat) (f : Task → Task) : (s.modTask k f).colls = s.colls := by unfold State.modTask; split <;> rfl
@[simp] theorem modTask_queues (k : Nat) (f : Task → Task) : (s.modTask k f).queues = s.queues := by unfold State.modTask; split <;> rfl
@[simp] theorem modTask_bar2 (k : Nat) (f : Task → Task) : (s.modTask k f).bar2 = s.bar2 := by unfold State.modTask; split <;> rfl
@[simp] theorem modTask_dies (k : Nat) (f : Task → Task) : (s.modTask k f).dies = s.dies := by unfold State.modTask; split <;> rfl
@[simp] theorem modTask_fw (k : Nat) (f : Task → Task) : (s.modTask k f).fw = s.fw := by unfold State.modTask; split <;> rfl
@[simp] theorem modTask_clock (k : Nat) (f : Task → Task) : (s.modTask k f).clock = s.clock := by unfold State.modTask; split <;> rfl
@[simp] theorem modTask_turn (k : Nat) (f : Task → Task) : (s.modTask k f).turn = s.turn := by unfold State.modTask; split <;> rfl
@[simp] theorem modTask_agenda (k : Nat) (f : Task → Task) : (s.modTask k f).agenda = s.agenda := by unfold State.modTask; split <;> rfl
@[simp] theorem modTask_free (k : Nat) (f : Task → Task) : (s.modTask k f).free = s.free := by unfold State.modTask; split <;> rfl
@[simp] theorem modTask_nextId (k : Nat) (f : Task → Task) : (s.modTask k f).nextId = s.nextId := by unfold State.modTask; split <;> rfl

end State

namespace Thread

variable (t : Thread)

/-! ### `setX` -/

@[simp] theorem setX_task (r : Reg) (w : Word) : (t.setX r w).task = t.task := by unfold Thread.setX; split <;> rfl
@[simp] theorem setX_pc (r : Reg) (w : Word) : (t.setX r w).pc = t.pc := by unfold Thread.setX; split <;> rfl
@[simp] theorem setX_smode (r : Reg) (w : Word) : (t.setX r w).smode = t.smode := by unfold Thread.setX; split <;> rfl
@[simp] theorem setX_v (r : Reg) (w : Word) : (t.setX r w).v = t.v := by unfold Thread.setX; split <;> rfl
@[simp] theorem setX_vw (r : Reg) (w : Word) : (t.setX r w).vw = t.vw := by unfold Thread.setX; split <;> rfl
@[simp] theorem setX_p (r : Reg) (w : Word) : (t.setX r w).p = t.p := by unfold Thread.setX; split <;> rfl
@[simp] theorem setX_lm (r : Reg) (w : Word) : (t.setX r w).lm = t.lm := by unfold Thread.setX; split <;> rfl
@[simp] theorem setX_frm (r : Reg) (w : Word) : (t.setX r w).frm = t.frm := by unfold Thread.setX; split <;> rfl
@[simp] theorem setX_fflags (r : Reg) (w : Word) : (t.setX r w).fflags = t.fflags := by unfold Thread.setX; split <;> rfl
@[simp] theorem setX_vl (r : Reg) (w : Word) : (t.setX r w).vl = t.vl := by unfold Thread.setX; split <;> rfl
@[simp] theorem setX_vstart (r : Reg) (w : Word) : (t.setX r w).vstart = t.vstart := by unfold Thread.setX; split <;> rfl
@[simp] theorem setX_lsel (r : Reg) (w : Word) : (t.setX r w).lsel = t.lsel := by unfold Thread.setX; split <;> rfl
@[simp] theorem setX_sscratch (r : Reg) (w : Word) : (t.setX r w).sscratch = t.sscratch := by unfold Thread.setX; split <;> rfl
@[simp] theorem setX_hl0 (r : Reg) (w : Word) : (t.setX r w).hl0 = t.hl0 := by unfold Thread.setX; split <;> rfl
@[simp] theorem setX_hl1 (r : Reg) (w : Word) : (t.setX r w).hl1 = t.hl1 := by unfold Thread.setX; split <;> rfl
@[simp] theorem setX_issued (r : Reg) (w : Word) : (t.setX r w).issued = t.issued := by unfold Thread.setX; split <;> rfl
@[simp] theorem setX_resv (r : Reg) (w : Word) : (t.setX r w).resv = t.resv := by unfold Thread.setX; split <;> rfl
@[simp] theorem setX_wc (r : Reg) (w : Word) : (t.setX r w).wc = t.wc := by unfold Thread.setX; split <;> rfl
@[simp] theorem setX_held (r : Reg) (w : Word) : (t.setX r w).held = t.held := by unfold Thread.setX; split <;> rfl
@[simp] theorem setX_mark (r : Reg) (w : Word) : (t.setX r w).mark = t.mark := by unfold Thread.setX; split <;> rfl
@[simp] theorem setX_again (r : Reg) (w : Word) : (t.setX r w).again = t.again := by unfold Thread.setX; split <;> rfl

/-! ### `setV` -/

@[simp] theorem setV_task (r : Reg) (w : VReg) : (t.setV r w).task = t.task := rfl
@[simp] theorem setV_pc (r : Reg) (w : VReg) : (t.setV r w).pc = t.pc := rfl
@[simp] theorem setV_smode (r : Reg) (w : VReg) : (t.setV r w).smode = t.smode := rfl
@[simp] theorem setV_x (r : Reg) (w : VReg) : (t.setV r w).x = t.x := rfl
@[simp] theorem setV_p (r : Reg) (w : VReg) : (t.setV r w).p = t.p := rfl
@[simp] theorem setV_lm (r : Reg) (w : VReg) : (t.setV r w).lm = t.lm := rfl
@[simp] theorem setV_frm (r : Reg) (w : VReg) : (t.setV r w).frm = t.frm := rfl
@[simp] theorem setV_fflags (r : Reg) (w : VReg) : (t.setV r w).fflags = t.fflags := rfl
@[simp] theorem setV_vl (r : Reg) (w : VReg) : (t.setV r w).vl = t.vl := rfl
@[simp] theorem setV_vstart (r : Reg) (w : VReg) : (t.setV r w).vstart = t.vstart := rfl
@[simp] theorem setV_lsel (r : Reg) (w : VReg) : (t.setV r w).lsel = t.lsel := rfl
@[simp] theorem setV_sscratch (r : Reg) (w : VReg) : (t.setV r w).sscratch = t.sscratch := rfl
@[simp] theorem setV_hl0 (r : Reg) (w : VReg) : (t.setV r w).hl0 = t.hl0 := rfl
@[simp] theorem setV_hl1 (r : Reg) (w : VReg) : (t.setV r w).hl1 = t.hl1 := rfl
@[simp] theorem setV_issued (r : Reg) (w : VReg) : (t.setV r w).issued = t.issued := rfl
@[simp] theorem setV_resv (r : Reg) (w : VReg) : (t.setV r w).resv = t.resv := rfl
@[simp] theorem setV_wc (r : Reg) (w : VReg) : (t.setV r w).wc = t.wc := rfl
@[simp] theorem setV_held (r : Reg) (w : VReg) : (t.setV r w).held = t.held := rfl
@[simp] theorem setV_mark (r : Reg) (w : VReg) : (t.setV r w).mark = t.mark := rfl
@[simp] theorem setV_again (r : Reg) (w : VReg) : (t.setV r w).again = t.again := rfl

/-! ### `setP` -/

@[simp] theorem setP_task (n : Nat) (w : PReg) : (t.setP n w).task = t.task := by unfold Thread.setP; split <;> rfl
@[simp] theorem setP_pc (n : Nat) (w : PReg) : (t.setP n w).pc = t.pc := by unfold Thread.setP; split <;> rfl
@[simp] theorem setP_smode (n : Nat) (w : PReg) : (t.setP n w).smode = t.smode := by unfold Thread.setP; split <;> rfl
@[simp] theorem setP_x (n : Nat) (w : PReg) : (t.setP n w).x = t.x := by unfold Thread.setP; split <;> rfl
@[simp] theorem setP_v (n : Nat) (w : PReg) : (t.setP n w).v = t.v := by unfold Thread.setP; split <;> rfl
@[simp] theorem setP_vw (n : Nat) (w : PReg) : (t.setP n w).vw = t.vw := by unfold Thread.setP; split <;> rfl
@[simp] theorem setP_lm (n : Nat) (w : PReg) : (t.setP n w).lm = t.lm := by unfold Thread.setP; split <;> rfl
@[simp] theorem setP_frm (n : Nat) (w : PReg) : (t.setP n w).frm = t.frm := by unfold Thread.setP; split <;> rfl
@[simp] theorem setP_fflags (n : Nat) (w : PReg) : (t.setP n w).fflags = t.fflags := by unfold Thread.setP; split <;> rfl
@[simp] theorem setP_vl (n : Nat) (w : PReg) : (t.setP n w).vl = t.vl := by unfold Thread.setP; split <;> rfl
@[simp] theorem setP_vstart (n : Nat) (w : PReg) : (t.setP n w).vstart = t.vstart := by unfold Thread.setP; split <;> rfl
@[simp] theorem setP_lsel (n : Nat) (w : PReg) : (t.setP n w).lsel = t.lsel := by unfold Thread.setP; split <;> rfl
@[simp] theorem setP_sscratch (n : Nat) (w : PReg) : (t.setP n w).sscratch = t.sscratch := by unfold Thread.setP; split <;> rfl
@[simp] theorem setP_hl0 (n : Nat) (w : PReg) : (t.setP n w).hl0 = t.hl0 := by unfold Thread.setP; split <;> rfl
@[simp] theorem setP_hl1 (n : Nat) (w : PReg) : (t.setP n w).hl1 = t.hl1 := by unfold Thread.setP; split <;> rfl
@[simp] theorem setP_issued (n : Nat) (w : PReg) : (t.setP n w).issued = t.issued := by unfold Thread.setP; split <;> rfl
@[simp] theorem setP_resv (n : Nat) (w : PReg) : (t.setP n w).resv = t.resv := by unfold Thread.setP; split <;> rfl
@[simp] theorem setP_wc (n : Nat) (w : PReg) : (t.setP n w).wc = t.wc := by unfold Thread.setP; split <;> rfl
@[simp] theorem setP_held (n : Nat) (w : PReg) : (t.setP n w).held = t.held := by unfold Thread.setP; split <;> rfl
@[simp] theorem setP_mark (n : Nat) (w : PReg) : (t.setP n w).mark = t.mark := by unfold Thread.setP; split <;> rfl
@[simp] theorem setP_again (n : Nat) (w : PReg) : (t.setP n w).again = t.again := by unfold Thread.setP; split <;> rfl

/-! ### `setLm` -/

@[simp] theorem setLm_task (n : Nat) (w : Word) : (t.setLm n w).task = t.task := rfl
@[simp] theorem setLm_pc (n : Nat) (w : Word) : (t.setLm n w).pc = t.pc := rfl
@[simp] theorem setLm_smode (n : Nat) (w : Word) : (t.setLm n w).smode = t.smode := rfl
@[simp] theorem setLm_x (n : Nat) (w : Word) : (t.setLm n w).x = t.x := rfl
@[simp] theorem setLm_v (n : Nat) (w : Word) : (t.setLm n w).v = t.v := rfl
@[simp] theorem setLm_vw (n : Nat) (w : Word) : (t.setLm n w).vw = t.vw := rfl
@[simp] theorem setLm_p (n : Nat) (w : Word) : (t.setLm n w).p = t.p := rfl
@[simp] theorem setLm_frm (n : Nat) (w : Word) : (t.setLm n w).frm = t.frm := rfl
@[simp] theorem setLm_fflags (n : Nat) (w : Word) : (t.setLm n w).fflags = t.fflags := rfl
@[simp] theorem setLm_vl (n : Nat) (w : Word) : (t.setLm n w).vl = t.vl := rfl
@[simp] theorem setLm_vstart (n : Nat) (w : Word) : (t.setLm n w).vstart = t.vstart := rfl
@[simp] theorem setLm_lsel (n : Nat) (w : Word) : (t.setLm n w).lsel = t.lsel := rfl
@[simp] theorem setLm_sscratch (n : Nat) (w : Word) : (t.setLm n w).sscratch = t.sscratch := rfl
@[simp] theorem setLm_hl0 (n : Nat) (w : Word) : (t.setLm n w).hl0 = t.hl0 := rfl
@[simp] theorem setLm_hl1 (n : Nat) (w : Word) : (t.setLm n w).hl1 = t.hl1 := rfl
@[simp] theorem setLm_issued (n : Nat) (w : Word) : (t.setLm n w).issued = t.issued := rfl
@[simp] theorem setLm_resv (n : Nat) (w : Word) : (t.setLm n w).resv = t.resv := rfl
@[simp] theorem setLm_wc (n : Nat) (w : Word) : (t.setLm n w).wc = t.wc := rfl
@[simp] theorem setLm_held (n : Nat) (w : Word) : (t.setLm n w).held = t.held := rfl
@[simp] theorem setLm_mark (n : Nat) (w : Word) : (t.setLm n w).mark = t.mark := rfl
@[simp] theorem setLm_again (n : Nat) (w : Word) : (t.setLm n w).again = t.again := rfl

/-! ### `flag` -/

@[simp] theorem flag_task (f : BitVec 5) : (t.flag f).task = t.task := rfl
@[simp] theorem flag_pc (f : BitVec 5) : (t.flag f).pc = t.pc := rfl
@[simp] theorem flag_smode (f : BitVec 5) : (t.flag f).smode = t.smode := rfl
@[simp] theorem flag_x (f : BitVec 5) : (t.flag f).x = t.x := rfl
@[simp] theorem flag_v (f : BitVec 5) : (t.flag f).v = t.v := rfl
@[simp] theorem flag_vw (f : BitVec 5) : (t.flag f).vw = t.vw := rfl
@[simp] theorem flag_p (f : BitVec 5) : (t.flag f).p = t.p := rfl
@[simp] theorem flag_lm (f : BitVec 5) : (t.flag f).lm = t.lm := rfl
@[simp] theorem flag_frm (f : BitVec 5) : (t.flag f).frm = t.frm := rfl
@[simp] theorem flag_vl (f : BitVec 5) : (t.flag f).vl = t.vl := rfl
@[simp] theorem flag_vstart (f : BitVec 5) : (t.flag f).vstart = t.vstart := rfl
@[simp] theorem flag_lsel (f : BitVec 5) : (t.flag f).lsel = t.lsel := rfl
@[simp] theorem flag_sscratch (f : BitVec 5) : (t.flag f).sscratch = t.sscratch := rfl
@[simp] theorem flag_hl0 (f : BitVec 5) : (t.flag f).hl0 = t.hl0 := rfl
@[simp] theorem flag_hl1 (f : BitVec 5) : (t.flag f).hl1 = t.hl1 := rfl
@[simp] theorem flag_issued (f : BitVec 5) : (t.flag f).issued = t.issued := rfl
@[simp] theorem flag_resv (f : BitVec 5) : (t.flag f).resv = t.resv := rfl
@[simp] theorem flag_wc (f : BitVec 5) : (t.flag f).wc = t.wc := rfl
@[simp] theorem flag_held (f : BitVec 5) : (t.flag f).held = t.held := rfl
@[simp] theorem flag_mark (f : BitVec 5) : (t.flag f).mark = t.mark := rfl
@[simp] theorem flag_again (f : BitVec 5) : (t.flag f).again = t.again := rfl

/-! ### `next` -/

@[simp] theorem next_task : (t.next).task = t.task := rfl
@[simp] theorem next_smode : (t.next).smode = t.smode := rfl
@[simp] theorem next_x : (t.next).x = t.x := rfl
@[simp] theorem next_v : (t.next).v = t.v := rfl
@[simp] theorem next_vw : (t.next).vw = t.vw := rfl
@[simp] theorem next_p : (t.next).p = t.p := rfl
@[simp] theorem next_lm : (t.next).lm = t.lm := rfl
@[simp] theorem next_frm : (t.next).frm = t.frm := rfl
@[simp] theorem next_fflags : (t.next).fflags = t.fflags := rfl
@[simp] theorem next_vl : (t.next).vl = t.vl := rfl
@[simp] theorem next_vstart : (t.next).vstart = t.vstart := rfl
@[simp] theorem next_lsel : (t.next).lsel = t.lsel := rfl
@[simp] theorem next_sscratch : (t.next).sscratch = t.sscratch := rfl
@[simp] theorem next_issued : (t.next).issued = t.issued := rfl
@[simp] theorem next_resv : (t.next).resv = t.resv := rfl
@[simp] theorem next_wc : (t.next).wc = t.wc := rfl
@[simp] theorem next_held : (t.next).held = t.held := rfl
@[simp] theorem next_mark : (t.next).mark = t.mark := rfl
@[simp] theorem next_again : (t.next).again = t.again := rfl

/-! ### `goto` -/

@[simp] theorem goto_task (w : Word) : (t.goto w).task = t.task := rfl
@[simp] theorem goto_smode (w : Word) : (t.goto w).smode = t.smode := rfl
@[simp] theorem goto_x (w : Word) : (t.goto w).x = t.x := rfl
@[simp] theorem goto_v (w : Word) : (t.goto w).v = t.v := rfl
@[simp] theorem goto_vw (w : Word) : (t.goto w).vw = t.vw := rfl
@[simp] theorem goto_p (w : Word) : (t.goto w).p = t.p := rfl
@[simp] theorem goto_lm (w : Word) : (t.goto w).lm = t.lm := rfl
@[simp] theorem goto_frm (w : Word) : (t.goto w).frm = t.frm := rfl
@[simp] theorem goto_fflags (w : Word) : (t.goto w).fflags = t.fflags := rfl
@[simp] theorem goto_vl (w : Word) : (t.goto w).vl = t.vl := rfl
@[simp] theorem goto_vstart (w : Word) : (t.goto w).vstart = t.vstart := rfl
@[simp] theorem goto_lsel (w : Word) : (t.goto w).lsel = t.lsel := rfl
@[simp] theorem goto_sscratch (w : Word) : (t.goto w).sscratch = t.sscratch := rfl
@[simp] theorem goto_issued (w : Word) : (t.goto w).issued = t.issued := rfl
@[simp] theorem goto_resv (w : Word) : (t.goto w).resv = t.resv := rfl
@[simp] theorem goto_wc (w : Word) : (t.goto w).wc = t.wc := rfl
@[simp] theorem goto_held (w : Word) : (t.goto w).held = t.held := rfl
@[simp] theorem goto_mark (w : Word) : (t.goto w).mark = t.mark := rfl
@[simp] theorem goto_again (w : Word) : (t.goto w).again = t.again := rfl

@[simp] theorem goto_pc (w : Word) : (t.goto w).pc = w := rfl
@[simp] theorem flag_fflags (f : BitVec 5) : (t.flag f).fflags = t.fflags ||| f := rfl

end Thread

end Sys2Proof.Machine
end

