-- ==== Sys2Proof/Laws/Table.lean ====
section
/-!
SUPPORT. Sparse tables: reading after a write, and the canonical form of memory, which every memory operation keeps.
-/
namespace Sys2Proof

namespace Tbl

variable {α : Type}

/-- Reading after `set`. -/
theorem get_set (d : α) (t : Tbl α) (n m : Nat) (v : α) : (t.set n v).get d m = if n = m then v else t.get d m := by
  induction t with
  | nil => simp [set, get]
  | cons e t ih =>
    obtain ⟨k, w⟩ := e
    simp only [set]
    split
    · simp [get]
    · split
      · rename_i h; subst h; simp only [get]; split <;> rfl
      · rename_i h; simp only [get, ih]
        split
        · rename_i h'; subst h'; simp [h]
        · rfl

@[simp] theorem get_set_same (d : α) (t : Tbl α) (n : Nat) (v : α) : (t.set n v).get d n = v := by simp [get_set]

theorem get_set_other (d : α) (t : Tbl α) {n m : Nat} (v : α) (h : n ≠ m) : (t.set n v).get d m = t.get d m := by
  simp [get_set, h]

/-- Looking up after `set`. -/
theorem find_set (t : Tbl α) (n m : Nat) (v : α) : (t.set n v).find m = if n = m then some v else t.find m := by
  induction t with
  | nil => simp [set, find]
  | cons e t ih =>
    obtain ⟨k, w⟩ := e
    simp only [set]
    split
    · simp [find]
    · split
      · rename_i h; subst h; simp only [find]; split <;> rfl
      · rename_i h; simp only [find, ih]
        split
        · rename_i h'; subst h'; simp [h]
        · rfl

@[simp] theorem find_set_same (t : Tbl α) (n : Nat) (v : α) : (t.set n v).find n = some v := by simp [find_set]

/-- A table whose keys start later starts at every earlier bound as well. -/
theorem risingFrom_mono {t : Tbl α} {a b : Nat} (h : t.risingFrom b = true) (hab : a ≤ b) : t.risingFrom a = true := by
  cases t with
  | nil => rfl
  | cons e t =>
    obtain ⟨k, w⟩ := e
    simp only [risingFrom, Bool.and_eq_true, decide_eq_true_eq] at h ⊢
    exact ⟨by omega, h.2⟩

/-- No key below the bound is listed. -/
theorem get_below (d : α) {t : Tbl α} {a n : Nat} (h : t.risingFrom a = true) (hn : n < a) : t.get d n = d := by
  induction t generalizing a with
  | nil => rfl
  | cons e t ih =>
    obtain ⟨k, w⟩ := e
    simp only [risingFrom, Bool.and_eq_true, decide_eq_true_eq] at h
    have hk : k ≠ n := by omega
    simp only [get, hk, if_false]
    exact ih h.2 (by omega)

/-- Dropping entries keeps the keys rising. -/
theorem risingFrom_filter {t : Tbl α} {a : Nat} (p : Nat × α → Bool) (h : t.risingFrom a = true) :
    Tbl.risingFrom a (t.filter p) = true := by
  induction t generalizing a with
  | nil => rfl
  | cons e t ih =>
    obtain ⟨k, w⟩ := e
    simp only [risingFrom, Bool.and_eq_true, decide_eq_true_eq] at h
    simp only [List.filter_cons]
    split
    · simp only [risingFrom, Bool.and_eq_true, decide_eq_true_eq]; exact ⟨h.1, ih h.2⟩
    · exact ih (risingFrom_mono h.2 (by omega))

/-- Reading after `erase`. -/
theorem get_erase (d : α) (t : Tbl α) (n m : Nat) : (t.erase n).get d m = if n = m then d else t.get d m := by
  induction t with
  | nil => simp [erase, get]
  | cons e t ih =>
    obtain ⟨k, w⟩ := e
    simp only [erase]
    split
    · rename_i h; subst h; rw [ih]; simp only [get]; split <;> rfl
    · rename_i h; simp only [get, ih]
      split
      · rename_i h'; subst h'; simp [Ne.symm h]
      · rfl

/-- Looking up after `erase`. -/
theorem find_erase (t : Tbl α) (n m : Nat) : (t.erase n).find m = if n = m then none else t.find m := by
  induction t with
  | nil => simp [erase, find]
  | cons e t ih =>
    obtain ⟨k, w⟩ := e
    simp only [erase]
    split
    · rename_i h; subst h; rw [ih]; simp only [find]; split <;> rfl
    · rename_i h; simp only [find, ih]
      split
      · rename_i h'; subst h'; simp [Ne.symm h]
      · rfl

/-- `erase` keeps the keys rising. -/
theorem risingFrom_erase {t : Tbl α} {a : Nat} (n : Nat) (h : t.risingFrom a = true) : (t.erase n).risingFrom a = true := by
  induction t generalizing a with
  | nil => rfl
  | cons e t ih =>
    obtain ⟨k, w⟩ := e
    simp only [risingFrom, Bool.and_eq_true, decide_eq_true_eq] at h
    simp only [erase]
    split
    · exact ih (risingFrom_mono h.2 (by omega))
    · simp only [risingFrom, Bool.and_eq_true, decide_eq_true_eq]; exact ⟨h.1, ih h.2⟩

/-- `set` keeps the keys rising. -/
theorem risingFrom_set {t : Tbl α} {a n : Nat} (v : α) (h : t.risingFrom a = true) (hn : a ≤ n) : (t.set n v).risingFrom a = true := by
  induction t generalizing a with
  | nil => simp [set, risingFrom, hn]
  | cons e t ih =>
    obtain ⟨k, w⟩ := e
    simp only [risingFrom, Bool.and_eq_true, decide_eq_true_eq] at h
    simp only [set]
    split
    · simp only [risingFrom, Bool.and_eq_true, decide_eq_true_eq]; exact ⟨hn, by omega, h.2⟩
    · split
      · rename_i h1; subst h1; simp only [risingFrom, Bool.and_eq_true, decide_eq_true_eq]; exact ⟨hn, h.2⟩
      · simp only [risingFrom, Bool.and_eq_true, decide_eq_true_eq]; exact ⟨h.1, ih h.2 (by omega)⟩

/-- An entry after `erase` was there before. -/
theorem mem_erase {t : Tbl α} {n : Nat} {e : Nat × α} (h : e ∈ t.erase n) : e ∈ t := by
  induction t with
  | nil => exact h
  | cons x t ih =>
    obtain ⟨k, w⟩ := x
    simp only [erase] at h
    split at h
    · exact List.mem_cons_of_mem _ (ih h)
    · rcases List.mem_cons.mp h with rfl | h
      · exact List.mem_cons_self
      · exact List.mem_cons_of_mem _ (ih h)

/-- An entry after `set` is the new one or was there before. -/
theorem mem_set {t : Tbl α} {n : Nat} {v : α} {e : Nat × α} (h : e ∈ t.set n v) : e = (n, v) ∨ e ∈ t := by
  induction t with
  | nil => exact .inl (by simpa [set] using h)
  | cons x t ih =>
    obtain ⟨k, w⟩ := x
    simp only [set] at h
    split at h
    · exact List.mem_cons.mp h
    · split at h
      · rcases List.mem_cons.mp h with h | h
        · exact .inl h
        · exact .inr (List.mem_cons_of_mem _ h)
      · rcases List.mem_cons.mp h with rfl | h
        · exact .inr List.mem_cons_self
        · exact (ih h).imp id (List.mem_cons_of_mem _)

section Put

variable [DecidableEq α]

/-- `put` keeps the canonical form. -/
theorem canon_put (d : α) {t : Tbl α} (n : Nat) (v : α) (h : t.canon d = true) : (t.put d n v).canon d = true := by
  simp only [canon, Bool.and_eq_true, List.all_eq_true, decide_eq_true_eq] at h ⊢
  unfold put
  split
  · exact ⟨risingFrom_erase n h.1, fun e he => h.2 e (mem_erase he)⟩
  · rename_i hv
    refine ⟨risingFrom_set v h.1 (Nat.zero_le n), fun e he => ?_⟩
    rcases mem_set he with rfl | he
    · exact hv
    · exact h.2 e he

/-- Reading after `put`. -/
theorem get_put (d : α) (t : Tbl α) (n m : Nat) (v : α) : (t.put d n v).get d m = if n = m then v else t.get d m := by
  unfold put
  split
  · rename_i h; subst h; exact get_erase _ t n m
  · exact get_set d t n m v

/-- Dropping entries keeps the canonical form. -/
theorem canon_filter (d : α) {t : Tbl α} (p : Nat × α → Bool) (h : t.canon d = true) : Tbl.canon d (t.filter p) = true := by
  simp only [canon, Bool.and_eq_true, List.all_eq_true] at h ⊢
  exact ⟨risingFrom_filter p h.1, fun e he => h.2 e (List.mem_filter.mp he).1⟩

end Put

end Tbl

namespace Machine

/-- Storing cells one after another keeps the canonical form. -/
theorem wf_foldl_put (l : List (Nat × Byte)) {m : Tbl Byte} (h : Memory.wf m = true) :
    Memory.wf (l.foldl (fun m c => m.put 0 c.1 c.2) m) = true := by
  induction l generalizing m with
  | nil => exact h
  | cons c l ih => exact ih (Tbl.canon_put 0 c.1 c.2 h)

/-- `putByte` keeps the canonical form. -/
theorem State.putByte_wf (s : State) (a : Nat) (b : Byte) (h : Memory.wf s.mem = true) : Memory.wf (s.putByte a b).mem = true :=
  Tbl.canon_put 0 a b h

/-- `putCells` keeps the canonical form. -/
theorem State.putCells_wf (s : State) (l : List (Nat × Byte)) (h : Memory.wf s.mem = true) : Memory.wf (s.putCells l).mem = true :=
  wf_foldl_put l h

/-- `writeN` keeps the canonical form. -/
theorem State.writeN_wf (s : State) (a n v : Nat) (h : Memory.wf s.mem = true) : Memory.wf (s.writeN a n v).mem = true :=
  s.putCells_wf _ h

/-- A read after a write of one byte. -/
theorem State.byteAt_putByte (s : State) (a x : Nat) (b : Byte) : (s.putByte a b).byteAt x = if a = x then b else s.byteAt x :=
  Tbl.get_put 0 s.mem a x b

/-- A byte that the cells do not name reads as before. -/
theorem State.byteAt_putCells_other (s : State) (l : List (Nat × Byte)) (x : Nat) (hx : ∀ c ∈ l, c.1 ≠ x) :
    (s.putCells l).byteAt x = s.byteAt x := by
  induction l generalizing s with
  | nil => rfl
  | cons c l ih =>
    have hc : c.1 ≠ x := hx c (by simp)
    have h1 := ih (s.putByte c.1 c.2) (fun e he => hx e (by simp [he]))
    have h2 := s.byteAt_putByte c.1 x c.2
    simp only [hc, if_false] at h2
    exact h1.trans h2

end Machine

end Sys2Proof
end

