-- ==== Sys2Proof/Laws/Ops.lean ====
section
/-!
SUPPORT. What the shared operations do, each said once: the issue wrapper, the slot of the thread, a yield point, room in the silo, a
deposit and a trap.
-/
namespace Sys2Proof.Machine

namespace State

/-! ## Who issues -/

/-- The wrapper of every issued instruction runs it on the thread in the slot, unless a section has run out of instructions (06 R141). -/
theorem issue_of_cur (s : State) (t : Thread) (f : Thread → State) (h : s.cur = some t) (hr : ∀ r, t.resv = some r → r.count ≤ 16) :
    s.issue f = f t := by
  unfold issue
  rw [h]
  simp only
  cases hq : t.resv with
  | none => rfl
  | some r => exact if_neg (Nat.not_lt.mpr (hr r hq))

/-- A section that has run out of instructions traps with its address (06 R141). -/
theorem issue_of_long (s : State) (t : Thread) (f : Thread → State) (r : Section) (h : s.cur = some t) (hr : t.resv = some r)
    (hc : 16 < r.count) : s.issue f = s.trap t 25 r.va := by
  unfold issue
  rw [h]
  simp [hr, sectionLimit, hc]

/-! ## The slot of the thread -/

theorem pcore_setPcore (s : State) (c d : Nat) (v : PCore) : (s.setPcore c v).pcore d = if c = d then v else s.pcore d :=
  Tbl.get_set _ _ _ _ _

theorem slot_setSlot (s : State) (c i d j : Nat) (v : Slot) :
    (s.setSlot c i v).slot d j = if c = d ∧ i = j then v else s.slot d j := by
  unfold slot setSlot modPcore
  rw [pcore_setPcore]
  by_cases hc : c = d
  · subst hc
    simp only [if_true, true_and]
    exact Tbl.get_set _ _ _ _ _
  · simp [hc]

theorem slot_putThread (s : State) (c i d j : Nat) (t : Thread) :
    ((s.putThread c i t).slot d j).thread = if c = d ∧ i = j then some t else (s.slot d j).thread := by
  unfold putThread
  rw [slot_setSlot]
  split <;> rfl

theorem slot_freeSlot (s : State) (c i d j : Nat) :
    ((s.freeSlot c i).slot d j).thread = if c = d ∧ i = j then none else (s.slot d j).thread := by
  unfold freeSlot
  rw [slot_setSlot]
  split <;> rfl

@[simp] theorem cur_putCur (s : State) (t : Thread) : (s.putCur t).cur = some t := by
  show ((s.putThread s.turn.1 s.turn.2 t).slot _ _).thread = some t
  rw [slot_putThread]
  exact if_pos ⟨rfl, rfl⟩

@[simp] theorem byteAt_putCur (s : State) (t : Thread) (a : Nat) : (s.putCur t).byteAt a = s.byteAt a := rfl
@[simp] theorem tasks_putCur (s : State) (t : Thread) : (s.putCur t).tasks = s.tasks := rfl
@[simp] theorem lcores_putCur (s : State) (t : Thread) : (s.putCur t).lcores = s.lcores := rfl
@[simp] theorem turn_putCur (s : State) (t : Thread) : (s.putCur t).turn = s.turn := rfl

/-! ## The silo (05 R115 to R117) -/

/-- A run that is placed fits. -/
theorem place_fits (l : LCore) (n pick o : Nat) (h : l.place n pick = some o) : l.fits o n = true := by
  unfold LCore.place at h
  simp only at h
  split at h
  · cases h; assumption
  · have := List.find?_some h
    exact this

/-- An empty silo has room for whatever it can hold. -/
theorem place_of_empty (l : LCore) (n pick : Nat) (hu : l.used = []) (hn : n ≤ l.silol.toNat) : ∃ o, l.place n pick = some o := by
  unfold LCore.place
  simp only
  split
  · exact ⟨_, rfl⟩
  · refine ⟨0, ?_⟩
    simp [hu, LCore.fits, hn]

theorem fits_room (l : LCore) (o n : Nat) (h : l.fits o n = true) : o + n ≤ l.silol.toNat := by
  unfold LCore.fits at h
  simp only [Bool.and_eq_true, decide_eq_true_eq] at h
  exact h.1

/-- In bare mode a unit of the silo in HBM is where it says (05 R117). -/
theorem siloPa_bare (s : State) (lc : Nat) (va : Word) (hk : kx57 (s.csrs lc).satp = false) (hr : regionOf va.toNat = 1)
    (hb : va.toNat % 2 ^ 48 < 2304 * 2 ^ 30) : s.siloPa lc va = some va.toNat := by
  have hok : s.regionOk va.toNat 0 false = true := by
    unfold regionOk nodeOfPa
    rw [hr]
    simp only [typeOk, decide_eq_true hb, Bool.and_true]
    rfl
  unfold siloPa
  simp only [hk, hr, hok]
  rfl

/-- A run of the silo in HBM is good in bare mode. -/
theorem siloBad_bare (s : State) (lc : Nat) (va : Word) (n : Nat) (hk : kx57 (s.csrs lc).satp = false) (hlo : 2 ^ 48 ≤ va.toNat)
    (hhi : va.toNat + n + 64 ≤ 2 ^ 48 + 2304 * 2 ^ 30) : s.siloBad lc va n = none := by
  unfold siloBad unitsOf
  rw [List.find?_eq_none]
  intro u hu
  obtain ⟨i, hi, rfl⟩ := List.mem_map.mp hu
  have hi' := List.mem_range.mp hi
  have h64 : 64 * i < n + 64 := by omega
  have hs : (va + word (64 * i)).toNat = va.toNat + 64 * i := by
    rw [BitVec.toNat_add]
    simp only [word, BitVec.toNat_ofNat]
    omega
  rw [siloPa_bare s lc _ hk (by unfold regionOf; rw [hs]; omega) (by rw [hs]; omega)]
  simp

/-! ## Deposits and traps -/

/-- A deposit succeeds where the context block is written and the silo has a good run for the record (05 R115, R116). -/
theorem deposit_of_room (s s1 s2 : State) (c i : Nat) (i0 t : Thread) (d : Dep) (a : Word) (hc : s.ctxWrite t.task = .ok s1)
    (hp : s1.siloAlloc (s.task t.task).lc (recSize (saveMask t d.all d.reply)) = some (a, s2))
    (hb : s2.siloBad (s.task t.task).lc a (recSize (saveMask t d.all d.reply)) = none) :
    ∃ s' id, s.deposit c i i0 t d = (s', some { lc := (s.task t.task).lc, id := id }) := by
  unfold deposit
  simp only [hc, hp, hb]
  exact ⟨_, _, rfl⟩

/-- A yield point outside a section whose deposit succeeds goes on with the record (01 R18). -/
theorem yieldAt_of_deposit (s s1 : State) (i0 t : Thread) (wait reply : Nat) (obj : Word) (want : Want) (k : State → RecRef → State)
    (r : RecRef) (ht : t.resv = none)
    (hd : s.deposit s.turn.1 s.turn.2 i0 t.next
      { st := .waiting, flt := false, all := false, reply := reply, cause := 0, wait := wait, obj := obj, want := want } = (s1, some r)) :
    s.yieldAt i0 t wait reply obj want k = k s1 r := by
  unfold yieldAt
  simp only [ht]
  rw [hd]

/-- A yield point in a section traps (06 R141). -/
theorem yieldAt_of_section (s : State) (i0 t : Thread) (wait reply : Nat) (obj : Word) (want : Want) (k : State → RecRef → State)
    (r : Section) (ht : t.resv = some r) : s.yieldAt i0 t wait reply obj want k = s.trap i0 25 r.va := by
  unfold yieldAt
  simp only [ht]

/-- A trap of a handler nested four deep kills its task (15 R305). -/
theorem trap_of_deep (s : State) (t : Thread) (cause : Nat) (obj : Word) (hr : t.resv = none) (hd : 4 ≤ (s.task t.task).depth) :
    s.trap t cause obj =
      (s.killThread s.turn.1 s.turn.2 { t with resv := none }).logEvent 3 (s.turn.1 / 16) := by
  unfold trap trapAt endSection
  simp only [hr]
  rw [if_pos hd]

/-! ## Core CSRs (01 R28, 15 R322) -/

/-- A write to the core CSRs of a logical core is read back there. -/
theorem csrs_modCsrs (s : State) (lc : Nat) (f : CoreCsrs → CoreCsrs) : (s.modCsrs lc f).csrs lc = f (s.csrs lc) := by
  unfold modCsrs
  cases h : (s.lcore lc).own with
  | some k =>
    have hl : (s.modLcore lc (fun l => { l with own := some (f k) })).lcore lc = { s.lcore lc with own := some (f k) } := by
      show Tbl.get _ (s.lcores.set lc _) lc = _
      rw [Tbl.get_set, if_pos rfl]
    simp only [csrs, hl, h, Option.getD_some]
  | none =>
    have hp : (s.modPcore (s.physOf lc) (fun p => { p with csrs := f p.csrs })).pcore (s.physOf lc) =
        { s.pcore (s.physOf lc) with csrs := f (s.pcore (s.physOf lc)).csrs } := by
      show Tbl.get _ (s.pcores.set (s.physOf lc) _) (s.physOf lc) = _
      rw [Tbl.get_set, if_pos rfl]
    have hl : (s.modPcore (s.physOf lc) (fun p => { p with csrs := f p.csrs })).lcore lc = s.lcore lc := rfl
    have hq : (s.modPcore (s.physOf lc) (fun p => { p with csrs := f p.csrs })).physOf lc = s.physOf lc := rfl
    simp only [csrs, hl, hq, h, Option.getD_none, hp]

end State

end Sys2Proof.Machine
end

