-- ==== Sys2Proof/Tests/Slice0.lean ====
section
/-!
SUPPORT. The model's own tests: an ill-formed term for each field rule, a word for each constructor that has one, written out from the
tables of 04, a state that meets the hypotheses of each statement, and one step of an instruction or an agent on a small state. Expected results are read off the spec.
-/
namespace Sys2Proof.Tests

set_option Elab.async false

open Sys2Proof Sys2Proof.Machine Sys2Proof.Claims

/-! ## The machine that the tests run on -/

/-- A U-mode thread of the one task, at the first address of HBM, with the x registers given. -/
def thr (x : Tbl Word) : Thread := Thread.start (taskKey 1 0) (word programBase) false x

/-- Page 0 of the own window of logical core 0. -/
def page0 : PageRef := { lc := 4096, launch := 0, page := 0 }

/-- A core with that thread in slot 0 and page 0 of its own window in frame 0. -/
def coreOf (t : Thread) : PCore :=
  { PCore.reset with
    slots := [(0, { thread := some t, credit := none })],
    frames := [(0, { page := page0, pinned := false, touch := 0, dirty := 0 })] }

/-- Partition 1 of node 0 with the thread on its core 0, and some bytes in memory. -/
def on (t : Thread) (m : Tbl Byte := []) : State := { State.reset.placeProgram [] with pcores := [(0, coreOf t)], mem := m }

/-- The virtual address of byte `k` of the own window, and the physical address of that byte of frame 0 of core 0. -/
def va (k : Nat) : Word := word (ownBase + k)
def fr (k : Nat) : Nat := 5 * 2 ^ 48 + k

/-- The state after a step that goes on. -/
def after (i : Instr) (s : State) : Option State := match exec i s with | .next s' => some s' | _ => none

/-- An x register of the thread after a step. -/
def xAfter (i : Instr) (s : State) (n : Nat) : Option Word := ((after i s).bind (·.cur)).map (·.getX (BitVec.ofNat 5 n))

/-- The pc of the thread after a step. -/
def pcAfter (i : Instr) (s : State) : Option Word := ((after i s).bind (·.cur)).map (·.pc)

/-- A byte of memory after a step. -/
def byteAfter (i : Instr) (s : State) (a : Nat) : Option Byte := (after i s).map (·.byteAt a)

/-- The instruction traps, and nothing of it has taken effect. -/
def Traps (i : Instr) (t : Thread) (cause : Nat) (obj : Word) : Prop := exec i (on t) = .next ((on t).trap t cause obj)

/-- The thread of a test issues: the hypothesis of IntegerOpResult, UpperAndTransferResult, CsrIllegal, SystemWordTraps,
VectorIntegerResult, VectorCompareResult, VectorFloatResult, VectorReductionResult, VectorPermuteResult, StreamBranchAndGuard and others. -/
theorem witness_issues (t : Thread) (m : Tbl Byte) (h : t.resv = none) : Issues (on t m) t := ⟨rfl, by simp [h]⟩

theorem witness_issuesFree (t : Thread) (m : Tbl Byte) (h : t.resv = none) : IssuesFree (on t m) t := ⟨rfl, h⟩

theorem witness_atRest (t : Thread) (m : Tbl Byte) (h : t.wc = none) : AtRest (on t m) t :=
  ⟨rfl, rfl, rfl, rfl, rfl, h, fun _ => List.not_mem_nil⟩

theorem witness_unwatched (t : Thread) (m : Tbl Byte) (h : t.task = taskKey 1 0) : Unwatched (on t m) t := by
  refine ⟨rfl, rfl, ?_⟩
  rw [h]
  exact (by decide +kernel : ((on (thr [])).lcore ((on (thr [])).task (taskKey 1 0)).lc).wb = [])


/-! ## Words written out from the tables of 04 -/

/-- The formats of 04 R80. -/
def rType (f7 rs2 rs1 f3 rd op : Nat) : Nat := f7 * 2 ^ 25 + rs2 * 2 ^ 20 + rs1 * 2 ^ 15 + f3 * 2 ^ 12 + rd * 2 ^ 7 + op
def iType (imm rs1 f3 rd op : Nat) : Nat := imm * 2 ^ 20 + rs1 * 2 ^ 15 + f3 * 2 ^ 12 + rd * 2 ^ 7 + op
def sType (imm rs2 rs1 f3 op : Nat) : Nat := rType (imm / 32) rs2 rs1 f3 (imm % 32) op
/-- `h` is the offset in halfwords: offset bit k is bit k - 1 of `h`. -/
def bType (h rs2 rs1 f3 op : Nat) : Nat :=
  rType (h / 2 ^ 11 * 64 + h / 16 % 64) rs2 rs1 f3 (h % 16 * 2 + h / 2 ^ 10 % 2) op
def jType (h rd op : Nat) : Nat :=
  (h / 2 ^ 19 * 2 ^ 19 + h % 2 ^ 10 * 2 ^ 9 + h / 2 ^ 10 % 2 * 2 ^ 8 + h / 2 ^ 11 % 2 ^ 8) * 2 ^ 12 + rd * 2 ^ 7 + op
def kvType (f6 vs2 vs1 pg ew vd : Nat) : Nat := f6 * 2 ^ 26 + vs2 * 2 ^ 21 + vs1 * 2 ^ 16 + pg * 2 ^ 14 + ew * 2 ^ 12 + vd * 2 ^ 7 + 0x57
def kmType (mode pg f rs1 nt ew vd op : Nat) : Nat :=
  mode * 2 ^ 27 + pg * 2 ^ 25 + f * 2 ^ 20 + rs1 * 2 ^ 15 + nt * 2 ^ 14 + ew * 2 ^ 12 + vd * 2 ^ 7 + op

/-- The register-register operations of RV64I (04 R76). -/
theorem decode_rr_base : ∀ e ∈ [
    (rType 0x00 12 11 0 10 0x33, Instr.integerOp (.rr .add 10 11 12)),
    (rType 0x20 12 11 0 10 0x33, Instr.integerOp (.rr .sub 10 11 12)),
    (rType 0x00 12 11 1 10 0x33, Instr.integerOp (.rr .sll 10 11 12)),
    (rType 0x00 12 11 2 10 0x33, Instr.integerOp (.rr .slt 10 11 12)),
    (rType 0x00 12 11 3 10 0x33, Instr.integerOp (.rr .sltu 10 11 12)),
    (rType 0x00 12 11 4 10 0x33, Instr.integerOp (.rr .xor 10 11 12)),
    (rType 0x00 12 11 5 10 0x33, Instr.integerOp (.rr .srl 10 11 12)),
    (rType 0x20 12 11 5 10 0x33, Instr.integerOp (.rr .sra 10 11 12)),
    (rType 0x00 12 11 6 10 0x33, Instr.integerOp (.rr .or 10 11 12)),
    (rType 0x00 12 11 7 10 0x33, Instr.integerOp (.rr .and 10 11 12)),
    (rType 0x00 12 11 0 10 0x3B, Instr.integerOp (.rr .addw 10 11 12)),
    (rType 0x20 12 11 0 10 0x3B, Instr.integerOp (.rr .subw 10 11 12)),
    (rType 0x00 12 11 1 10 0x3B, Instr.integerOp (.rr .sllw 10 11 12)),
    (rType 0x00 12 11 5 10 0x3B, Instr.integerOp (.rr .srlw 10 11 12)),
    (rType 0x20 12 11 5 10 0x3B, Instr.integerOp (.rr .sraw 10 11 12))],
    decodeTableWord 32 e.1 = some e.2 := by decide +kernel

/-- M, Zba and the Zbb subset (04 R76). -/
theorem decode_rr_more : ∀ e ∈ [
    (rType 0x01 12 11 0 10 0x33, Instr.integerOp (.rr .mul 10 11 12)),
    (rType 0x01 12 11 1 10 0x33, Instr.integerOp (.rr .mulh 10 11 12)),
    (rType 0x01 12 11 2 10 0x33, Instr.integerOp (.rr .mulhsu 10 11 12)),
    (rType 0x01 12 11 3 10 0x33, Instr.integerOp (.rr .mulhu 10 11 12)),
    (rType 0x01 12 11 4 10 0x33, Instr.integerOp (.rr .div 10 11 12)),
    (rType 0x01 12 11 5 10 0x33, Instr.integerOp (.rr .divu 10 11 12)),
    (rType 0x01 12 11 6 10 0x33, Instr.integerOp (.rr .rem 10 11 12)),
    (rType 0x01 12 11 7 10 0x33, Instr.integerOp (.rr .remu 10 11 12)),
    (rType 0x01 12 11 0 10 0x3B, Instr.integerOp (.rr .mulw 10 11 12)),
    (rType 0x01 12 11 4 10 0x3B, Instr.integerOp (.rr .divw 10 11 12)),
    (rType 0x01 12 11 5 10 0x3B, Instr.integerOp (.rr .divuw 10 11 12)),
    (rType 0x01 12 11 6 10 0x3B, Instr.integerOp (.rr .remw 10 11 12)),
    (rType 0x01 12 11 7 10 0x3B, Instr.integerOp (.rr .remuw 10 11 12)),
    (rType 0x04 12 11 0 10 0x3B, Instr.integerOp (.rr .adduw 10 11 12)),
    (rType 0x10 12 11 2 10 0x33, Instr.integerOp (.rr .sh1add 10 11 12)),
    (rType 0x10 12 11 4 10 0x33, Instr.integerOp (.rr .sh2add 10 11 12)),
    (rType 0x10 12 11 6 10 0x33, Instr.integerOp (.rr .sh3add 10 11 12)),
    (rType 0x10 12 11 2 10 0x3B, Instr.integerOp (.rr .sh1adduw 10 11 12)),
    (rType 0x10 12 11 4 10 0x3B, Instr.integerOp (.rr .sh2adduw 10 11 12)),
    (rType 0x10 12 11 6 10 0x3B, Instr.integerOp (.rr .sh3adduw 10 11 12)),
    (rType 0x20 12 11 7 10 0x33, Instr.integerOp (.rr .andn 10 11 12)),
    (rType 0x20 12 11 6 10 0x33, Instr.integerOp (.rr .orn 10 11 12)),
    (rType 0x20 12 11 4 10 0x33, Instr.integerOp (.rr .xnor 10 11 12)),
    (rType 0x05 12 11 6 10 0x33, Instr.integerOp (.rr .max 10 11 12)),
    (rType 0x05 12 11 7 10 0x33, Instr.integerOp (.rr .maxu 10 11 12)),
    (rType 0x05 12 11 4 10 0x33, Instr.integerOp (.rr .min 10 11 12)),
    (rType 0x05 12 11 5 10 0x33, Instr.integerOp (.rr .minu 10 11 12)),
    (rType 0x30 12 11 1 10 0x33, Instr.integerOp (.rr .rol 10 11 12)),
    (rType 0x30 12 11 5 10 0x33, Instr.integerOp (.rr .ror 10 11 12))],
    decodeTableWord 32 e.1 = some e.2 := by decide +kernel

/-- The immediate and one-operand operations (04 R76). -/
theorem decode_imm : ∀ e ∈ [
    (iType 0x801 11 0 10 0x13, Instr.integerOp (.imm .addi 10 11 0x801)),
    (iType 0x801 11 2 10 0x13, Instr.integerOp (.imm .slti 10 11 0x801)),
    (iType 0x801 11 3 10 0x13, Instr.integerOp (.imm .sltiu 10 11 0x801)),
    (iType 0x801 11 4 10 0x13, Instr.integerOp (.imm .xori 10 11 0x801)),
    (iType 0x801 11 6 10 0x13, Instr.integerOp (.imm .ori 10 11 0x801)),
    (iType 0x801 11 7 10 0x13, Instr.integerOp (.imm .andi 10 11 0x801)),
    (iType 0x801 11 0 10 0x1B, Instr.integerOp (.imm .addiw 10 11 0x801)),
    (iType 0x021 11 1 10 0x13, Instr.integerOp (.sh6 .slli 10 11 33)),
    (iType 0x021 11 5 10 0x13, Instr.integerOp (.sh6 .srli 10 11 33)),
    (iType 0x421 11 5 10 0x13, Instr.integerOp (.sh6 .srai 10 11 33)),
    (iType 0x621 11 5 10 0x13, Instr.integerOp (.sh6 .rori 10 11 33)),
    (iType 0x0A1 11 1 10 0x1B, Instr.integerOp (.sh6 .slliuw 10 11 33)),
    (rType 0x00 17 11 1 10 0x1B, Instr.integerOp (.sh5 .slliw 10 11 17)),
    (rType 0x00 17 11 5 10 0x1B, Instr.integerOp (.sh5 .srliw 10 11 17)),
    (rType 0x20 17 11 5 10 0x1B, Instr.integerOp (.sh5 .sraiw 10 11 17)),
    (iType 0x600 11 1 10 0x13, Instr.integerOp (.un .clz 10 11)),
    (iType 0x601 11 1 10 0x13, Instr.integerOp (.un .ctz 10 11)),
    (iType 0x602 11 1 10 0x13, Instr.integerOp (.un .cpop 10 11)),
    (iType 0x604 11 1 10 0x13, Instr.integerOp (.un .sextb 10 11)),
    (iType 0x605 11 1 10 0x13, Instr.integerOp (.un .sexth 10 11)),
    (iType 0x600 11 1 10 0x1B, Instr.integerOp (.un .clzw 10 11)),
    (iType 0x601 11 1 10 0x1B, Instr.integerOp (.un .ctzw 10 11)),
    (iType 0x602 11 1 10 0x1B, Instr.integerOp (.un .cpopw 10 11)),
    (iType 0x6B8 11 5 10 0x13, Instr.integerOp (.un .rev8 10 11)),
    (iType 0x287 11 5 10 0x13, Instr.integerOp (.un .orcb 10 11)),
    (iType 0x080 11 4 10 0x3B, Instr.integerOp (.un .zexth 10 11))],
    decodeTableWord 32 e.1 = some e.2 := by decide +kernel

/-- Loads, stores, transfers, fences and the SYSTEM words of the base (04 R76 to R79). -/
theorem decode_base : ∀ e ∈ [
    (iType 0xFF8 11 0 10 0x03, Instr.load .lb 10 11 0xFF8),
    (iType 0xFF8 11 1 10 0x03, Instr.load .lh 10 11 0xFF8),
    (iType 0xFF8 11 2 10 0x03, Instr.load .lw 10 11 0xFF8),
    (iType 0xFF8 11 3 10 0x03, Instr.load .ld 10 11 0xFF8),
    (iType 0xFF8 11 4 10 0x03, Instr.load .lbu 10 11 0xFF8),
    (iType 0xFF8 11 5 10 0x03, Instr.load .lhu 10 11 0xFF8),
    (iType 0xFF8 11 6 10 0x03, Instr.load .lwu 10 11 0xFF8),
    (sType 0xFF8 12 11 0 0x23, Instr.store .sb 12 11 0xFF8),
    (sType 0xFF8 12 11 1 0x23, Instr.store .sh 12 11 0xFF8),
    (sType 0xFF8 12 11 2 0x23, Instr.store .sw 12 11 0xFF8),
    (sType 0xFF8 12 11 3 0x23, Instr.store .sd 12 11 0xFF8),
    (bType 0xFF9 12 11 0 0x63, Instr.branch .beq 11 12 0xFF9),
    (bType 0xFF9 12 11 1 0x63, Instr.branch .bne 11 12 0xFF9),
    (bType 0xFF9 12 11 4 0x63, Instr.branch .blt 11 12 0xFF9),
    (bType 0xFF9 12 11 5 0x63, Instr.branch .bge 11 12 0xFF9),
    (bType 0xFF9 12 11 6 0x63, Instr.branch .bltu 11 12 0xFF9),
    (bType 0xFF9 12 11 7 0x63, Instr.branch .bgeu 11 12 0xFF9),
    (0xABCDE * 2 ^ 12 + 10 * 2 ^ 7 + 0x37, Instr.lui 10 0xABCDE),
    (0xABCDE * 2 ^ 12 + 10 * 2 ^ 7 + 0x17, Instr.auipc 10 0xABCDE),
    (jType 0xFFFFA 1 0x6F, Instr.jal 1 0xFFFFA),
    (iType 0x7FC 11 0 1 0x67, Instr.jalr 1 11 0x7FC),
    (iType 0x0FF 0 0 0 0x0F, Instr.fence 0 15 15),
    (iType 0x833 0 0 0 0x0F, Instr.fence 8 3 3),
    (0x0000100F, Instr.fenceI),
    (0x00000073, Instr.ecall),
    (0x00100073, Instr.ebreak),
    (iType 0x804 11 1 10 0x73, Instr.csrrw 0x804 11 10),
    (iType 0x804 11 2 10 0x73, Instr.csrrs 0x804 11 10),
    (iType 0x804 11 3 10 0x73, Instr.csrrc 0x804 11 10),
    (iType 0x804 11 5 10 0x73, Instr.csrrwi 0x804 11 10),
    (iType 0x804 11 6 10 0x73, Instr.csrrsi 0x804 11 10),
    (iType 0x804 11 7 10 0x73, Instr.csrrci 0x804 11 10)],
    decodeTableWord 32 e.1 = some e.2 := by decide +kernel

/-- custom-0: control (04 R84). -/
theorem decode_control : ∀ e ∈ [
    (rType 0x00 3 11 0 0 0x0B, Instr.quit 11 3),
    (rType 0x01 0 0 0 0 0x0B, Instr.yield),
    (rType 0x02 12 11 0 10 0x0B, Instr.spawn 10 11 12),
    (rType 0x03 12 11 0 0 0x0B, Instr.fork 11 12),
    (rType 0x04 0 11 0 0 0x0B, Instr.join 11),
    (rType 0x05 0 11 0 10 0x0B, Instr.taskSub 10 11),
    (rType 0x06 0 11 0 10 0x0B, Instr.launch 10 11),
    (iType 0x7FF 11 1 0 0x0B, Instr.hl0 11 0x7FF),
    (iType 0x003 11 2 0 0x0B, Instr.hl1 11 3),
    (iType 0x003 31 3 0 0x0B, Instr.hl0i 31 3),
    (iType 0x003 6 4 0 0x0B, Instr.hl1i 6 3),
    (rType 0x00 0 11 5 15 0x0B, Instr.gSet 15 11),
    (rType 0x01 0 0 5 1 0x0B, Instr.gClr 1),
    (bType 0xFF9 3 7 6 0x0B, Instr.bEod 7 3 0xFF9),
    (bType 0x006 5 2 6 0x0B, Instr.bNeod 2 1 0x006),
    (0x0032300B, Instr.hl0i 4 3),
    (0xFE516C8B, Instr.bNeod 2 1 0xFFC)],
    decodeTableWord 32 e.1 = some e.2 := by decide +kernel

/-- custom-1: scoped accesses, AMOs, waits, fences, barriers, reservations and streams (04 R85 to R87). -/
theorem decode_ordering : ∀ e ∈ [
    (rType 0x6D 0 11 0 10 0x2B, Instr.lda { width := 3, scope := 3, rs2 := 0, rs1 := 11, rd := 10 }),
    (rType 0x47 0 11 0 10 0x2B, Instr.ldsc { width := 2, scope := 1, rs2 := 0, rs1 := 11, rd := 10 }),
    (rType 0x12 12 11 1 0 0x2B, Instr.stl { width := 0, scope := 4, rs2 := 12, rs1 := 11, rd := 0 }),
    (rType 0x23 12 11 1 0 0x2B, Instr.stsc { width := 1, scope := 0, rs2 := 12, rs1 := 11, rd := 0 }),
    (rType 0x07 12 11 2 10 0x2B, Instr.amoAdd { scope := 7, rs2 := 12, rs1 := 11, dbl := false, rd := 10 }),
    (rType 0x08 12 11 3 10 0x2B, Instr.amoAnd { scope := 0, rs2 := 12, rs1 := 11, dbl := true, rd := 10 }),
    (rType 0x11 12 11 2 10 0x2B, Instr.amoOr { scope := 1, rs2 := 12, rs1 := 11, dbl := false, rd := 10 }),
    (rType 0x1A 12 11 3 10 0x2B, Instr.amoXor { scope := 2, rs2 := 12, rs1 := 11, dbl := true, rd := 10 }),
    (rType 0x23 12 11 2 10 0x2B, Instr.amoMin { scope := 3, rs2 := 12, rs1 := 11, dbl := false, rd := 10 }),
    (rType 0x2C 12 11 3 10 0x2B, Instr.amoMax { scope := 4, rs2 := 12, rs1 := 11, dbl := true, rd := 10 }),
    (rType 0x37 12 11 2 10 0x2B, Instr.amoMinu { scope := 7, rs2 := 12, rs1 := 11, dbl := false, rd := 10 }),
    (rType 0x38 12 11 3 10 0x2B, Instr.amoMaxu { scope := 0, rs2 := 12, rs1 := 11, dbl := true, rd := 10 }),
    (rType 0x41 12 11 2 10 0x2B, Instr.amoSwap { scope := 1, rs2 := 12, rs1 := 11, dbl := false, rd := 10 }),
    (rType 0x4A 12 11 3 10 0x2B, Instr.amoCas { scope := 2, rs2 := 12, rs1 := 11, dbl := true, rd := 10 }),
    (rType 0x53 12 11 2 10 0x2B, Instr.amoFadd { scope := 3, rs2 := 12, rs1 := 11, dbl := false, rd := 10 }),
    (rType 0x5C 12 11 3 10 0x2B, Instr.amoFmax { scope := 4, rs2 := 12, rs1 := 11, dbl := true, rd := 10 }),
    (rType 0x67 12 11 2 10 0x2B, Instr.amoFmin { scope := 7, rs2 := 12, rs1 := 11, dbl := false, rd := 10 }),
    (rType 0x00 12 11 4 10 0x2B, Instr.waitNe 10 12 11),
    (rType 0x01 12 11 4 10 0x2B, Instr.waitEq 10 12 11),
    (rType 0x02 2 0 4 0 0x2B, Instr.fenceAcq 2),
    (rType 0x03 3 0 4 0 0x2B, Instr.fenceRel 3),
    (rType 0x04 1 0 4 0 0x2B, Instr.fenceAr 1),
    (rType 0x05 4 0 4 0 0x2B, Instr.fenceSc 4),
    (rType 0x08 12 11 4 0 0x2B, Instr.barInit 11 12),
    (rType 0x09 12 11 4 10 0x2B, Instr.barArrive 10 11 12),
    (rType 0x0A 12 11 4 0 0x2B, Instr.barWait 11 12),
    (rType 0x0B 0 11 4 10 0x2B, Instr.barAw 10 11),
    (rType 0x00 0 11 5 31 0x2B, Instr.resAcq 31 11),
    (rType 0x01 12 11 5 31 0x2B, Instr.resRel 31 11 12),
    (rType 0x00 0 11 6 7 0x2B, Instr.qBind 7 11),
    (rType 0x01 0 7 6 10 0x2B, Instr.qPop 10 7),
    (rType 0x02 0 11 6 7 0x2B, Instr.qPush 7 11),
    (rType 0x03 0 7 6 31 0x2B, Instr.vqPop 31 7),
    (rType 0x04 0 31 6 7 0x2B, Instr.vqPush 7 31),
    (rType 0x05 0 7 6 10 0x2B, Instr.qStat 10 7),
    (rType 0x06 0 0 6 7 0x2B, Instr.qClose 7)],
    decodeTableWord 32 e.1 = some e.2 := by decide +kernel

/-- custom-2 and custom-3: engines and system (04 R88, R89). -/
theorem decode_engines_system : ∀ e ∈ [
    (rType 0x00 1 8 0 0 0x5B, Instr.mxIssue 8 1),
    (rType 0x00 3 8 1 0 0x5B, Instr.cpIssue 8 3),
    (rType 0x00 0 11 2 10 0x5B, Instr.collPost 10 11),
    (rType 0x00 8 11 3 0 0x5B, Instr.redSend 8 11),
    (rType 0x01 0 11 3 8 0x5B, Instr.redRecv 8 11),
    (rType 0x00 12 11 0 0 0x7B, Instr.wbCfg 11 12),
    (rType 0x01 0 11 0 10 0x7B, Instr.wbRd 10 11),
    (rType 0x02 0 11 0 0 0x7B, Instr.wbClr 11),
    (rType 0x03 0 11 0 0 0x7B, Instr.wbAck 11),
    (rType 0x00 0 11 1 0 0x7B, Instr.cenMode 11),
    (rType 0x01 0 11 1 0 0x7B, Instr.cenBuf 11),
    (rType 0x02 0 11 1 10 0x7B, Instr.cenRd 10 11),
    (rType 0x00 4 0 2 0 0x7B, Instr.icInv 4),
    (rType 0x01 12 11 2 1 0x7B, Instr.icPin 11 12 1),
    (rType 0x02 12 11 2 0 0x7B, Instr.icUnpin 11 12),
    (rType 0x03 12 11 2 1 0x7B, Instr.icPf 11 12 1),
    (rType 0x04 12 11 2 0 0x7B, Instr.spPin 11 12),
    (rType 0x05 12 11 2 0 0x7B, Instr.spUnpin 11 12),
    (rType 0x06 12 11 2 0 0x7B, Instr.spFlush 11 12),
    (rType 0x07 2 11 2 0 0x7B, Instr.tlbInv 11 2),
    (rType 0x00 0 11 3 0 0x7B, Instr.contResume 11),
    (rType 0x01 0 11 3 0 0x7B, Instr.contSkip 11),
    (rType 0x02 0 11 3 0 0x7B, Instr.contKill 11),
    (rType 0x03 12 11 3 0 0x7B, Instr.contMove 11 12),
    (rType 0x04 12 11 3 0 0x7B, Instr.mbBind 11 12),
    (rType 0x05 0 11 3 0 0x7B, Instr.mbUnbind 11),
    (iType 0xABC 0 4 0 0x7B, Instr.trcMark 0xABC)],
    decodeTableWord 32 e.1 = some e.2 := by decide +kernel

/-- OP-V, funct6 0x00 to 0x1F (04 R90, R91). -/
theorem decode_vector_integer : ∀ e ∈ [
    (kvType 0x00 21 9 2 3 30, Instr.vadd { vs2 := 21, vs1 := 9, pg := 2, ew := 3, vd := 30 }),
    (kvType 0x01 21 9 2 3 30, Instr.vsub { vs2 := 21, vs1 := 9, pg := 2, ew := 3, vd := 30 }),
    (kvType 0x02 21 9 2 3 30, Instr.vmul { vs2 := 21, vs1 := 9, pg := 2, ew := 3, vd := 30 }),
    (kvType 0x03 21 9 2 3 30, Instr.vmulh { vs2 := 21, vs1 := 9, pg := 2, ew := 3, vd := 30 }),
    (kvType 0x04 21 9 2 3 30, Instr.vmulhu { vs2 := 21, vs1 := 9, pg := 2, ew := 3, vd := 30 }),
    (kvType 0x05 21 9 2 3 30, Instr.vmin { vs2 := 21, vs1 := 9, pg := 2, ew := 3, vd := 30 }),
    (kvType 0x06 21 9 2 3 30, Instr.vmax { vs2 := 21, vs1 := 9, pg := 2, ew := 3, vd := 30 }),
    (kvType 0x07 21 9 2 3 30, Instr.vminu { vs2 := 21, vs1 := 9, pg := 2, ew := 3, vd := 30 }),
    (kvType 0x08 21 9 2 3 30, Instr.vmaxu { vs2 := 21, vs1 := 9, pg := 2, ew := 3, vd := 30 }),
    (kvType 0x09 21 9 2 3 30, Instr.vand { vs2 := 21, vs1 := 9, pg := 2, ew := 3, vd := 30 }),
    (kvType 0x0A 21 9 2 3 30, Instr.vor { vs2 := 21, vs1 := 9, pg := 2, ew := 3, vd := 30 }),
    (kvType 0x0B 21 9 2 3 30, Instr.vxor { vs2 := 21, vs1 := 9, pg := 2, ew := 3, vd := 30 }),
    (kvType 0x0C 21 9 2 3 30, Instr.vsll { vs2 := 21, vs1 := 9, pg := 2, ew := 3, vd := 30 }),
    (kvType 0x0D 21 9 2 3 30, Instr.vsrl { vs2 := 21, vs1 := 9, pg := 2, ew := 3, vd := 30 }),
    (kvType 0x0E 21 9 2 3 30, Instr.vsra { vs2 := 21, vs1 := 9, pg := 2, ew := 3, vd := 30 }),
    (kvType 0x0F 21 9 2 3 30, Instr.vsel { vs2 := 21, vs1 := 9, pg := 2, ew := 3, vd := 30 }),
    (kvType 0x10 21 9 2 3 30, Instr.vaddVx { vs2 := 21, vs1 := 9, pg := 2, ew := 3, vd := 30 }),
    (kvType 0x11 21 9 2 3 30, Instr.vsubVx { vs2 := 21, vs1 := 9, pg := 2, ew := 3, vd := 30 }),
    (kvType 0x12 21 9 2 3 30, Instr.vmulVx { vs2 := 21, vs1 := 9, pg := 2, ew := 3, vd := 30 }),
    (kvType 0x13 21 9 2 3 30, Instr.vandVx { vs2 := 21, vs1 := 9, pg := 2, ew := 3, vd := 30 }),
    (kvType 0x14 21 9 2 3 30, Instr.vsllVx { vs2 := 21, vs1 := 9, pg := 2, ew := 3, vd := 30 }),
    (kvType 0x15 21 9 2 3 30, Instr.vsrlVx { vs2 := 21, vs1 := 9, pg := 2, ew := 3, vd := 30 }),
    (kvType 0x16 21 9 2 3 30, Instr.vsraVx { vs2 := 21, vs1 := 9, pg := 2, ew := 3, vd := 30 }),
    (kvType 0x17 0 9 2 3 30, Instr.vmvVx { vs2 := 0, vs1 := 9, pg := 2, ew := 3, vd := 30 }),
    (kvType 0x18 21 9 2 3 3, Instr.vseq { vs2 := 21, vs1 := 9, pg := 2, ew := 3, vd := 3 }),
    (kvType 0x19 21 9 2 3 3, Instr.vsne { vs2 := 21, vs1 := 9, pg := 2, ew := 3, vd := 3 }),
    (kvType 0x1A 21 9 2 3 3, Instr.vslt { vs2 := 21, vs1 := 9, pg := 2, ew := 3, vd := 3 }),
    (kvType 0x1B 21 9 2 3 3, Instr.vsltu { vs2 := 21, vs1 := 9, pg := 2, ew := 3, vd := 3 }),
    (kvType 0x1C 21 9 2 3 3, Instr.vsle { vs2 := 21, vs1 := 9, pg := 2, ew := 3, vd := 3 }),
    (kvType 0x1D 21 9 2 3 3, Instr.vsleu { vs2 := 21, vs1 := 9, pg := 2, ew := 3, vd := 3 }),
    (kvType 0x1E 21 9 2 3 3, Instr.vseqVx { vs2 := 21, vs1 := 9, pg := 2, ew := 3, vd := 3 }),
    (kvType 0x1F 21 9 2 3 3, Instr.vsltVx { vs2 := 21, vs1 := 9, pg := 2, ew := 3, vd := 3 })],
    decodeTableWord 32 e.1 = some e.2 := by decide +kernel

/-- OP-V, funct6 0x20 to 0x3F (04 R90, R91). -/
theorem decode_vector_float : ∀ e ∈ [
    (kvType 0x20 21 9 2 3 30, Instr.vfadd { vs2 := 21, vs1 := 9, pg := 2, ew := 3, vd := 30 }),
    (kvType 0x21 21 9 2 3 30, Instr.vfsub { vs2 := 21, vs1 := 9, pg := 2, ew := 3, vd := 30 }),
    (kvType 0x22 21 9 2 3 30, Instr.vfmul { vs2 := 21, vs1 := 9, pg := 2, ew := 3, vd := 30 }),
    (kvType 0x23 21 9 2 3 30, Instr.vfma { vs2 := 21, vs1 := 9, pg := 2, ew := 3, vd := 30 }),
    (kvType 0x24 21 9 2 3 30, Instr.vfnma { vs2 := 21, vs1 := 9, pg := 2, ew := 3, vd := 30 }),
    (kvType 0x25 21 9 2 3 30, Instr.vfmin { vs2 := 21, vs1 := 9, pg := 2, ew := 3, vd := 30 }),
    (kvType 0x26 21 9 2 3 30, Instr.vfmax { vs2 := 21, vs1 := 9, pg := 2, ew := 3, vd := 30 }),
    (kvType 0x27 21 9 2 3 30, Instr.vfdiv { vs2 := 21, vs1 := 9, pg := 2, ew := 3, vd := 30 }),
    (kvType 0x28 21 0 2 3 30, Instr.vfsqrt { vs2 := 21, vs1 := 0, pg := 2, ew := 3, vd := 30 }),
    (kvType 0x29 21 0 2 3 30, Instr.vfrcp { vs2 := 21, vs1 := 0, pg := 2, ew := 3, vd := 30 }),
    (kvType 0x2A 21 0 2 3 30, Instr.vfexp2 { vs2 := 21, vs1 := 0, pg := 2, ew := 3, vd := 30 }),
    (kvType 0x2B 21 0 2 3 30, Instr.vflog2 { vs2 := 21, vs1 := 0, pg := 2, ew := 3, vd := 30 }),
    (kvType 0x2C 5 9 2 3 30, Instr.vfcvt { vs2 := 5, vs1 := 9, pg := 2, ew := 3, vd := 30 }),
    (kvType 0x2D 21 9 2 3 3, Instr.vfeq { vs2 := 21, vs1 := 9, pg := 2, ew := 3, vd := 3 }),
    (kvType 0x2E 21 9 2 3 3, Instr.vflt { vs2 := 21, vs1 := 9, pg := 2, ew := 3, vd := 3 }),
    (kvType 0x2F 21 9 2 3 3, Instr.vfle { vs2 := 21, vs1 := 9, pg := 2, ew := 3, vd := 3 }),
    (kvType 0x30 21 9 2 3 30, Instr.vfaddVx { vs2 := 21, vs1 := 9, pg := 2, ew := 3, vd := 30 }),
    (kvType 0x31 21 9 2 3 30, Instr.vfmulVx { vs2 := 21, vs1 := 9, pg := 2, ew := 3, vd := 30 }),
    (kvType 0x32 21 9 2 3 30, Instr.vfmaVx { vs2 := 21, vs1 := 9, pg := 2, ew := 3, vd := 30 }),
    (kvType 0x33 21 9 2 3 30, Instr.vfmaxVx { vs2 := 21, vs1 := 9, pg := 2, ew := 3, vd := 30 }),
    (kvType 0x34 21 0 2 3 30, Instr.vredsum { vs2 := 21, vs1 := 0, pg := 2, ew := 3, vd := 30 }),
    (kvType 0x35 21 0 2 3 30, Instr.vredmax { vs2 := 21, vs1 := 0, pg := 2, ew := 3, vd := 30 }),
    (kvType 0x36 21 0 2 3 30, Instr.vredmin { vs2 := 21, vs1 := 0, pg := 2, ew := 3, vd := 30 }),
    (kvType 0x37 21 0 2 3 30, Instr.vfredsum { vs2 := 21, vs1 := 0, pg := 2, ew := 3, vd := 30 }),
    (kvType 0x38 21 0 2 3 30, Instr.vfredmax { vs2 := 21, vs1 := 0, pg := 2, ew := 3, vd := 30 }),
    (kvType 0x39 21 0 2 3 30, Instr.vfredmin { vs2 := 21, vs1 := 0, pg := 2, ew := 3, vd := 30 }),
    (kvType 0x3A 21 9 2 3 30, Instr.vperm { vs2 := 21, vs1 := 9, pg := 2, ew := 3, vd := 30 }),
    (kvType 0x3B 21 9 2 3 30, Instr.vslide { vs2 := 21, vs1 := 9, pg := 2, ew := 3, vd := 30 }),
    (kvType 0x3C 0 0 2 3 30, Instr.viota { vs2 := 0, vs1 := 0, pg := 2, ew := 3, vd := 30 }),
    (kvType 0x3D 15 9 2 3 30, Instr.vmvXv { vs2 := 15, vs1 := 9, pg := 2, ew := 3, vd := 30 }),
    (kvType 0x3E 6 3 2 0 1, Instr.vpred { vs2 := 6, vs1 := 3, pg := 2, ew := 0, vd := 1 }),
    (kvType 0x3F 0 0 2 3 30, Instr.vpcnt { vs2 := 0, vs1 := 0, pg := 2, ew := 3, vd := 30 })],
    decodeTableWord 32 e.1 = some e.2 := by decide +kernel

/-- LOAD-FP and STORE-FP (04 R92). -/
theorem decode_vector_memory : ∀ e ∈ [
    (kmType 0 2 0 11 0 2 31 0x07, Instr.vld { pg := 2, f := 0, rs1 := 11, nt := false, ew := 2, vd := 31 }),
    (kmType 0 2 0 11 0 2 31 0x27, Instr.vst { pg := 2, f := 0, rs1 := 11, nt := false, ew := 2, vd := 31 }),
    (kmType 1 2 12 11 1 2 31 0x07, Instr.vlds { pg := 2, f := 12, rs1 := 11, nt := true, ew := 2, vd := 31 }),
    (kmType 1 2 12 11 1 2 31 0x27, Instr.vsts { pg := 2, f := 12, rs1 := 11, nt := true, ew := 2, vd := 31 }),
    (kmType 2 2 12 11 0 2 31 0x07, Instr.vldx { pg := 2, f := 12, rs1 := 11, nt := false, ew := 2, vd := 31 }),
    (kmType 2 2 12 11 0 2 31 0x27, Instr.vstx { pg := 2, f := 12, rs1 := 11, nt := false, ew := 2, vd := 31 }),
    (kmType 3 2 0 11 1 2 31 0x07, Instr.vldb { pg := 2, f := 0, rs1 := 11, nt := true, ew := 2, vd := 31 }),
    (kmType 3 2 0 11 1 2 31 0x27, Instr.vstb { pg := 2, f := 0, rs1 := 11, nt := true, ew := 2, vd := 31 })],
    decodeTableWord 32 e.1 = some e.2 := by decide +kernel

/-- Words that the spec writes out whole. -/
theorem decode_spec_examples : ∀ e ∈ [
    (0x0035800B, Instr.quit 11 3),
    (0x0A40402B, Instr.fenceSc 4),
    (0x1264C2AB, Instr.barArrive 5 9 6),
    (0x0005C3AB, Instr.waitNe 7 0 11),
    (0x0004105B, Instr.cpIssue 8 0),
    (0xB0E422D7, Instr.vfcvt { vs2 := 7, vs1 := 4, pg := 0, ew := 2, vd := 5 }),
    (0x0C656207, Instr.vlds { pg := 2, f := 6, rs1 := 10, nt := true, ew := 2, vd := 4 }),
    (0x0203907B, Instr.cenBuf 7)],
    decodeTableWord 32 e.1 = some e.2 := by decide +kernel

/-- Words that decode to nothing (04 R76 to R93). -/
theorem decode_refuses : ∀ w ∈ [
    0x00000000,
    0xFFFFFFFF,
    rType 0x60 12 11 1 10 0x3B /- rolw -/,
    rType 0x07 0 0 0 0 0x0B /- custom-0 funct7 7 -/,
    rType 0x00 5 11 0 0 0x0B /- quit with scope 5 -/,
    rType 0x01 0 11 0 0 0x0B /- yield with rs1 -/,
    iType 0x000 11 1 0 0x0B /- hl0 of length 0 -/,
    iType 0x800 11 1 0 0x0B /- bit 11 of a length -/,
    rType 0x00 0 11 5 0 0x0B /- g0 -/,
    rType 0x68 12 11 2 10 0x2B /- AMO code 13 -/,
    rType 0x05 12 11 2 10 0x2B /- AMO scope 5 -/,
    rType 0x06 0 0 4 0 0x2B /- custom-1 100 funct7 6 -/,
    rType 0x00 0 11 6 8 0x2B /- q8 -/,
    rType 0x00 4 8 0 0 0x5B /- sel beyond 2 bits -/,
    rType 0x08 0 11 2 0 0x7B /- custom-3 010 funct7 8 -/,
    rType 0x01 12 11 2 2 0x7B /- cache level 2 -/,
    kvType 0x20 2 1 0 0 3 /- vfadd of bytes -/,
    kvType 0x18 2 1 0 2 0 /- a compare to p0 -/,
    kvType 0x3D 16 1 0 3 3 /- lane 16 of d -/,
    kvType 0x2C 28 1 0 2 3 /- conversion 28 -/,
    kvType 0x3E 7 1 0 0 1 /- vpred 7 -/,
    kmType 4 0 0 11 0 2 1 0x07 /- mode 4 -/,
    kmType 0 0 1 11 0 2 1 0x07 /- unit mode with rs2 -/,
    kmType 2 0 1 11 0 1 1 0x07 /- offsets of 16 bits -/,
    2 ^ 30 + kmType 0 0 0 11 0 2 1 0x07 /- bit 30 -/,
    iType 0x100 0 0 0 0x0F /- FENCE with fm 1 -/,
    0x10200073 /- SRET -/,
    0x30200073 /- MRET -/],
    decodeTableWord 32 w = none := by decide +kernel

/-- Ill-formed terms, each of which its field rule refuses (04 R81 to R92). -/
theorem wf_refuses_scalar : ∀ i ∈ ([
    .fence 1 0 0,
    .quit 1 5,
    .hl0 1 0,
    .hl1 1 0x800,
    .hl0i 1 0,
    .hl1i 1 0xFFF,
    .gSet 0 1,
    .gSet 16 1,
    .gClr 0,
    .bEod 8 0 0,
    .bNeod 8 0 0,
    .lda { width := 3, scope := 5, rs2 := 0, rs1 := 1, rd := 1 },
    .lda { width := 3, scope := 0, rs2 := 1, rs1 := 1, rd := 1 },
    .ldsc { width := 3, scope := 6, rs2 := 0, rs1 := 1, rd := 1 },
    .stl { width := 3, scope := 7, rs2 := 1, rs1 := 1, rd := 0 },
    .stl { width := 3, scope := 0, rs2 := 1, rs1 := 1, rd := 1 },
    .stsc { width := 3, scope := 5, rs2 := 1, rs1 := 1, rd := 0 },
    .amoAdd { scope := 5, rs2 := 1, rs1 := 1, dbl := true, rd := 1 },
    .amoAnd { scope := 5, rs2 := 1, rs1 := 1, dbl := true, rd := 1 },
    .amoOr { scope := 5, rs2 := 1, rs1 := 1, dbl := true, rd := 1 },
    .amoXor { scope := 5, rs2 := 1, rs1 := 1, dbl := true, rd := 1 },
    .amoMin { scope := 5, rs2 := 1, rs1 := 1, dbl := true, rd := 1 },
    .amoMax { scope := 5, rs2 := 1, rs1 := 1, dbl := true, rd := 1 },
    .amoMinu { scope := 5, rs2 := 1, rs1 := 1, dbl := true, rd := 1 },
    .amoMaxu { scope := 5, rs2 := 1, rs1 := 1, dbl := true, rd := 1 },
    .amoSwap { scope := 5, rs2 := 1, rs1 := 1, dbl := true, rd := 1 },
    .amoCas { scope := 5, rs2 := 1, rs1 := 1, dbl := true, rd := 1 },
    .amoFadd { scope := 5, rs2 := 1, rs1 := 1, dbl := true, rd := 1 },
    .amoFmax { scope := 5, rs2 := 1, rs1 := 1, dbl := true, rd := 1 },
    .amoFmin { scope := 5, rs2 := 1, rs1 := 1, dbl := true, rd := 1 },
    .fenceAcq 5,
    .fenceRel 31,
    .fenceAr 5,
    .fenceSc 5,
    .qBind 8 1,
    .qPop 1 8,
    .qPush 8 1,
    .vqPop 1 8,
    .vqPush 8 1,
    .qStat 1 8,
    .qClose 8,
    .icInv 5,
    .icPin 1 2 2,
    .icPf 1 2 2,
    .tlbInv 1 5] : List Instr), i.wf = false := by decide +kernel

/-- Ill-formed terms, each of which its field rule refuses (04 R81 to R92). -/
theorem wf_refuses_vector : ∀ i ∈ ([
    .vmvVx { vs2 := 1, vs1 := 0, pg := 0, ew := 2, vd := 1 },
    .vseq { vs2 := 0, vs1 := 0, pg := 0, ew := 2, vd := 0 },
    .vsne { vs2 := 0, vs1 := 0, pg := 0, ew := 2, vd := 4 },
    .vslt { vs2 := 0, vs1 := 0, pg := 0, ew := 2, vd := 0 },
    .vsltu { vs2 := 0, vs1 := 0, pg := 0, ew := 2, vd := 4 },
    .vsle { vs2 := 0, vs1 := 0, pg := 0, ew := 2, vd := 0 },
    .vsleu { vs2 := 0, vs1 := 0, pg := 0, ew := 2, vd := 4 },
    .vseqVx { vs2 := 0, vs1 := 0, pg := 0, ew := 2, vd := 0 },
    .vsltVx { vs2 := 0, vs1 := 0, pg := 0, ew := 2, vd := 4 },
    .vfeq { vs2 := 0, vs1 := 0, pg := 0, ew := 2, vd := 0 },
    .vflt { vs2 := 0, vs1 := 0, pg := 0, ew := 2, vd := 4 },
    .vfle { vs2 := 0, vs1 := 0, pg := 0, ew := 2, vd := 0 },
    .vfadd { vs2 := 0, vs1 := 0, pg := 0, ew := 0, vd := 1 },
    .vfsub { vs2 := 0, vs1 := 0, pg := 0, ew := 0, vd := 1 },
    .vfmul { vs2 := 0, vs1 := 0, pg := 0, ew := 0, vd := 1 },
    .vfma { vs2 := 0, vs1 := 0, pg := 0, ew := 0, vd := 1 },
    .vfnma { vs2 := 0, vs1 := 0, pg := 0, ew := 0, vd := 1 },
    .vfmin { vs2 := 0, vs1 := 0, pg := 0, ew := 0, vd := 1 },
    .vfmax { vs2 := 0, vs1 := 0, pg := 0, ew := 0, vd := 1 },
    .vfdiv { vs2 := 0, vs1 := 0, pg := 0, ew := 0, vd := 1 },
    .vfsqrt { vs2 := 0, vs1 := 0, pg := 0, ew := 0, vd := 1 },
    .vfrcp { vs2 := 0, vs1 := 0, pg := 0, ew := 0, vd := 1 },
    .vfexp2 { vs2 := 0, vs1 := 0, pg := 0, ew := 0, vd := 1 },
    .vflog2 { vs2 := 0, vs1 := 0, pg := 0, ew := 0, vd := 1 },
    .vfeq { vs2 := 0, vs1 := 0, pg := 0, ew := 0, vd := 1 },
    .vflt { vs2 := 0, vs1 := 0, pg := 0, ew := 0, vd := 1 },
    .vfle { vs2 := 0, vs1 := 0, pg := 0, ew := 0, vd := 1 },
    .vfaddVx { vs2 := 0, vs1 := 0, pg := 0, ew := 0, vd := 1 },
    .vfmulVx { vs2 := 0, vs1 := 0, pg := 0, ew := 0, vd := 1 },
    .vfmaVx { vs2 := 0, vs1 := 0, pg := 0, ew := 0, vd := 1 },
    .vfmaxVx { vs2 := 0, vs1 := 0, pg := 0, ew := 0, vd := 1 },
    .vfredsum { vs2 := 0, vs1 := 0, pg := 0, ew := 0, vd := 1 },
    .vfredmax { vs2 := 0, vs1 := 0, pg := 0, ew := 0, vd := 1 },
    .vfredmin { vs2 := 0, vs1 := 0, pg := 0, ew := 0, vd := 1 },
    .vfsqrt { vs2 := 0, vs1 := 1, pg := 0, ew := 2, vd := 1 },
    .vfrcp { vs2 := 0, vs1 := 1, pg := 0, ew := 2, vd := 1 },
    .vfexp2 { vs2 := 0, vs1 := 1, pg := 0, ew := 2, vd := 1 },
    .vflog2 { vs2 := 0, vs1 := 1, pg := 0, ew := 2, vd := 1 },
    .vredsum { vs2 := 0, vs1 := 1, pg := 0, ew := 2, vd := 1 },
    .vredmax { vs2 := 0, vs1 := 1, pg := 0, ew := 2, vd := 1 },
    .vredmin { vs2 := 0, vs1 := 1, pg := 0, ew := 2, vd := 1 },
    .vfredsum { vs2 := 0, vs1 := 1, pg := 0, ew := 2, vd := 1 },
    .vfredmax { vs2 := 0, vs1 := 1, pg := 0, ew := 2, vd := 1 },
    .vfredmin { vs2 := 0, vs1 := 1, pg := 0, ew := 2, vd := 1 },
    .viota { vs2 := 0, vs1 := 1, pg := 0, ew := 2, vd := 1 },
    .vpcnt { vs2 := 0, vs1 := 1, pg := 0, ew := 2, vd := 1 },
    .vfcvt { vs2 := 28, vs1 := 0, pg := 0, ew := 2, vd := 1 },
    .vfcvt { vs2 := 4, vs1 := 0, pg := 0, ew := 2, vd := 1 },
    .viota { vs2 := 1, vs1 := 0, pg := 0, ew := 2, vd := 1 },
    .vmvXv { vs2 := 16, vs1 := 0, pg := 0, ew := 3, vd := 1 },
    .vpred { vs2 := 0, vs1 := 0, pg := 0, ew := 1, vd := 1 },
    .vpred { vs2 := 0, vs1 := 4, pg := 0, ew := 0, vd := 1 },
    .vpred { vs2 := 7, vs1 := 0, pg := 0, ew := 0, vd := 1 },
    .vpred { vs2 := 0, vs1 := 0, pg := 0, ew := 0, vd := 0 },
    .vpcnt { vs2 := 1, vs1 := 0, pg := 0, ew := 2, vd := 1 },
    .vld { pg := 0, f := 1, rs1 := 1, nt := false, ew := 2, vd := 1 },
    .vldx { pg := 0, f := 0, rs1 := 1, nt := false, ew := 1, vd := 1 },
    .vldb { pg := 0, f := 1, rs1 := 1, nt := false, ew := 2, vd := 1 },
    .vst { pg := 0, f := 1, rs1 := 1, nt := false, ew := 2, vd := 1 },
    .vstx { pg := 0, f := 0, rs1 := 1, nt := false, ew := 0, vd := 1 },
    .vstb { pg := 0, f := 1, rs1 := 1, nt := false, ew := 2, vd := 1 }] : List Instr), i.wf = false := by decide +kernel

/-! ## Scalar instructions: states that meet the hypotheses, and one step each -/

/-- The boundary values of the clauses of UpperAndTransferResult: a target that is a multiple of 4 and one that is not; a branch taken and one not. -/
theorem witness_transfer :
    (word programBase + BitVec.ofInt 64 ((2 : BitVec 20).toInt * 2)).toNat % 4 = 0 ∧
    (word programBase + BitVec.ofInt 64 ((1 : BitVec 20).toInt * 2)).toNat % 4 ≠ 0 ∧
    ((4 : Word) + BitVec.ofInt 64 (3 : BitVec 12).toInt &&& ~~~1#64).toNat % 4 ≠ 0 ∧
    Taken .beq 0 0 ∧ ¬Taken .bne 0 0 := by
  unfold Taken; decide

theorem test_add_wraps : xAfter (.integerOp (.rr .add 10 11 11)) (on (thr [(11, 2 ^ 63)])) 10 = some 0 := by decide +kernel
theorem test_mulhsu : xAfter (.integerOp (.rr .mulhsu 10 11 12)) (on (thr [(11, -1), (12, -1)])) 10 = some (-1) := by decide +kernel
theorem test_div_by_zero : xAfter (.integerOp (.rr .div 10 11 0)) (on (thr [(11, 5)])) 10 = some (-1) := by decide +kernel
theorem test_divw_overflow :
    xAfter (.integerOp (.rr .divw 10 11 12)) (on (thr [(11, 0x80000000), (12, -1)])) 10 = some 0xFFFFFFFF80000000 := by decide +kernel
theorem test_addiw_sign : xAfter (.integerOp (.imm .addiw 10 11 1)) (on (thr [(11, 0x7FFFFFFF)])) 10 = some 0xFFFFFFFF80000000 := by
  decide +kernel
theorem test_rori : xAfter (.integerOp (.sh6 .rori 10 11 4)) (on (thr [(11, 0x12)])) 10 = some 0x2000000000000001 := by decide +kernel
theorem test_orcb : xAfter (.integerOp (.un .orcb 10 11)) (on (thr [(11, 0x0100200000000001)])) 10 = some 0xFF00FF00000000FF := by
  decide +kernel
theorem test_lui_sign : xAfter (.lui 10 0x80000) (on (thr [])) 10 = some 0xFFFFFFFF80000000 := by decide +kernel
theorem test_auipc : xAfter (.auipc 10 1) (on (thr [])) 10 = some (word (programBase + 4096)) := by decide +kernel
theorem test_jal : pcAfter (.jal 1 4) (on (thr [])) = some (word (programBase + 8)) := by decide +kernel
theorem test_jalr_clears_bit0 : pcAfter (.jalr 0 11 1) (on (thr [(11, 0x1000)])) = some 0x1000 := by decide +kernel
theorem test_jalr_misaligned : Traps (.jalr 1 11 2) (thr [(11, 0x1000)]) 0 0x1002 := rfl
theorem test_branch_bltu : pcAfter (.branch .bltu 0 11 0xFFC) (on (thr [(11, 1)])) = some (word (programBase - 8)) := by decide +kernel

/-- HardwareLoopResult: loop 0 free, loop 1 free inside loop 0, and neither. -/
def looping : Thread := { thr [(10, 3)] with
  hl0 := { remaining := 2, start := word (programBase - 4), stop := word (programBase + 8) } }

theorem witness_loop0 :
    Issues (on (thr [(10, 3)])) (thr [(10, 3)]) ∧ (thr [(10, 3)]).hl0.remaining = 0 ∧ (thr [(10, 3)]).hl1.remaining = 0 :=
  ⟨witness_issues _ _ rfl, rfl, rfl⟩

theorem witness_loop1 :
    Issues (on looping) looping ∧ looping.hl0.remaining ≠ 0 ∧ looping.hl1.remaining = 0 ∧ looping.hl0.start.toNat ≤ looping.pc.toNat ∧
    (looping.pc + word (4 * 2)).toNat ≤ looping.hl0.stop.toNat ∧ looping.pc + word (4 * 2) = looping.hl0.stop ∧
    looping.pc + word (4 * 1) ≠ looping.hl0.stop ∧ (looping.getX 10).setWidth 32 ≠ (0 : BitVec 32) ∧
    ¬(looping.hl0.remaining = 0 ∧ looping.hl1.remaining = 0) :=
  ⟨witness_issues _ _ rfl, by decide +kernel⟩

/-- The loop-back rule at the end of both loops at once: loop 1 is tested first, and its last pass falls through to loop 0 (05 R108). -/
def bothEnds (n : BitVec 32) : Thread := { thr [] with
  hl0 := { remaining := 2, start := 0x100, stop := word programBase }, hl1 := { remaining := n, start := 0x104, stop := word programBase } }

theorem test_loop1_first : (bothEnds 2).next.pc = 0x104 ∧ (bothEnds 2).next.hl1.remaining = 1 ∧ (bothEnds 2).next.hl0.remaining = 2 := by
  decide
theorem test_loop0_after_loop1 : (bothEnds 1).next.pc = 0x100 ∧ (bothEnds 1).next.hl1 = HLoop.off ∧ (bothEnds 1).next.hl0.remaining = 1 := by
  decide
theorem test_hl0_zero_count : pcAfter (.hl0 0 3) (on (thr [])) = some (word (programBase + 16)) := by decide +kernel
theorem test_hl0_starts :
    ((after (.hl0 10 3) (on (thr [(10, 5)]))).bind (·.cur)).map (·.hl0) =
      some { remaining := 5, start := word (programBase + 4), stop := word (programBase + 12) } := by decide +kernel
theorem test_hl1i_nested : ((after (.hl1i 7 2) (on looping)).bind (·.cur)).map (·.hl1.remaining) = some 7 := by decide +kernel
theorem test_hl1_alone_traps : Traps (.hl1 10 3) (thr [(10, 5)]) 26 0 := rfl
theorem test_hl0i_in_loop_traps : Traps (.hl0i 1 3) looping 26 0 := rfl

/-- CsrInstructionResult and CsrWriteThenRead: a CSR that the mode may read and write, and one that only S mode may. -/
theorem witness_csr :
    Issues (on (thr [])) (thr []) ∧ (on (thr [])).csrRead (thr []) 0x806 = some 128 ∧ 0x806 ∉ modeCsrs ∧ 0x806 ∉ fixedCsrs ∧ 0x806 ∈ csrs ∧
    ((on (thr [])).tasks.find (thr []).task).isSome ∧ 0x5C0 ∈ modeCsrs ∧ (thr []).smode = false ∧ 0x123 ∉ csrs ∧ 0x808 ∈ fixedCsrs :=
  ⟨witness_issues _ _ rfl, by decide +kernel⟩

/-- The silo CSRs are written by a core that holds nothing of another task. -/
theorem witness_silo_csr : (on (thr [])).csrRead (thr []) 0x5C0 = some (word (programBase + 0x80000000)) ∧
    (on (thr [])).siloInUse ((on (thr [])).task (thr []).task).lc (thr []).task = false := by decide +kernel

theorem test_csrrw_vl_rounds : ((after (.csrrw 0x806 11 10) (on (thr [(11, 77)]))).bind (·.cur)).map (fun t => (t.vl, t.getX 10)) =
    some (72, 128) := by decide +kernel
theorem test_csrrs_lsel : ((after (.csrrs 0x80E 11 10) (on (thr [(11, 6)]))).bind (·.cur)).map (·.lsel) = some 2 := by decide +kernel
theorem test_csrrc_flags : ((after (.csrrc 0x805 11 10) (on { thr [(11, 0xC)] with fflags := 0x1F })).bind (·.cur)).map (·.fflags) =
    some 0x13 := by decide +kernel
theorem test_csrrwi_lm : ((after (.csrrwi 0x800 21 0) (on (thr []))).bind (·.cur)).map (·.getLm 0) = some 21 := by decide +kernel
theorem test_csrrsi_reads : xAfter (.csrrsi 0x80A 0 10) (on looping) 10 = some (word (programBase + 8)) := by decide +kernel
theorem test_csrrci_reads : xAfter (.csrrci 0x808 0 10) (on looping) 10 = some 2 := by decide +kernel
theorem test_csr_read_only : Traps (.csrrw 0xC01 0 0) (thr []) 2 0xC0101073 := rfl
theorem test_csr_user_mode : Traps (.csrrs 0x5C0 0 10) (thr []) 2 0x5C002573 := rfl

/-- SystemWordTraps: an EBREAK without and with the debugger's request, a thread in a section, a task nested four deep. -/
def sectioned : Thread := { thr [(10, va 64)] with resv := some { va := va 64, pa := fr 64, count := 0 } }

theorem witness_section : (on sectioned).cur = some sectioned ∧ sectioned.resv = some { va := va 64, pa := fr 64, count := 0 } ∧
    (∀ r, sectioned.resv = some r → r.count ≤ 16) := ⟨rfl, rfl, by intro r h; cases h; decide⟩

theorem test_ecall : Traps .ecall (thr []) 8 0 := rfl
theorem test_ebreak : Traps .ebreak (thr []) 3 0 := rfl
theorem test_illegal : Traps (.illegalInstruction 0x10200073) (thr []) 2 0x10200073 := rfl
theorem test_ecall_in_section : Traps .ecall sectioned 25 (va 64) := rfl


/-! ## Deposits: the hypotheses `CanDeposit` and `Waits` can be met -/

/-- The task's context block is in place. -/
def withCtx (s : State) : State := s.modTask (taskKey 1 0) (fun k => { k with ctx := some (programBase + 0x80000000), sctx := some (programBase + 0x80000040) })

theorem countBits_le (w : Word) (lo n : Nat) : countBits w lo n ≤ n := by
  unfold countBits
  exact Nat.le_trans (List.length_filter_le _ _) (by simp)

theorem recSize_le (m : Word) : recSize m ≤ 4608 := by
  have h1 := countBits_le m 1 31
  have h2 := countBits_le m 32 32
  unfold recSize vPlace pPlace
  split <;> omega

theorem task_lc (t : Thread) (m : Tbl Byte) : ((withCtx (on t m)).task (taskKey 1 0)).lc = 4096 := by
  have h1 : ((withCtx (on t m)).task (taskKey 1 0)).part = 1 := rfl
  have h2 : ((withCtx (on t m)).task (taskKey 1 0)).lcore = 0 := rfl
  unfold Task.lc
  rw [h1, h2]

theorem bare_on (t : Thread) (m : Tbl Byte) : kx57 ((withCtx (on t m)).csrs 4096).satp = false := by
  have h : ((withCtx (on t m)).csrs 4096).satp = 0 := rfl
  rw [h]
  decide

/-- The machine of the tests, after its context block is written. -/
def written (t : Thread) (m : Tbl Byte) : State := (withCtx (on t m)).siloPut 4096 (word (programBase + 0x80000000)) (ctxBytes ((withCtx (on t m)).task (taskKey 1 0)))

theorem written_eq (t : Thread) (m : Tbl Byte) : written t m =
    (withCtx (on t m)).coreWrite ((withCtx (on t m)).physOf 4096) ((withCtx (on t m)).siloCells 4096 (word (programBase + 0x80000000))
      (ctxBytes ((withCtx (on t m)).task (taskKey 1 0)))) := by
  unfold written State.siloPut State.siloAd
  simp only [bare_on, Bool.not_false, if_true]

theorem written_ctx (t : Thread) (m : Tbl Byte) : (withCtx (on t m)).ctxWrite (taskKey 1 0) = .ok (written t m) := by
  have h : ((withCtx (on t m)).task (taskKey 1 0)).ctx = some (programBase + 0x80000000) := rfl
  have ha : (word (programBase + 0x80000000)).toNat = programBase + 0x80000000 := by decide
  have hb : (withCtx (on t m)).siloBad 4096 (word (programBase + 0x80000000)) 64 = none :=
    State.siloBad_bare _ 4096 _ 64 (bare_on t m) (by rw [ha]; unfold programBase; omega) (by rw [ha]; unfold programBase; omega)
  unfold State.ctxWrite
  simp only [h, task_lc, hb]
  rfl

theorem written_bare (t : Thread) (m : Tbl Byte) : kx57 ((written t m).csrs 4096).satp = false := by
  have h : ((written t m).csrs 4096).satp = 0 := by rw [written_eq]; rfl
  rw [h]
  decide

theorem silo_room (t : Thread) (m : Tbl Byte) (n : Nat) (hn : n ≤ 4608) :
    ∃ a s2, (written t m).siloAlloc 4096 n = some (a, s2) ∧ a.toNat + n < 2 ^ 64 ∧ s2.siloBad 4096 a n = none := by
  have hl : (written t m).lcore 4096 = { LCore.reset 0 with silob := word (programBase + 0x80000000) } := by rw [written_eq]; rfl
  have hu : ({ LCore.reset 0 with silob := word (programBase + 0x80000000) } : LCore).used = [] := rfl
  have hs : ({ LCore.reset 0 with silob := word (programBase + 0x80000000) } : LCore).silol.toNat = 0x100000 := rfl
  obtain ⟨o, ho⟩ := State.place_of_empty _ n (written t m).freeN hu (by rw [hs]; omega)
  have hf := State.fits_room _ _ _ (State.place_fits _ _ _ _ ho)
  rw [hs] at hf
  have ha : (word (programBase + 0x80000000) + word o).toNat = programBase + 0x80000000 + o := by
    rw [BitVec.toNat_add]
    simp only [word, BitVec.toNat_ofNat]
    unfold programBase
    omega
  have hb : (written t m).drew.siloBad 4096 (word (programBase + 0x80000000) + word o) n = none :=
    State.siloBad_bare (written t m).drew 4096 _ n (written_bare t m) (by rw [ha]; unfold programBase; omega) (by rw [ha]; unfold programBase; omega)
  refine ⟨word (programBase + 0x80000000) + word o, (written t m).drew, ?_, ?_, hb⟩
  · unfold State.siloAlloc
    rw [hl, ho]
  · rw [ha]
    unfold programBase
    omega

/-- Every thread of the tests can deposit: the hypothesis of every clause that waits. -/
theorem can_deposit (t : Thread) (m : Tbl Byte) (i0 u : Thread) (d : Dep) (hu : u.task = taskKey 1 0) :
    ∃ s' r, (withCtx (on t m)).deposit 0 0 i0 u d = (s', some r) := by
  have hz := recSize_le (saveMask u d.all d.reply)
  obtain ⟨a, s2, h1, h2, hb⟩ := silo_room t m _ hz
  have hc : (withCtx (on t m)).ctxWrite u.task = .ok (written t m) := by rw [hu]; exact written_ctx t m
  have hl : ((withCtx (on t m)).task u.task).lc = 4096 := by rw [hu]; exact task_lc t m
  obtain ⟨s', id, h⟩ := State.deposit_of_room _ _ _ 0 0 i0 u d a hc (by rw [hl]; exact h1)
    (by rw [hl]; exact hb)
  exact ⟨s', _, h⟩

/-- DepositRule, LoadElsewhere, StoreElsewhere, AmoElsewhere, WaitOnWord, BarrierInstructionResult, SubmitResult, StreamChannel, EngineIssueResult,
CollectiveResult and ReductionRoundResult: a thread that waits, whatever it waits for. -/
theorem witness_waits (x : Tbl Word) (m : Tbl Byte) (wait reply : Nat) (obj : Word) (want : Want) :
    ∃ s1 r, Waits (withCtx (on (thr x) m)) (thr x) (thr x) wait reply obj want s1 r := by
  obtain ⟨s1, r, h⟩ := can_deposit (thr x) m (thr x) (thr x).next _ rfl
  exact ⟨s1, r, rfl, h⟩

/-- TrapDepositsRecord: a thread that can deposit a faulted record; the address is the silo's choice. -/
theorem witness_canDeposit (x : Tbl Word) (m : Tbl Byte) (mask : Word) : ∃ a, CanDeposit (withCtx (on (thr x) m)) (thr x) mask a := by
  have hz := recSize_le mask
  obtain ⟨a, s2, h1, h2, hb⟩ := silo_room (thr x) m _ hz
  have hl : ((withCtx (on (thr x) m)).task (thr x).task).lc = 4096 := task_lc _ m
  refine ⟨a, ⟨rfl, rfl⟩, rfl, rfl, by rw [hl]; rfl, by rw [hl]; exact bare_on (thr x) m, rfl, ⟨written (thr x) m, written_ctx _ m, ?_, ?_⟩, h2⟩
  · rw [hl, h1]; rfl
  · intro s3 h
    rw [hl, h1] at h
    cases h
    rw [hl]
    exact hb

/-- With a handler address set, and the record's handler started. -/
def withVec (s : State) : State := s.modPcore 0 (fun p => { p with csrs := { p.csrs with stvec := 0x4000 } })

theorem witness_handler (x : Tbl Word) : ((withVec (withCtx (on (thr x)))).csrs 4096).stvec ≠ 0 ∧
    ((withVec (withCtx (on (thr x)))).task (taskKey 1 0)).depth < 4 := ⟨by show (0x4000 : Word) ≠ 0; decide, by show 0 < 4; decide⟩

/-! ## Memory accesses -/

/-- The machine with its core changed. -/
def onCore (f : PCore → PCore) (t : Thread) : State := { on t with pcores := [(0, f (coreOf t))] }

/-- Core 0 in KX57 with no TLB entry, and with one that maps page 0x1000 to the first page of HBM with memory type 2, write-combining. -/
def paged (p : PCore) : PCore := { p with csrs := { p.csrs with satp := word (14 * 2 ^ 60) } }
def combining (p : PCore) : PCore :=
  { paged p with tlb := [{ asid := 0, pte := word (215 + 2 ^ 46 + 2 * 2 ^ 54), base := 0x1000, size := 0x1000 }] }

/-- A store buffer with one store of 8 bytes to HBM, and a full one. -/
def buffered (n : Nat) (p : PCore) : PCore :=
  let w : WriteReq := { cells := cellsOf (programBase + 0x100) 8 0x8877665544332211, ack := none, src := 0, va := 0, task := taskKey 1 0, rel := none }
  { p with sb := (List.range n).map (fun i => { id := i, slot := 0, task := taskKey 1 0, op := SbOp.data w false false }) }

/-- The addresses of the tests: a byte of the own window that is resident, one that is not, one of HBM, one that no region holds. -/
def hbm (k : Nat) : Word := word (programBase + k)

/-- LoadFromOwnWindow, VectorLoadFromOwnWindow, AmoInOwnWindow, WaitOnWord, ReservationResult, SubmitResult, StreamBind, StreamWalk and the other
clauses on resident pages of the own window. -/
theorem witness_ownAt : OwnAt (on (thr [(11, va 64)])) (thr [(11, va 64)]) .load ((thr [(11, va 64)]).getX 11) (fr 64) ∧
    OwnAt (on (thr [(11, va 64)])) (thr [(11, va 64)]) .store ((thr [(11, va 64)]).getX 11) (fr 64) ∧
    OwnAt (on (thr [(11, va 64)])) (thr [(11, va 64)]) .load ((thr [(11, va 64)]).getX 11 + 64) (fr 128) ∧ (va 64).toNat % 64 = 0 := by
  unfold OwnAt; decide +kernel

/-- LoadElsewhere and StoreElsewhere: outside the own window, a page that is not resident, no TLB entry, and an address that does not translate. -/
theorem witness_elsewhere :
    OutAt (on (thr [])) (thr []) .load (hbm 0x100) (programBase + 0x100) 0 ∧ OutAt (on (thr [])) (thr []) .store (hbm 0x100) (programBase + 0x100) 0 ∧
    storeDeny false (programBase + 0x100) 0 = none ∧ (on (thr [])).sbUsed 0 < 16 ∧ (on (thr [])).sbByte 0 none (programBase + 0x100) = none ∧
    (on (thr [])).locOf 4096 ((on (thr [])).threadTr (thr []) .load (va 0x4000)) = some (.absent { lc := 4096, launch := 0, page := 1 }) ∧
    (on (thr [])).threadTr (thr []) .load (2 ^ 52) = .bad 5 ∧ (on (thr [])).threadTr (thr []) .store (2 ^ 52) = .bad 7 ∧
    (onCore paged (thr [])).threadTr (thr []) .load 0x1000 = .miss ∧ (onCore paged (thr [])).threadTr (thr []) .store 0x1000 = .miss ∧
    OutAt (onCore combining (thr [])) (thr []) .store 0x1000 programBase 2 ∧ storeDeny false programBase 2 = none ∧
    (onCore (buffered 16) (thr [])).sbUsed 0 = 16 ∧ amoDeny 0 (programBase + 0x100) 0 = none := by
  unfold OutAt; decide +kernel

/-- LoadElsewhere: the store buffer holds every byte that the load reads. -/
theorem witness_forwarded : (onCore (buffered 1) (thr [])).heldBack 0 (taskKey 1 0) false false = false ∧
    ∀ i, i < 8 → (onCore (buffered 1) (thr [])).sbByte 0 none (programBase + 0x100 + i) = some (BitVec.ofNat 8 (0x11 * (i + 1))) := by
  decide +kernel

theorem test_ld_little_endian : xAfter (.load .ld 10 11 0) (on (thr [(11, va 64)]) [(fr 64, 0x11), (fr 65, 0x22), (fr 71, 0x88)]) 10 =
    some 0x8800000000002211 := by decide +kernel
theorem test_lb_sign : xAfter (.load .lb 10 11 0xFFF) (on (thr [(11, va 65)]) [(fr 64, 0x80)]) 10 = some 0xFFFFFFFFFFFFFF80 := by decide +kernel
theorem test_load_misaligned : Traps (.load .lh 10 11 1) (thr [(11, va 64)]) 4 (va 65) := rfl
theorem test_load_access_fault : Traps (.load .ld 10 11 0) (thr [(11, 2 ^ 52)]) 5 (2 ^ 52) := rfl
theorem test_load_forwards : xAfter (.load .lwu 10 11 0) (onCore (buffered 1) (thr [(11, hbm 0x100)])) 10 = some 0x44332211 := by decide +kernel
theorem test_sh : byteAfter (.store .sh 12 11 2) (on (thr [(11, va 62), (12, 0xAABBCCDD)])) (fr 65) = some 0xCC := by decide +kernel
theorem test_store_misaligned : Traps (.store .sd 12 11 4) (thr [(11, va 64)]) 6 (va 68) := rfl
theorem test_store_posted : ((after (.store .sd 12 11 0) (on (thr [(11, hbm 0x100), (12, 5)]))).map (fun s => ((s.pcore 0).sb.length, s.byteAt (programBase + 0x100)))) =
    some (1, 0) := by decide +kernel
theorem test_lda_signs : xAfter (.lda { width := 2, scope := 3, rs2 := 0, rs1 := 11, rd := 10 }) (on (thr [(11, va 64)]) [(fr 67, 0x80)]) 10 =
    some 0xFFFFFFFF80000000 := by decide +kernel
theorem test_ldsc : xAfter (.ldsc { width := 1, scope := 2, rs2 := 0, rs1 := 11, rd := 10 }) (on (thr [(11, va 64)]) [(fr 64, 7)]) 10 = some 7 := by
  decide +kernel
theorem test_stl : byteAfter (.stl { width := 0, scope := 4, rs2 := 12, rs1 := 11, rd := 0 }) (on (thr [(11, va 65), (12, 0x1234)])) (fr 65) = some 0x34 := by
  decide +kernel
theorem test_stsc_misaligned : Traps (.stsc { width := 3, scope := 2, rs2 := 12, rs1 := 11, rd := 0 }) (thr [(11, va 4)]) 6 (va 4) := rfl

/-- AMOs on a word of the own window: the value left, and the old value in rd (06 R125). -/
def amoForm (dbl : Bool) : AmoF := { scope := 7, rs2 := 12, rs1 := 11, dbl := dbl, rd := 10 }
def amoOn (i : AmoF → Instr) (dbl : Bool) (old : Byte) (src cmp : Word) : Option (Word × Byte) :=
  (after (i (amoForm dbl)) (on (thr [(10, cmp), (11, va 64), (12, src)]) [(fr 64, old)])).bind (fun s => s.cur.map (fun t => (t.getX 10, s.byteAt (fr 64))))

theorem test_amo_integer : amoOn .amoAdd true 0xFF 2 0 = some (0xFF, 1) ∧ amoOn .amoAnd false 0x0F 0x3C 0 = some (0x0F, 0x0C) ∧
    amoOn .amoOr false 0x0F 0x30 0 = some (0x0F, 0x3F) ∧ amoOn .amoXor true 0x0F 0x3C 0 = some (0x0F, 0x33) ∧
    amoOn .amoSwap false 0x0F 0x3C 0 = some (0x0F, 0x3C) := by decide +kernel
theorem test_amo_compare : amoOn .amoMin true 1 (-1) 0 = some (1, 0xFF) ∧ amoOn .amoMax true 1 (-1) 0 = some (1, 1) ∧
    amoOn .amoMinu true 1 (-1) 0 = some (1, 1) ∧ amoOn .amoMaxu true 1 (-1) 0 = some (1, 0xFF) ∧
    amoOn .amoCas true 5 9 5 = some (5, 9) ∧ amoOn .amoCas true 5 9 6 = some (5, 5) := by decide +kernel
/-- 1.0 + 1.0 = 2.0, and the larger and the smaller of +0.0 and 1.0, in FP32: byte 3 tells them apart. -/
theorem test_amo_float :
    ((after (.amoFadd (amoForm false)) (on (thr [(11, va 64), (12, 0x3F800000)]) [(fr 66, 0x80), (fr 67, 0x3F)])).map (fun s => s.readN (fr 64) 4)) = some 0x40000000 ∧
    ((after (.amoFmax (amoForm false)) (on (thr [(11, va 64), (12, 0x3F800000)]))).map (fun s => s.readN (fr 64) 4)) = some 0x3F800000 ∧
    ((after (.amoFmin (amoForm false)) (on (thr [(11, va 64), (12, 0x3F800000)]))).map (fun s => s.readN (fr 64) 4)) = some 0 := by decide +kernel
theorem test_amo_misaligned : Traps (.amoAdd (amoForm true)) (thr [(11, va 4)]) 6 (va 4) := rfl
theorem test_amo_posted : ((after (.amoAdd { scope := 7, rs2 := 12, rs1 := 11, dbl := true, rd := 0 }) (on (thr [(11, hbm 0x100)]))).map
    (fun s => (s.pcore 0).sb.length)) = some 1 := by decide +kernel

/-- AmoInOwnWindow and FenceResult: nothing outstanding, and something. -/
theorem witness_outstanding : (on (thr [])).outstanding 0 2 = false ∧ (onCore (buffered 1) (thr [])).outstanding 0 2 = true ∧
    (on (thr [])).physOf ((on (thr [])).task (taskKey 1 0)).lc = 0 := by decide +kernel

theorem test_fence_release : ((after (.fenceRel 3) (onCore (buffered 1) (thr []))).map (fun s => ((s.pcore 0).sb.map (·.op)).getLast?)) =
    some (some (.release 3 false true)) := by decide +kernel
theorem test_fence_is_sc : exec (.fence 0 0 0) (onCore (buffered 1) (thr [])) = exec (.fenceSc 4) (onCore (buffered 1) (thr [])) := rfl
theorem test_fence_acq_drops : ((after (.fenceAcq 2) { on (thr []) with pquads := [(0, { PQuad.reset with l1 := [(0, 5)] })] }).map
    (fun s => (s.pquad 0).l1)) = some [] := by decide +kernel
theorem test_fence_ar_core : ((after (.fenceAr 0) { on (thr []) with pquads := [(0, { PQuad.reset with l1 := [(0, 5)] })] }).map
    (fun s => (s.pquad 0).l1.length)) = some 1 := by decide +kernel
theorem test_fence_i : ((after .fenceI (onCore (fun p => { p with icache := [(0, 1), (64, 2)], ipins := [64] }) (thr []))).map
    (fun s => (s.pcore 0).icache.map (·.1))) = some [64] := by decide +kernel

/-! ## Vector instructions -/

/-- A thread with v1, v2 and v3, predicate p1 and x11; `kxvl` is 16 bytes. -/
def vthr (a b d : VReg) (x : Word) : Thread := { thr [(11, x)] with v := [(1, a), (2, b), (3, d)], p := [(1, 0x0F0F)], vl := 16 }

/-- vd = v3, va = v2, vb = v1 or x11. -/
def vv (ew : BitVec 2) (pg : BitVec 2) : KV := { vs2 := 2, vs1 := 1, pg := pg, ew := ew, vd := 3 }
def vx (ew : BitVec 2) : KV := { vs2 := 2, vs1 := 11, pg := 0, ew := ew, vd := 3 }
def vu (ew : BitVec 2) : KV := { vs2 := 2, vs1 := 0, pg := 0, ew := ew, vd := 3 }

/-- The low 128 bits of v3 after the instruction, and the sticky flags. -/
def v3 (i : Instr) (t : Thread) : Option Nat := ((after i (on t)).bind (·.cur)).map (fun u => (u.getV 3).toNat % 2 ^ 128)
def v3f (i : Instr) (t : Thread) : Option (Nat × BitVec 5) := ((after i (on t)).bind (·.cur)).map (fun u => ((u.getV 3).toNat % 2 ^ 64, u.fflags))
def p3 (i : Instr) (t : Thread) : Option Nat := ((after i (on t)).bind (·.cur)).map (fun u => (u.getP 3).toNat)

/-- Bytes: va 0xFF, 0x80, 0x05; vb 0x02, 0x81, 0x03. -/
def bytesT : Thread := { vthr 0x038102 0x0580FF 0 3 with vl := 8 }

theorem test_vector_arith : v3 (.vadd (vv 0 0)) bytesT = some 0x080101 ∧ v3 (.vsub (vv 0 0)) bytesT = some 0x02FFFD ∧
    v3 (.vmul (vv 0 0)) bytesT = some 0x0F80FE ∧ v3 (.vmulh (vv 0 0)) bytesT = some 0x003FFF ∧ v3 (.vmulhu (vv 0 0)) bytesT = some 0x004001 := by decide +kernel
theorem test_vector_minmax : v3 (.vmin (vv 0 0)) bytesT = some 0x0380FF ∧ v3 (.vmax (vv 0 0)) bytesT = some 0x058102 ∧
    v3 (.vminu (vv 0 0)) bytesT = some 0x038002 ∧ v3 (.vmaxu (vv 0 0)) bytesT = some 0x0581FF := by decide +kernel
theorem test_vector_logic : v3 (.vand (vv 0 0)) bytesT = some 0x018002 ∧ v3 (.vor (vv 0 0)) bytesT = some 0x0781FF ∧ v3 (.vxor (vv 0 0)) bytesT = some 0x0601FD := by
  decide +kernel
/-- Shift amounts count modulo the width: 0x81 shifts a byte by 1. -/
theorem test_vector_shift : v3 (.vsll (vv 0 0)) bytesT = some 0x2800FC ∧ v3 (.vsrl (vv 0 0)) bytesT = some 0x00403F ∧ v3 (.vsra (vv 0 0)) bytesT = some 0x00C0FF := by
  decide +kernel
theorem test_vector_scalar : v3 (.vaddVx (vx 0)) bytesT = some 0x0303030303088302 ∧ v3 (.vsubVx (vx 0)) bytesT = some 0xFDFDFDFDFD027DFC ∧
    v3 (.vmulVx (vx 0)) bytesT = some 0x0F80FD ∧ v3 (.vandVx (vx 0)) bytesT = some 0x010003 ∧ v3 (.vsllVx (vx 0)) bytesT = some 0x2800F8 ∧
    v3 (.vsrlVx (vx 0)) bytesT = some 0x00101F ∧ v3 (.vsraVx (vx 0)) bytesT = some 0x00F0FF ∧ v3 (.vmvVx { vx 0 with vs2 := 0 }) bytesT = some 0x0303030303030303 := by
  decide +kernel
/-- An element that p1 switches off and one beyond `kxvl` keep their values. -/
theorem test_vector_active : v3 (.vadd (vv 1 1)) { vthr 1 1 (BitVec.ofNat 1024 (2 ^ 128 - 1)) 0 with vl := 6, p := [(1, 0x1)] } =
    some (2 ^ 128 - 2 ^ 16 + 2) := by decide +kernel
theorem test_vsel : v3 (.vsel (vv 0 1)) { vthr 0x11223344 0x55667788 0 0 with vl := 8, p := [(1, 0x5)] } = some 0x55227744 := by decide +kernel

theorem test_compares : p3 (.vseq (vv 0 0)) bytesT = some 0xF8 ∧ p3 (.vsne (vv 0 0)) bytesT = some 0x07 ∧ p3 (.vslt (vv 0 0)) bytesT = some 0x03 ∧
    p3 (.vsltu (vv 0 0)) bytesT = some 0x02 ∧ p3 (.vsle (vv 0 0)) bytesT = some 0xFB ∧ p3 (.vsleu (vv 0 0)) bytesT = some 0xFA ∧
    p3 (.vseqVx (vx 0)) bytesT = some 0 ∧ p3 (.vsltVx (vx 0)) bytesT = some 0xFB := by decide +kernel

/-- FP32: va = 1.5, vb = 2.0, vd = 1.0 and x11 = 2.0; one element is active. -/
def floatT : Thread := { vthr 0x40000000 0x3FC00000 0x3F800000 0x40000000 with p := [(1, 1)] }
def fOne : BitVec 2 := 1

theorem test_float_arith : v3f (.vfadd (vv 2 1)) floatT = some (0x40600000, 0) ∧ v3f (.vfsub (vv 2 1)) floatT = some (0xBF000000, 0) ∧
    v3f (.vfmul (vv 2 1)) floatT = some (0x40400000, 0) ∧ v3f (.vfma (vv 2 1)) floatT = some (0x40800000, 0) ∧
    v3f (.vfnma (vv 2 1)) floatT = some (0xC0000000, 0) ∧ v3f (.vfmin (vv 2 1)) floatT = some (0x3FC00000, 0) ∧
    v3f (.vfmax (vv 2 1)) floatT = some (0x40000000, 0) ∧ v3f (.vfdiv (vv 2 1)) floatT = some (0x3F400000, 0) := by decide +kernel
theorem test_float_unary : v3f (.vfsqrt { vu 2 with pg := 1 }) floatT = some (0x3F9CC471, 1) ∧ v3f (.vfrcp { vu 2 with pg := 1 }) floatT = some (0x3F2AAAAB, 1) ∧
    v3f (.vfexp2 { vu 2 with pg := 1 }) floatT = some (0x403504F3, 1) ∧ v3f (.vflog2 { vu 2 with pg := 1 }) { floatT with v := [(2, 0x41000000)] } = some (0x40400000, 0) := by
  decide +kernel
theorem test_float_special : v3f (.vfrcp { vu 2 with pg := 1 }) { floatT with v := [(2, 0x80000000)] } = some (0xFF800000, 8) ∧
    v3f (.vfsqrt { vu 2 with pg := 1 }) { floatT with v := [(2, 0xBF800000)] } = some (0x7FC00000, 16) := by decide +kernel
theorem test_float_scalar : v3f (.vfaddVx { vx 2 with pg := 1 }) floatT = some (0x40600000, 0) ∧ v3f (.vfmulVx { vx 2 with pg := 1 }) floatT = some (0x40400000, 0) ∧
    v3f (.vfmaVx { vx 2 with pg := 1 }) floatT = some (0x40800000, 0) ∧ v3f (.vfmaxVx { vx 2 with pg := 1 }) floatT = some (0x40000000, 0) := by decide +kernel
theorem test_float_compare : p3 (.vfeq (vv 2 1)) floatT = some 0 ∧ p3 (.vflt (vv 2 1)) floatT = some 1 ∧ p3 (.vfle (vv 2 1)) floatT = some 1 := by decide +kernel
/-- The example of 07 R159: 460.0 and 500.0 become 0x7E and, in OFP8, 0x7F with OF, NX and NV, or 0x7E saturating. -/
theorem test_vfcvt_example :
    ((after (.vfcvt { vs2 := 7, vs1 := 4, pg := 0, ew := 2, vd := 5 }) (on { thr [] with v := [(4, 0x43FA000043E60000)], vl := 8 })).bind (·.cur)).map
      (fun u => ((u.getV 5).toNat, u.fflags)) = some (0x7F7E, 0x15) ∧
    ((after (.vfcvt { vs2 := 6, vs1 := 4, pg := 0, ew := 2, vd := 5 }) (on { thr [] with v := [(4, 0x43FA000043E60000)], vl := 8 })).bind (·.cur)).map
      (fun u => ((u.getV 5).toNat, u.fflags)) = some (0x7E7E, 0x05) := by decide +kernel
/-- VectorFloatResult: a conversion code and its width. -/
theorem witness_cvt : cvtWidth (7 : Reg).toNat = some 2 ∧ cvtWidth (28 : Reg).toNat = none := by decide

theorem test_reductions : v3 (.vredsum (vu 0)) bytesT = some 0x84 ∧ v3 (.vredmax (vu 0)) bytesT = some 0x05 ∧ v3 (.vredmin (vu 0)) bytesT = some 0x80 := by
  decide +kernel
theorem test_float_reductions : v3f (.vfredsum (vu 2)) { floatT with v := [(2, 0x400000003FC00000)] } = some (0x40600000, 0) ∧
    v3f (.vfredmax (vu 2)) { floatT with v := [(2, 0x400000003FC00000)], vl := 8 } = some (0x40000000, 0) ∧
    v3f (.vfredmin (vu 2)) { floatT with v := [(2, 0x400000003FC00000)], vl := 8 } = some (0x3FC00000, 0) := by decide +kernel
theorem test_permutes : v3 (.vperm (vv 0 0)) { bytesT with v := [(1, 0x00FF0002), (2, 0x0580FF)] } = some 0xFFFFFFFFFF00FF05 ∧
    v3 (.vslide (vx 0)) { bytesT with x := [(11, -1)] } = some 0x0580FF00 ∧ v3 (.viota { vu 0 with vs2 := 0 }) bytesT = some 0x0706050403020100 := by decide +kernel
theorem test_vmvxv : xAfter (.vmvXv { vs2 := 1, vs1 := 2, pg := 0, ew := 0, vd := 10 }) (on bytesT) 10 = some 0xFFFFFFFFFFFFFF80 := by decide +kernel
theorem test_vpred : p3 (.vpred { vs2 := 3, vs1 := 1, pg := 2, ew := 0, vd := 3 }) { thr [] with p := [(1, 0xFF), (2, 0x0F)] } = some 0xF0 := by decide +kernel
theorem test_vpcnt : xAfter (.vpcnt { vs2 := 0, vs1 := 0, pg := 0, ew := 2, vd := 10 }) (on { thr [] with vl := 24 }) 10 = some 6 := by decide +kernel

/-- VectorLoadFromOwnWindow and VectorStoreToOwnWindow: the active elements of each form lie in the own window; x13 is a stride of 8, v4 the offsets 4 and 0. -/
def mthr : Thread := { thr [(11, va 64), (13, 8)] with v := [(3, 0x0000000700000005), (4, 0x0000000000000004)], vl := 8 }
def mm (f : Reg) : KM := { pg := 0, f := f, rs1 := 11, nt := false, ew := 2, vd := 3 }

theorem witness_vector_memory :
    (∀ i, i < 2 → (mthr.getX 11 + word (4 * i)).toNat % 4 = 0 ∧ OwnAt (on mthr) mthr .load (mthr.getX 11 + word (4 * i)) (fr (64 + 4 * i)) ∧
      OwnAt (on mthr) mthr .store (mthr.getX 11 + mthr.getX 13 * word i) (fr (64 + 8 * i))) ∧
    OwnAt (on mthr) mthr .store (mthr.getX 11 + BitVec.ofInt 64 (intOf 32 (elem (mthr.getV 4) 2 0))) (fr 68) := by
  unfold OwnAt; decide +kernel

def memV : Tbl Byte := [(fr 64, 1), (fr 68, 2), (fr 72, 3)]
def v3m (i : Instr) : Option Nat := ((after i (on mthr memV)).bind (·.cur)).map (fun u => (u.getV 3).toNat)

theorem test_vector_loads : v3m (.vld (mm 0)) = some 0x0000000200000001 ∧ v3m (.vlds (mm 13)) = some 0x0000000300000001 ∧
    v3m (.vldx (mm 4)) = some 0x0000000100000002 ∧ v3m (.vldb (mm 0)) = some 0x0000000100000001 := by decide +kernel
def bytes3 (i : Instr) : Option (Byte × Byte × Byte) := (after i (on mthr)).map (fun s => (s.byteAt (fr 64), s.byteAt (fr 68), s.byteAt (fr 72)))
theorem test_vector_stores : bytes3 (.vst (mm 0)) = some (5, 7, 0) ∧ bytes3 (.vsts (mm 13)) = some (5, 0, 7) ∧
    bytes3 (.vstx (mm 4)) = some (7, 5, 0) ∧ bytes3 (.vstb (mm 0)) = some (7, 0, 0) := by decide +kernel

/-! ## Waits, barriers, reservations, tasks and streams -/

/-- WaitOnWord: a word of the own window that is 0, and one that is 5. -/
theorem witness_wait : (0 : Word).toNat = little (fun i => (on (thr []) []).byteAt (fr 64 + i)) 8 ∧
    (5 : Word).toNat = little (fun i => (on (thr []) [(fr 64, 5)]).byteAt (fr 64 + i)) 8 := by decide +kernel

theorem test_join_zero : pcAfter (.join 11) (on (thr [(11, va 64)])) = some (hbm 4) := by decide +kernel
theorem test_wait_ne : xAfter (.waitNe 10 12 11) (on (thr [(11, va 64), (12, 4)]) [(fr 64, 5)]) 10 = some 5 := by decide +kernel
theorem test_wait_eq : xAfter (.waitEq 10 12 11) (on (thr [(11, va 64), (12, 5)]) [(fr 64, 5)]) 10 = some 5 := by decide +kernel
theorem test_wait_misaligned : Traps (.waitNe 10 12 11) (thr [(11, va 68)]) 4 (va 68) := rfl

/-- BarrierInstructionResult: handle 0x6003 names object 3 of the package, enabled for 2 arrivals; 0xA000 and a set bit 16 name none. -/
def barred (t : Thread) : State :=
  (on t).modPart 1 (fun p => { p with pkgBars := [(3, { Barrier.reset with exp := 2, arr := 1 })] }) |>.modLcore 4096
    (fun l => { l with copies := [(0x6003, { phase := false, enabled := true })] })
def bar3 : BarRef := { level := 3, owner := 1, index := 3 }
/-- The object 3 of the node, enabled for 2 arrivals, of which one has come. -/
def bar2 : BarRef := { level := 2, owner := 256, index := 3 }
def barredNode (t : Thread) : State := (on t).modLnode 256 (fun l => { l with bars := [(3, { Barrier.reset with exp := 2, arr := 1 })] })

theorem witness_barrier : (barred (thr [(11, 0x6003)])).barOf 4096 0x6003 = some bar3 ∧ (barred (thr [])).barOf 4096 0x16003 = none ∧
    (barred (thr [])).barOf 4096 0xA000 = none ∧ (barred (thr [])).enabledFor 0 (taskKey 1 0) 4096 bar3 = true ∧
    (on (thr [])).enabledFor 0 (taskKey 1 0) 4096 bar3 = false ∧ (barred (thr [])).outstanding 0 3 = false ∧
    ((barred (thr [])).copyOf 4096 bar3).phase ≠ true ∧ ((barred (thr [])).bar bar3).lerr = 0 ∧
    (0x16003 : Word).toNat % 65536 = (0x6003 : Word).toNat % 65536 ∧ (0x16003 : Word).toNat < 2 ^ 17 ∧ (0x16003 : Word).getLsbD 16 = true := by decide +kernel

theorem test_bar_arrive_token : xAfter (.barArrive 10 11 12) (barred (thr [(11, 0x6003)])) 10 = some 0x6003 := by decide +kernel
theorem test_bar_init_posted : ((after (.barInit 11 12) (barred (thr [(11, 0x6003), (12, 0x1000007)]))).map (fun s => (s.pcore 0).sb.map (·.op))) =
    some [.barInit bar3 7 true] := by decide +kernel
theorem test_bar_wait_passed : pcAfter (.barWait 11 12) (barred (thr [(11, 0x6003), (12, 0x16003)])) = some (hbm 4) := by decide +kernel
theorem test_bar_wait_handle : Traps (.barWait 11 12) (thr [(11, 0xA000), (12, 0xA000)]) 7 0xA000 := rfl
theorem test_bar_aw_handle : Traps (.barAw 10 11) (thr [(11, 0xA000)]) 7 0xA000 := rfl

/-- BarrierObjectResult: an arrival that is not the last, the last one, a disabled object, a byte count. -/
theorem witness_object : bar3.level < 5 ∧ (barredNode (thr [])).bar bar2 = { Barrier.reset with exp := 2, arr := 1 } ∧ (barred (thr [])).bar bar3 = { Barrier.reset with exp := 2, arr := 1 } := by decide +kernel
theorem test_last_arrival : ((after (.barrierArrivalApply ⟨bar2, none⟩ 0 0) (barredNode (thr []))).map (fun s => ((s.bar bar2).phase, (s.bar bar2).arr, s.copyOf 4096 bar2))) =
    some (true, 0, { phase := true, enabled := true }) := by decide +kernel
theorem test_arrival_waits_for_bytes : ((after (.barrierArrivalApply ⟨bar3, none⟩ 64 0) (barred (thr []))).map (fun s => ((s.bar bar3).phase, (s.bar bar3).arr, (s.bar bar3).bexp))) =
    some (false, 2, 64) := by decide +kernel
theorem test_bar_init_keeps_phase : ((after (.barrierInitApply ⟨bar2, none⟩ 5 false) (barredNode (thr []))).map (fun s => ((s.bar bar2).exp, (s.bar bar2).arr))) = some (5, 0) := by
  decide +kernel
theorem test_byte_count : ((after (.barrierByteCount bar3 64 0 1024 0 false) (barred (thr []))).map (fun s => (s.bar bar3).bcnt)) = some 64 := by decide +kernel
theorem test_byte_count_disabled : ((after (.barrierByteCount bar3 64 0 1024 5 false) (on (thr []))).map (fun s => ((s.pquad 0).engerr != 0, (s.bar bar3).bcnt))) =
    some (true, 0) := by decide +kernel

/-- ReservationResult: a section of the line of frame 0 that begins at byte 64. -/
theorem witness_reservation : (sectioned.getX 10) = va 64 ∧ fr 64 / 2 ^ 48 = 5 ∧ fr 64 / 2 ^ 40 % 256 * 16 + fr 64 / 2 ^ 36 % 16 = 0 ∧
    (on sectioned).outstanding 0 3 = false ∧ (on sectioned).monitors = [] ∧ va 0 ≠ va 64 := by decide +kernel
theorem test_res_acq : ((after (.resAcq 3 11) (on (thr [(11, va 64)]) [(fr 64, 7), (fr 127, 9)])).bind (·.cur)).map (fun t => ((t.getV 3).toNat, t.resv.map (·.pa))) =
    some (9 * 2 ^ 504 + 7, some (fr 64)) := by decide +kernel
theorem test_res_rel : ((after (.resRel 3 10 12) (on { sectioned with v := [(3, 0x0201)], x := [(10, va 64), (12, 2)] })).map (fun s => (s.byteAt (fr 64), s.byteAt (fr 65)))) =
    some (0, 2) := by decide +kernel
theorem test_res_rel_alone : Traps (.resRel 3 11 12) (thr [(11, va 64)]) 25 (va 64) := rfl

/-- SlotGivenUp: counters that are 0, in place, misaligned and without a TLB entry. -/
theorem witness_quit : ((on (thr [])).task (taskKey 1 0)).launch = 0 ∧ (on (thr [])).counter (taskKey 1 0) false (hbm 0x100) = .at_ (programBase + 0x100) ∧
    (on (thr [])).counter (taskKey 1 0) false (hbm 4) = .fault 6 ∧ (onCore paged (thr [])).counter (taskKey 1 0) false 0x1000 = .miss := by decide +kernel
theorem test_quit : ((after (.quit 0 0) (on (thr []))).map (fun s => (s.cur, s.tasks))) = some (none, []) := by decide +kernel
theorem test_quit_decrements : ((after (.quit 11 3) (on (thr [(11, hbm 0x100)]))).map (fun s => (s.pcore 0).sb.map (·.op))) =
    some [.amo { op := 0, dbl := true, pa := programBase + 0x100, arg := -1, cmp := 0, reply := none, ack := none, src := 0, va := hbm 0x100, task := taskKey 1 0, by_ := (on (thr [])).issuerOf (taskKey 1 0) }] := by
  decide +kernel
theorem test_quit_misaligned : Traps (.quit 11 0) (thr [(11, hbm 4)]) 6 (hbm 4) := rfl
theorem test_quit_in_section : Traps (.quit 0 0) sectioned 25 0 := rfl
theorem test_yield_in_section : Traps .yield sectioned 25 0 := rfl

/-- The forced yield of a thread marked for a kill, and of one that is not. -/
theorem witness_forced : ((on { thr [] with mark := .kill }).slot 0 0).thread = some { thr [] with mark := .kill } ∧ (thr []).mark ≠ .kill := by decide +kernel
theorem test_forced_kill : ((after (.forcedYield 0 0) (on { thr [] with mark := .kill })).map (fun s => (s.cur, s.tasks))) = some (none, []) := by decide +kernel

/-- SpawnResult and ForkResult: a core of the partition and one beyond it, aligned and misaligned entries, and ids left. -/
theorem witness_spawn : (on (thr [])).lcount 1 = 16 ∧ (on (thr [])).nodeAway ((on (thr [])).nodeOfLc 4097) = false ∧ (hbm 0x40).toNat % 4 = 0 ∧
    (on (thr [])).creditSlots ((on (thr [])).physOf 4097) ≠ [] ∧ IdsLeft (on (thr [])) (thr []) := by unfold IdsLeft; decide +kernel
/-- Core 1 is halted, so that no slot of it is free: the child enters its deque, at the top. -/
theorem test_spawn : ((after (.spawn 10 11 12) ((on (thr [(10, 3), (11, 1), (12, hbm 0x40)])).modPcore 1 (fun p => { p with halted := true }))).map
    (fun s => ((s.lcore 4097).deque.map (fun k => ((s.task k).lcore, (s.task k).entry, (s.task k).pinned)), s.cur.map (·.getX 10)))) =
    some ([(1, hbm 0x40, true)], some 1) := by decide +kernel
theorem test_spawn_beyond : Traps (.spawn 10 11 12) (thr [(11, 0xF0010), (12, hbm 0x40)]) 30 0x10 := rfl
theorem test_spawn_misaligned : Traps (.spawn 10 11 12) (thr [(11, 1), (12, hbm 0x42)]) 0 (hbm 0x42) := rfl
theorem test_fork : ((after (.fork 11 0) (on (thr [(10, 3), (11, hbm 0x40)]))).map (fun s => ((s.lcore 4096).deque.map (fun k => ((s.task k).entry, (s.task k).args))))) =
    some [(hbm 0x40, [3, hbm 0x40, 0, 0])] := by decide +kernel
theorem test_fork_counts : ((after (.fork 11 12) (on (thr [(11, hbm 0x40), (12, hbm 0x100)]))).map (fun s => (s.pcore 0).sb.length)) = some 3 := by decide +kernel
theorem test_fork_counter_misaligned : Traps (.fork 11 12) (thr [(11, hbm 0x40), (12, hbm 0x101)]) 6 (hbm 0x101) := rfl

/-- SubmitResult: room in the dispatcher's FIFO. -/
theorem witness_submit : ((on (thr [])).lnode 256).waiters = [] ∧ (on (thr [])).inboxRoom 256 = true ∧ (va 128).toNat % 128 = 0 := by decide +kernel
theorem test_task_sub : ((after (.taskSub 10 11) (on (thr [(11, va 128)]) [(fr 128, 8)])).map (fun s => ((s.lnode 256).inbox.map (fun e => e.body.toNat), s.cur.map (·.getX 10)))) =
    some ([8], some 1) := by decide +kernel
theorem test_launch_misaligned : Traps (.launch 10 11) (thr [(11, va 32)]) 4 (va 32) := rfl

/-- Streams: q1 is a walk over 4 bytes of the own window, q2 an in channel from core 1, q3 an out channel to core 1. -/
def walk1 : Stream := { desc := 0, kind := 0, esize := 1, ndim := 1, base := va 64, cnt := [3], str := [2], peer := 0, tag := 0, pos := 0, dir := none }
def in2 : Stream := { walk1 with kind := 1, esize := 8, cnt := [3], str := [1], peer := 1, tag := 5, base := va 256 }
def out3 : Stream := { walk1 with kind := 2, esize := 8, cnt := [0], str := [0], peer := 1, tag := 6, base := 0 }
def chan2 : ChanRef := { part := 1, src := 1, dst := 0, tag := 5 }
def chan3 : ChanRef := { part := 1, src := 0, dst := 1, tag := 6 }
def streaming (t : Thread) (n c : Nat) (m : Tbl Byte := []) : State :=
  { (on t m).modTask (taskKey 1 0) (fun k => { k with ctx := some 0, sctx := some 64, streams := [(1, walk1), (2, in2), (3, out3)], eod := 0x10 }) with
    chans := [{ Chan.new chan2 with inEnd := some (taskKey 1 0, 2, 4), inSize := 8, inRing := n }, { Chan.new chan3 with outBound := true, outSize := 8, credits := c }] }

/-- StreamBranchAndGuard, StreamWalk, StreamChannel and StreamStatusAndTraffic: bound streams of each kind, a set flag, credits and elements, and none. -/
theorem witness_streams : ((streaming (thr []) 1 1).task (taskKey 1 0)).streams.find 1 = some walk1 ∧ walk1.pos < walk1.total ∧
    OwnAt (streaming (thr []) 1 1) (thr []) .load (walk1.addr 0) (fr 64) ∧ OwnAt (streaming (thr []) 1 1) (thr []) .store (walk1.addr 0) (fr 64) ∧
    chanOf ((streaming (thr []) 1 1).task (taskKey 1 0)) in2 = chan2 ∧ chanOf ((streaming (thr []) 1 1).task (taskKey 1 0)) out3 = chan3 ∧
    ((streaming (thr []) 1 1).chan chan2).inRing = 1 ∧ ((streaming (thr []) 1 1).chan chan3).credits = 1 ∧ ((streaming (thr []) 0 0).chan chan2).inRing = 0 ∧
    (streaming (thr []) 1 1).ringAbsent ((streaming (thr []) 1 1).task (taskKey 1 0)) in2 1 = none ∧
    ((streaming (thr []) 1 1).task (taskKey 1 0)).eod.getLsbD 4 = true ∧ (streaming (thr []) 1 1).elemsHeld chan3 = false ∧
    ((streaming (thr []) 1 1).task (taskKey 1 0)).streams.find 0 = none := by unfold OwnAt; decide +kernel

theorem test_q_pop_walk : ((after (.qPop 10 1) (streaming (thr []) 0 0 [(fr 64, 0x81)])).map (fun s => (s.cur.map (·.getX 10), ((s.task (taskKey 1 0)).streams.find 1).map (·.pos)))) =
    some (some 0x81, some 1) := by decide +kernel
theorem test_q_push_walk : byteAfter (.qPush 1 11) (streaming (thr [(11, 0x1234)]) 0 0) (fr 64) = some 0x34 := by decide +kernel
theorem test_vq_pop_strided : (((after (.vqPop 3 1) (streaming { thr [] with vl := 8 } 0 0 [(fr 64, 1), (fr 66, 2), (fr 68, 3), (fr 70, 4)])).bind (·.cur)).map (fun t => (t.getV 3).toNat)) =
    some 0x04030201 := by decide +kernel
theorem test_vq_push : ((after (.vqPush 1 3) (streaming { thr [] with vl := 8, v := [(3, 0x04030201)] } 0 0)).map (fun s => (s.byteAt (fr 66), s.byteAt (fr 67), s.byteAt (fr 70)))) =
    some (2, 0, 4) := by decide +kernel
theorem test_q_pop_channel : ((after (.qPop 10 2) (streaming (thr []) 1 0 [(fr 256, 9)])).map (fun s => (s.cur.map (·.getX 10), (s.chan chan2).inRing, s.agenda))) =
    some (some 9, 0, [.channelCreditReturn chan2 1]) := by decide +kernel
theorem test_q_push_channel : ((after (.qPush 3 11) (streaming (thr [(11, 9)]) 0 1)).map (fun s => ((s.chan chan3).credits, s.agenda))) =
    some (0, [.channelElementsArrive chan3 [9]]) := by decide +kernel
theorem test_q_stat : xAfter (.qStat 10 1) (streaming (thr []) 0 0) 10 = some 0x401 ∧ xAfter (.qStat 10 2) (streaming (thr []) 3 0) 10 = some 0x303 ∧
    xAfter (.qStat 10 7) (streaming (thr [(10, 9)]) 0 0) 10 = some 0 := by decide +kernel
theorem test_q_close : ((after (.qClose 3) (streaming (thr []) 0 1)).map (fun s => ((s.task (taskKey 1 0)).streams.map (·.1), s.agenda))) =
    some ([1, 2], [.channelCloseArrives chan3]) := by decide +kernel
theorem test_elements_arrive : ((after (.channelElementsArrive chan2 [7, 8]) (streaming (thr []) 1 0)).map (fun s => ((s.chan chan2).inRing, s.byteAt (fr 264), s.byteAt (fr 272)))) =
    some (3, 7, 8) := by decide +kernel
theorem test_credit_return : ((after (.channelCreditReturn chan3 2) (streaming (thr []) 0 1)).map (fun s => (s.chan chan3).credits)) = some 3 := by decide +kernel
theorem test_close_arrives : ((after (.channelCloseArrives chan2) (streaming (thr []) 1 0)).map (fun s => ((s.chan chan2).closed, (s.chan chan2).inRing))) =
    some (true, 1) := by decide +kernel
theorem test_b_eod : pcAfter (.bEod 1 0 4) (streaming (thr []) 0 0) = some (hbm 8) ∧ pcAfter (.bNeod 1 0 4) (streaming (thr []) 0 0) = some (hbm 4) := by decide +kernel
theorem test_guards : ((after (.gSet 3 11) (on (thr [(11, 5)]))).map (fun s => ((s.lquad 1024).guards, (s.lquad 1024).guardNew))) = some ([], [(3, .resolved true, 4096)]) ∧
    ((after (guardLook 1024) ((on (thr [])).modLquad 1024 (fun q => { q with guards := [(3, .resolved true)], guardNew := [(3, .unresolved, 4096)], guardAt := 1 }))).map
      (fun s => ((s.lquad 1024).guards, (s.lquad 1024).guardNew))) = some ([(3, .unresolved)], []) := by decide +kernel

/-- StreamBind: a descriptor of a walk of 4 bytes at the own window's byte 64, with a stride of 2, and one with a reserved bit set. -/
def desc : Nat := 0x10 + (ownBase + 64) * 2 ^ 64 + 3 * 2 ^ 128 + 2 * 2 ^ 192
theorem witness_bind : (Stream.ofBits (va 0) (BitVec.ofNat 256 desc) 4096 16).isSome ∧
    Stream.ofBits (va 0) (BitVec.ofNat 256 (desc + 2 ^ 7)) 4096 16 = none := by decide +kernel
theorem test_q_bind : ((after (.qBind 4 11) (streaming (thr [(11, va 128)]) 0 0 ((cellsOf (fr 128) 32 desc).filter (fun e => e.2 != 0)))).map
    (fun s => ((s.task (taskKey 1 0)).streams.find 4).map (fun st => (st.base, st.cnt, st.str, st.pos)))) = some (some (va 64, [3], [2], 0)) := by decide +kernel
theorem test_q_bind_misaligned : Traps (.qBind 4 11) (thr [(11, va 16)]) 4 (va 16) := rfl

/-! ## Engines, copies, collectives and reductions -/

/-- Fields of a tile word: code, rows, columns, accumulator, formats, targets and addresses (08 R177). -/
def tile (op fmt acc rows cols : Nat) (accum : Bool) : Nat :=
  op + fmt * 2 ^ 13 + fmt * 2 ^ 16 + acc * 2 ^ 21 + (if accum then 2 ^ 23 else 0) + (rows - 1) * 2 ^ 24 + (cols - 1) * 2 ^ 32 + 0xFFFF * 2 ^ 184
/-- An operand in the window of core 0 of the node, with its stride in units of 16 bytes. -/
def opA (off str : Nat) : Nat := (0xF0000000 + off) * 2 ^ 72 + str * 2 ^ 104
def opB (off str : Nat) : Nat := (0xF0000000 + off) * 2 ^ 120 + str * 2 ^ 152

/-- An INT8 product of one row at byte 64 and two columns at 128, both K-major and unsigned, added to the ACS. -/
def mmaWord : Nat := tile 1 4 1 1 2 true + opA 64 1 + opB 128 1 + 2 ^ 168 + 2 ^ 169

/-- The command of a word, in the queue of the quad of core 0. -/
def cmdOf (w : Nat) : Cmd :=
  { id := 1, w := BitVec.ofNat 256 w, frm := 0, scl := 0, sscl := 0, satp := 0, task := taskKey 1 0, lc := 4096, launch := 0, smode := false, st := .queued,
    err := 0, dropped := false, part := none, parts := 0, seen := [], cen := Census.zero, after := 0 }
def engine (w : Nat) (m : Tbl Byte := []) : State :=
  (on (thr []) m).modLquad 1024 (fun q => { q with queue := [cmdOf w], acs := [(0, 100), (1, 0x3FC00000), (256, 3)], rowsum := [(0, 9)], colsum := [(0, 9), (1, 9)] })
def cmd1 : CmdRef := { lq := 1024, id := 1 }

/-- That command started, and the lines of its operands read (12 R265). -/
def engineRead (w : Nat) (m : Tbl Byte := []) : State :=
  let s := engine w m
  s.modCmd cmd1 (fun c => { c with
    st := .started
    cap := (s.opKeys 1024 c).foldl (fun (x : Tbl (Option Line)) k => x.set k ((s.keyPa 1024 c k).map (fun pa => BitVec.ofNat 512 (s.readN pa 64)))) [] })

def cells8 (a : Nat) (b : List Byte) : Tbl Byte := b.mapIdx (fun i x => (a + i, x))
def mmaMem : Tbl Byte := cells8 (fr 64) [1, 2, 3, 4, 5, 6, 7, 8] ++ cells8 (fr 128) [1, 1, 1, 1, 1, 1, 1, 1] ++ cells8 (fr 144) [2, 0xFF, 2, 2, 2, 2, 2, 2]

/-- MmaResult and TileCommandResult: a command that goes, and a line that it still has to read. -/
theorem witness_engineGoes : EngineGoes (engineRead mmaWord mmaMem) cmd1 (((engineRead mmaWord mmaMem).cmdOf cmd1).getD (cmdOf 0)) where
  cmd := by decide +kernel
  own := by decide +kernel
  started := by decide +kernel
  read := by decide +kernel
  free := by decide +kernel
theorem witness_unread : (engine mmaWord mmaMem).cmdOf cmd1 = some (cmdOf mmaWord) ∧ ((engine mmaWord mmaMem).opKeys 1024 (cmdOf mmaWord)).length = 2 ∧
    (∀ k ∈ (engine mmaWord mmaMem).opKeys 1024 (cmdOf mmaWord), ((cmdOf mmaWord).cap.find k).isNone) := by decide +kernel

theorem witness_mma : Tw.tgt (BitVec.ofNat 256 mmaWord) = 0 ∧
    (engineRead mmaWord mmaMem).opCodes 1024 (((engineRead mmaWord mmaMem).cmdOf cmd1).getD (cmdOf 0)) (Tw.aaddr (BitVec.ofNat 256 mmaWord)) 16 true 4 0 1 8 = some [[1, 2, 3, 4, 5, 6, 7, 8]] ∧
    (engineRead mmaWord mmaMem).opCodes 1024 (((engineRead mmaWord mmaMem).cmdOf cmd1).getD (cmdOf 0)) (Tw.baddr (BitVec.ofNat 256 mmaWord)) 16 true 4 0 2 8 =
      some [[1, 1, 1, 1, 1, 1, 1, 1], [2, 255, 2, 2, 2, 2, 2, 2]] ∧
    ((engineRead mmaWord mmaMem).lineFactors 1024 (((engineRead mmaWord mmaMem).cmdOf cmd1).getD (cmdOf 0)) 0 0).2.isSome ∧ checkWord (BitVec.ofNat 256 mmaWord) 0 16 false = 0 := by decide +kernel

/-- 100 + 36 = 136, and 0x3FC00000 + 72 + 2 × 253. -/
theorem test_mma : ((after (.mma cmd1) (engineRead mmaWord mmaMem)).map (fun s => (acsAt s 1024 (BitVec.ofNat 256 mmaWord) 0 0, acsAt s 1024 (BitVec.ofNat 256 mmaWord) 0 1, (s.lquad 1024).acs.get 0 256))) =
    some (136, 0x3FC00242, 3) := by decide +kernel
theorem test_mzero : ((after (.mzero cmd1) (engine (tile 2 0 0 1 2 false))).map (fun s => (s.lquad 1024).acs.filter (fun e => e.2 != 0))) = some [(256, 3)] := by decide +kernel
theorem test_mload : ((after (.mload cmd1) (engineRead (tile 3 0 0 2 1 false + opA 64 1) [(fr 64, 7), (fr 80, 8)])).map (fun s => ((s.lquad 1024).acs.get 0 0, (s.lquad 1024).acs.get 0 256))) =
    some (7, 8) := by decide +kernel
/-- A drain to BF16 of 1.5, whose low half is 0. -/
theorem test_mdrain : ((after (.mdrain cmd1) (engine (tile 4 0 0 1 2 false + opA 64 1 + 1 * 2 ^ 219))).map (fun s => (s.byteAt (fr 66), s.byteAt (fr 67)))) = some (0xC0, 0x3F) := by
  decide +kernel
/-- Requantising 100 with multiplier 2^30 and shift 0 halves it: 50, rounded to even. -/
theorem test_mdrq : ((after (.mdrq cmd1) (engineRead (tile 5 0 1 1 1 false + opA 64 1 + opB 128 0) [(fr 131, 0x40)])).map (fun s => s.byteAt (fr 64))) = some 50 := by decide +kernel
theorem test_msums : ((after (.msums cmd1) (engineRead (tile 6 4 0 1 2 false + opA 64 1 + opB 128 1 + 2 ^ 168 + 2 ^ 169 + 2 ^ 216 + 2 ^ 217) mmaMem)).map
    (fun s => ((s.lquad 1024).rowsum.get 0 0, (s.lquad 1024).colsum.get 0 0, (s.lquad 1024).colsum.get 0 1))) = some (36, 8, 269) := by decide +kernel
theorem test_mnop : ((after (.mnop cmd1) (engine (tile 0 0 0 1 1 false))).map (fun s => s.agenda)) = some [.tileCommandComplete cmd1] := by decide +kernel
theorem test_mbar : ((after (.mbar cmd1) ((engine (tile 8 0 0 1 1 false - 0xFFFF * 2 ^ 184 + 0x4003 * 2 ^ 184)).modLnode 256
    (fun l => { l with bars := [(3, { Barrier.reset with exp := 2 })] }))).map (fun s => (s.bar bar2).arr)) = some 1 := by decide +kernel
theorem test_tile_complete : ((after (.tileCommandComplete cmd1) (engine (tile 0 0 0 1 1 false))).map (fun s => ((s.lquad 1024).queue, s.agenda))) =
    some ([], []) := by decide +kernel
theorem test_pool_forward : ((after (.poolForward cmd1) (engine (mmaWord + 2 ^ 182))).map (fun s => (s.lquad 1025).queue.map (·.part))) =
    some [some (0, 0, cmd1)] := by decide +kernel
theorem test_group_without_mgrp : ((after (.groupForward cmd1) (engine (mmaWord + 2 ^ 183))).map (fun s => (s.cmdOf cmd1).map (·.err))) = some (some 28) := by decide +kernel

/-- EngineIssueResult: a word that passes, a code that does not exist, a full queue. -/
def issuing (w : Nat) : Thread := { thr [] with v := [(8, BitVec.ofNat 1024 (w * 2 ^ 256))] }
theorem witness_issue : checkWord ((BitVec.ofNat 1024 (mmaWord * 2 ^ 256)).extractLsb' 256 256) 0 16 false = 0 ∧ checkWord (BitVec.ofNat 256 9) 0 16 false = 1 ∧
    checkCopy (BitVec.ofNat 256 (ownBase * 2 ^ 16 + (ownBase + 64) * 2 ^ 73 + 16 * 2 ^ 130 + 0xFFFF * 2 ^ 226)) false = 0 := by decide +kernel
theorem test_mx_issue : ((after (.mxIssue 8 1) (on (issuing mmaWord))).map (fun s => (s.lquad 1024).queue.map (fun c => (c.w.toNat, c.lc)))) = some [(mmaWord, 4096)] := by
  decide +kernel

/-- A copy of 16 bytes from byte 64 to byte 128 of the own window. -/
def copyWord : Nat := (ownBase + 64) * 2 ^ 16 + (ownBase + 128) * 2 ^ 73 + 16 * 2 ^ 130 + 0xFFFF * 2 ^ 226
def copy1 : Copy :=
  { id := 1, d := BitVec.ofNat 256 copyWord, satp := 0, task := taskKey 1 0, lc := 4096, launch := 0, smode := false, started := true, row := 0, pos := 0,
    err := 0, seen := [], cells := [], after := 0 }
def copier : State := (on (thr []) [(fr 64, 7), (fr 79, 9)]).modLquad 1024 (fun q => { q with copies := [copy1] })

/-- CopyResult: both addresses are in place. -/
theorem witness_copy : ((copier.copyOfRef cmd1).map (fun c => (copier.copyPas 1024 c .load (ownBase + 64) 16).2 = some ((List.range 16).map (fun i => fr (64 + i))))) = some True ∧
    (copier.copyOfRef cmd1).isSome := by
  refine ⟨?_, by decide +kernel⟩
  have h : ∀ c, copier.copyOfRef cmd1 = some c → (copier.copyPas 1024 c .load (ownBase + 64) 16).2 = some ((List.range 16).map (fun i => fr (64 + i))) := by
    intro c hc; cases hc; decide +kernel
  cases hq : copier.copyOfRef cmd1 with
  | none => exact absurd hq (by decide +kernel)
  | some c => exact congrArg some (eq_true (h c hq))
theorem test_cp_issue : ((after (.cpIssue 8 1) (on (issuing copyWord))).map (fun s => (s.lquad 1024).copies.map (fun c => c.d.toNat))) = some [copyWord] := by decide +kernel
/-- The one piece is a posted write of the 16 bytes; the copy is complete once it is acknowledged. -/
theorem test_copy : ((after (.copyStart cmd1) copier).map (fun s => s.byteAt (fr 128))) = some 0 ∧
    ((after (.copyStart cmd1) copier).map (fun s => s.agenda.map (fun (i : Instr) => match i with
      | .homeWrite w => (w.cells.length, w.cells.headD (0, 0), w.copy == some cmd1) | _ => (0, (0, 0), false)))) = some [(16, (fr 128, 7), true)] := by decide +kernel
def pieceOf : WriteReq := { cells := [(fr 128, 7), (fr 143, 9)], ack := none, src := 0, va := va 128, task := taskKey 1 0, rel := none, copy := some cmd1 }
def sentAll : State := copier.modLquad 1024 (fun q => { q with copies := [{ copy1 with row := 1, flying := 1 }] })
theorem test_copy_piece : ((after (.homeWrite pieceOf) sentAll).map (fun s => (s.byteAt (fr 128), s.byteAt (fr 143), s.agenda))) =
    some (7, 9, [.copyComplete cmd1]) := by decide +kernel
theorem test_copy_complete : ((after (.copyComplete cmd1) copier).map (fun s => (s.lquad 1024).copies)) = some [] := by decide +kernel

/-! ## Collectives, reductions, weighbridges, census -/

/-- A barrier collective whose group descriptor stands at byte 256 of the own window, and an all-reduce of four INT32 elements. -/
def groupAt : Nat := (ownBase + 256) * 2 ^ 64
def collBarrier : Nat := 6 + groupAt
def collSum : Nat := groupAt + 2 ^ 8 * 0 + 4 * 2 ^ 128 + (ownBase + 512) * 2 ^ 192 + (ownBase + 1024) * 2 ^ 256
def post (b : Nat) : CollPost := { id := 1, blk := BitVec.ofNat 1024 b, satp := 0, lc := 4096, task := taskKey 1 0, launch := 0, smode := false }
/-- A group of cores 0 and 1 of the partition, of the own module. -/
def groupMem : Tbl Byte := [(fr 256, 2), (fr 280, 1)]
def posted (b : Nat) : State := (on (thr []) groupMem).modPp 0 (fun x => { x with fifo := [post b] })

/-- CollectiveResult: blocks that pass and do not, room, a group that reads and one that has no member, and inputs in place. -/
theorem witness_collective : (on (thr [])).blockOk 4096 (BitVec.ofNat 1024 collBarrier) = true ∧ (on (thr [])).blockOk 4096 (BitVec.ofNat 1024 7) = false ∧
    (on (thr [])).blockOk 4096 (BitVec.ofNat 1024 collSum) = true ∧ (posted collBarrier).colls = [] ∧ inputBytes (BitVec.ofNat 1024 collSum) 2 0 = 16 ∧
    needsOf (BitVec.ofNat 1024 collSum) 2 0 = [0, 1] := by decide +kernel
theorem test_coll_post_refused : ((after (.collPost 10 11) (on (thr [(11, va 128)]) [(fr 128, 7)])).map (fun s => (s.cur.map (·.getX 10), s.pcores.length))) =
    some (some 0, 1) := by decide +kernel
theorem test_coll_post_misaligned : Traps (.collPost 10 11) (thr [(11, va 32)]) 4 (va 32) := rfl
/-- The first event due of a collective with an error is that of rank 0; its only post has that rank. -/
def runs (b : Nat) (l : List Nat) : State :=
  { on (thr []) [(fr 512, 5)] with colls := [{ id := 3, group := l, tag := 0, posts := [(0, post b), (1, post b)], released := [0], readied := [], done := [], err := 0,
                                               data := [(0, [1, 0, 0, 0]), (1, [2, 0, 0, 0])], out := [] }] }
theorem test_coll_released : ((after (.collReleased 3 0) (runs (collSum - 3 * 2 ^ 128) [0, 1])).map (fun s => (s.colls.map (·.released), s.agenda))) =
    some ([[0, 0]], [.collReady 3 0]) := by decide +kernel
theorem test_coll_reads : ((after (.collReleased 3 0) (runs collSum [0, 1])).map (fun s => ((s.coll 3).map (fun c => (c.data.get [] 0).length), s.agenda))) =
    some (some 16, [.collReleased 3 0]) := by decide +kernel
/-- CollectiveResult: the input and the output piece of a collective whose lines are resident, on a state with no mark, reservation, monitor or binding. -/
theorem witness_coll_pieces : let s := runs collSum [0, 1]
    let r := s.portPa (post collSum) .load (Pb.input (BitVec.ofNat 1024 collSum))
    let w := s.portPa (post collSum) .store (Pb.recv (BitVec.ofNat 1024 collSum))
    s.marks = [] ∧ s.resvs = [] ∧ s.binds = [] ∧ s.monitors = [] ∧ r.2.map r.1.isParked = some false ∧ w.2.map w.1.isParked = some false ∧
      (w.1.resvs, w.1.monitors, w.1.binds) = ([], [], []) := by decide +kernel
theorem test_coll_ready_barrier : ((after (.collReady 3 0) (runs collBarrier [])).map (fun s => (s.colls.map (·.readied), s.agenda))) =
    some ([[0]], []) := by decide +kernel
theorem test_coll_done : ((after (.collDone 3 0) (runs collBarrier [])).map (fun s => s.colls.map (·.done))) = some [[0]] := by decide +kernel
/-- Element 0 of an all-reduce is the sum over the ranks; an all-gather puts the inputs one after another (19 R352). -/
theorem test_coll_output : collOutput (BitVec.ofNat 1024 (2 + 4 * 2 ^ 8 + 1 * 2 ^ 128)) [0, 0] [[1, 0, 0, 0], [2, 0, 0, 0]] 1 = [1, 0, 0, 0, 2, 0, 0, 0] := by decide +kernel

/-- The tree 0 of node 0 with positions 0 and 1 and no children, rooted there. -/
def tree01 (n : PNode) : PNode := { n with trees := [(0, 3)] }
def rooted (t : Thread) : State := (on t).modPnode 0 tree01
def input (p : Nat) : RedInput :=
  { node := 0, tree := 0, tag := 5, dtype := 4, redop := 0, from_ := p, vals := [BitVec.ofNat 1024 7], miss := 0, bad := false, glean := none }
def open0 (n : PNode) : PNode :=
  { tree01 n with rounds := [{ tree := 0, tag := 5, dtype := 4, redop := 0, got := [(0, [BitVec.ofNat 1024 3], 0)], bad := false, buffered := true, sent := false }] }
def result (late : Bool) : RedResult := { node := 0, tree := 0, tag := 5, dtype := 4, redop := 0, val := BitVec.ofNat 1024 10, miss := if late then 2 else 0, late := late, bad := false }
/-- The operand of tag 5 in tree 0, INT32 sum. -/
def redOpnd : Word := 0x50040

/-- ReductionRoundResult: a leaf and an operand that pass, a bad operand, an open round with one input and its inputs. -/
theorem witness_reduction : treeOpBad redOpnd = false ∧ treeOpBad 0x60 = true ∧ (rooted (thr [])).treeLocal 0 0 = [0, 1] ∧ (rooted (thr [])).treeInputs 0 0 = [0, 1] ∧
    (rooted (thr [])).hasSent 0 0 5 0 = false ∧ ((on (thr [])).modPnode 0 open0).hasSent 0 0 5 0 = true ∧ ((on (thr [])).modPnode 0 open0).treeParent 0 0 = 0 ∧
    (((on (thr [])).modPnode 0 open0).round 0 0 5).isSome := by decide +kernel
theorem test_red_send : ((after (.redSend 8 11) (rooted { thr [(11, redOpnd)] with v := [(8, BitVec.ofNat 1024 9)] })).map (fun s => s.agenda.length)) = some 1 := by decide +kernel
theorem test_red_send_bad : Traps (.redSend 8 11) (thr [(11, 0x60)]) 7 0x60 := rfl
theorem test_red_recv : (((after (.redRecv 8 11) ((rooted (thr [(11, redOpnd)])).modLcore 4096 (fun l => { l with results := [result false] }))).bind (·.cur)).map
    (fun t => (t.getV 8).toNat)) = some 10 := by decide +kernel
theorem test_reduction_input : ((after (.reductionInput (input 1)) ((on (thr [])).modPnode 0 open0)).map (fun s => s.agenda.map (fun i => match i with
    | .reductionResult r => r.val.toNat | _ => 0))) = some [10] := by decide +kernel
theorem test_reduction_opens : ((after (.reductionInput (input 1)) (rooted (thr []))).map (fun s => ((s.pnode 0).rounds.map (fun r => r.got.map (·.1)), s.agenda))) =
    some ([[1]], [.roundTimeout 0 0 5]) := by decide +kernel
theorem test_round_timeout : ((after (.roundTimeout 0 0 5) ((on (thr [])).modPnode 0 open0)).map (fun s => s.agenda.map (fun i => match i with
    | .reductionResult r => (r.late, r.miss.toNat % 2 ^ 16) | _ => (false, 0)))) = some [(true, 2)] := by decide +kernel
theorem test_reduction_result : ((after (.reductionResult (result false)) ((on (thr [])).modPnode 0 open0)).map (fun s => ((s.pnode 0).rounds, (s.pnode 0).discard,
    (s.lcore 4096).results.map (·.val.toNat)))) = some ([], [(0, 5)], [10]) := by decide +kernel
theorem test_discard_ends : ((after (.roundDiscardExpiry 0 0 5) ((on (thr [])).modPnode 0 (fun n => { n with discard := [(0, 5), (0, 6)] }))).map (fun s => (s.pnode 0).discard)) =
    some [(0, 6)] := by decide +kernel

/-- Channel 1 of core 0 linked to the package barrier 3, with a sum. -/
def weighing (t : Thread) (hold : Bool) (m : Tbl Byte := []) : State :=
  { (barred t).modLcore 4096 (fun l => { l with wb := [(1, { Weigh.reset with link := some bar3, acc := 2 ^ 70 + 5, flush := 2, hold := hold, compares := 4, torn := true })] }) with mem := m }
/-- A channel descriptor: base at byte 128 of the own window, 64 bytes, FP32, linked to barrier 3 of the package. -/
def wbDesc : Nat := (ownBase + 128) + 64 * 2 ^ 64 + 4 * 2 ^ 144 + 0 * 2 ^ 160 + 0x6003 * 2 ^ 320

/-- WeighbridgeCensusResult: a held channel and one that is not, numbers inside and outside the range, a rest core. -/
theorem witness_weigh : ((weighing (thr []) true).weighOf 4096 1).hold = true ∧ ((weighing (thr []) false).weighOf 4096 1).link = some bar3 ∧
    ((weighing (thr []) false).cfgWeigh 0 (taskKey 1 0) 4096 0 0).isNone = true ∧
    ((barred (thr [])).cfgWeigh 0 (taskKey 1 0) 4096 0 (BitVec.ofNat 512 wbDesc)).isSome = true := by decide +kernel
theorem test_wb_rd : xAfter (.wbRd 10 11) (weighing (thr [(11, 0x01)]) true) 10 = some 0x40000000D ∧ xAfter (.wbRd 10 11) (weighing (thr [(11, 0x11)]) true) 10 = some 5 ∧
    xAfter (.wbRd 10 11) (weighing (thr [(11, 0x21)]) true) 10 = some 64 ∧ xAfter (.wbRd 10 11) (weighing (thr [(11, 0x61)]) true) 10 = some 0x6003 := by decide +kernel
theorem test_wb_rd_beyond : Traps (.wbRd 10 11) (thr [(11, 0x71)]) 7 0x71 := rfl
theorem test_wb_clr : ((after (.wbClr 11) (weighing (thr [(11, 1)]) false)).map (fun s => ((s.weighOf 4096 1).acc, (s.weighOf 4096 1).torn, (s.weighOf 4096 1).link))) =
    some (0, false, some bar3) := by decide +kernel
theorem test_wb_ack_beyond : Traps (.wbAck 11) (thr [(11, 4)]) 7 4 := rfl
theorem test_cen_mode : ((after (.cenMode 11) (on (thr [(11, 6)]))).map (fun s => ((s.lquad 1024).cenMode, (s.lquad 1024).cenTrap))) = some (2, true) := by decide +kernel
theorem test_cen_mode_3 : Traps (.cenMode 11) (thr [(11, 3)]) 7 3 := rfl
theorem test_cen_buf : ((after (.cenBuf 11) (on (thr [(11, 0x1040)]))).map (fun s => (s.lquad 1024).cenBuf)) = some 0x1040 := by decide +kernel
theorem test_cen_buf_misaligned : Traps (.cenBuf 11) (thr [(11, 0x1020)]) 4 0x1020 := rfl
theorem test_cen_rd : xAfter (.cenRd 10 11) ((on (thr [(11, 0x2007)])).modLquad 1024 (fun q => { q with census := [(7, { nan := 1, inf := 2, sat := 3, under := 4 })] })) 10 = some 3 := by
  decide +kernel

/-! ## Caches, pages and handler actions -/

/-- CacheAndPageResult: a range inside the own window, one outside, one that wraps. -/
theorem witness_range : ownBase ≤ (va 64).toNat ∧ (va 64).toNat + 128 ≤ ownBase + windowSize ∧ (on (thr [])).physOf 4096 = 0 ∧ ((on (thr [])).frameOf page0).isSome ∧
    unitsIn 64 128 16384 = [64] ∧ 2 ^ 57 < (2 ^ 57 - 1) + 2 ∧ (on (thr [])).coresIn 4096 0 = [0] := by decide +kernel
theorem test_sp_pin : ((after (.spPin 11 12) (on (thr [(11, va 64), (12, 128)]))).map (fun s => ((s.pcore 0).frames.map (fun e => e.2.pinned), s.cur.map (·.pc)))) =
    some ([true], some (hbm 4)) := by decide +kernel
theorem test_sp_pin_outside : Traps (.spPin 11 12) (thr [(11, 64), (12, 128)]) 5 64 := by
  have h : ownVa 4096 (64 : Word).toNat < ownBase ∨ ownBase + windowSize < ownVa 4096 (64 : Word).toNat + (128 : Word).toNat := by decide +kernel
  have hc : (on (thr [(11, 64), (12, 128)])).cur = some (thr [(11, 64), (12, 128)]) := rfl
  have hl : ((on (thr [(11, 64), (12, 128)])).task (thr [(11, 64), (12, 128)]).task).lc = 4096 := by decide +kernel
  have ha : (thr [(11, 64), (12, 128)]).getX 11 = 64 := by decide +kernel
  have hb : (thr [(11, 64), (12, 128)]).getX 12 = 128 := by decide +kernel
  have hr : (thr [(11, 64), (12, 128)]).resv = none := rfl
  unfold Traps exec execSpPin State.pagesDo State.issue
  simp only [hc, hr, ha, hb, hl]
  rw [if_neg (by decide +kernel), if_neg (by decide +kernel), if_pos h]
theorem test_sp_unpin : ((after (.spUnpin 11 12) ((on (thr [(11, va 64), (12, 128)])).modPcore 0 (fun p => { p with frames := [(0, { page := page0, pinned := true, touch := 0, dirty := 0 })] }))).map
    (fun s => (s.pcore 0).frames.map (fun e => e.2.pinned))) = some [false] := by decide +kernel
theorem test_ic_inv : ((after (.icInv 0) ((on (thr [])).modPcore 0 (fun p => { p with icache := [(0, 1), (64, 2)], ipins := [64] }))).map
    (fun s => (s.pcore 0).icache.map (·.1))) = some [64] := by decide +kernel
set_option maxRecDepth 2000 in
theorem test_ic_pin_wraps : Traps (.icPin 11 12 0) (thr [(11, 2 ^ 57 - 1), (12, 2)]) 7 (2 ^ 57 - 1) := rfl
theorem test_ic_pf_wraps : pcAfter (.icPf 11 12 0) (on (thr [(11, 2 ^ 57 - 1), (12, 2)])) = some (hbm 4) := by decide +kernel
theorem test_tlb_inv : ((after (.tlbInv 11 0) ((on { thr [] with smode := true }).modPcore 0 (fun p => { p with tlb := [{ asid := 0, pte := 1, base := 0, size := 4096 }] }))).map
    (fun s => (s.pcore 0).tlb.length)) = some 0 := by decide +kernel
theorem test_trc_mark : ((after (.trcMark 9) ((on (thr [])).modPcore 0 (fun p => { p with traceOn := true }))).map (fun s => (s.pcore 0).trace.map (fun e => e.payload.head?))) =
    some [some 9] := by decide +kernel

/-- A faulted record of another task at an address of region 1, and the handler of core 0 that names it. -/
def rec5 (st : RecState) (want : Want) : Rec :=
  { id := 5, addr := hbm 0x80000000, size := 128, st := st, seq := 0, mask := 0, reply := 0, cause := 7, wait := 11, obj := 0, task := taskKey 1 9, smode := false, lm := [],
    sscratch := 0, vw := 0, want := want, err := none, ipc := 0, ihl0 := HLoop.off, ihl1 := HLoop.off, ivs := 0, heldSlot := none, parked := false, movedFrom := none,
    again := none }
def ref5 : RecRef := { lc := 4096, id := 5 }
def kept (t : Thread) (st : RecState) (want : Want) (m : Tbl Byte := []) : State := (on t m).modLcore 4096 (fun l => { l with recs := [rec5 st want] })
def super (x : Tbl Word) : Thread := { thr x with smode := true }

/-- HandlerActionResult and MemoryReadResult: the record that an address names, and none; its place in memory. -/
theorem witness_record : (kept (super []) .faulted .nothing).recAt 4096 (hbm 0x80000000) = some (ref5, rec5 .faulted .nothing) ∧
    (kept (super []) .faulted .nothing).recAt 4096 0 = none ∧ (kept (super []) .waiting .nothing).recOf ref5 = some (rec5 .waiting .nothing) ∧
    (kept (super []) .faulted .nothing).siloPa 4096 (hbm 0x80000000) = some (programBase + 0x80000000) ∧ (rec5 .faulted .nothing).task ≠ (super []).task := by decide +kernel
theorem test_cont_resume : ((after (.contResume 11) (kept (super [(11, hbm 0x80000000)]) .faulted .nothing [(programBase + 0x80000008, 0xB3)])).map
    (fun s => ((s.recOf ref5).map (·.st), (s.lcore 4096).ready))) = some (some .ready, [5]) := by decide +kernel
theorem test_cont_skip : ((after (.contSkip 11) (kept (super [(11, hbm 0x80000000)]) .faulted .nothing [(programBase + 0x80000000, 0x11)])).map
    (fun s => s.byteAt (programBase + 0x80000000))) = some 0x14 := by decide +kernel
theorem test_cont_kill : ((after (.contKill 11) (kept (super [(11, hbm 0x80000000)]) .faulted .nothing)).map (fun s => s.recOf ref5)) = some none := by decide +kernel
theorem test_cont_none : Traps (.contKill 11) (super [(11, 64)]) 7 64 := rfl
theorem test_cont_move_beyond : ((after (.contMove 11 12) (kept (super [(11, hbm 0x80000000), (12, 16)]) .faulted .nothing)) =
    some ((kept (super [(11, hbm 0x80000000), (12, 16)]) .faulted .nothing).trap (super [(11, hbm 0x80000000), (12, 16)]) 30 16)) := rfl
theorem test_mb_bind_misaligned : Traps (.mbBind 11 12) (super [(11, 4)]) 4 4 := rfl
/-- A word of the own window of core 0, whose frame is resident, is unbound. -/
theorem test_mb_unbind : ((after (.mbUnbind 11) { on (super [(11, hbm 64)]) with binds := [{ pa := programBase + 64, va := hbm 64, body := 0, part := 1, smode := false }] }).map
    (fun s => s.binds)) = some [] := by decide +kernel


/-! ## Records, homes, replies -/

/-- RecordRoundTrip: the mask of a record that saves x10, v1 and the predicates. -/
def full : Thread := { thr [(10, 0x1122334455667788), (11, 9)] with v := [(1, BitVec.ofNat 1024 77)], vw := 2, p := [(1, 3)], lm := [(0, BitVec.ofNat 64 (2 ^ 33 + 2 ^ 10 + 1))], vl := 64 }
def full5 (m : Word) : Rec := { rec5 .ready .nothing with mask := m, task := taskKey 1 0 }
theorem witness_roundTrip : (full5 (saveMask full readyDep.all readyDep.reply)).mask = saveMask full readyDep.all readyDep.reply ∧ full.pc.toNat % 4 = 0 ∧
    full.frm.toNat ≤ 4 ∧ full.vl.toNat ≤ 128 ∧ full.vl.toNat % 8 = 0 ∧ full.hl0.remaining = 0 := by decide +kernel
theorem test_round_trip : let m := saveMask full false 0
    let u := restore (full5 m) (recBytes (header full ((on full).task (taskKey 1 0)) 3 m readyDep 0) full m)
    m = BitVec.ofNat 64 (2 ^ 33 + 2 ^ 10 + 1) ∧ u.getX 10 = 0x1122334455667788 ∧ u.getX 11 = 0 ∧ (u.getV 1).toNat = 77 ∧ u.getP 1 = 3 ∧ u.pc = full.pc := by decide +kernel

/-- A store buffer of core 0 with one entry, and the write that its store makes. -/
def cell (a : Nat) (b : Byte) : WriteReq := { cells := [(a, b)], ack := none, src := 0, va := word a, task := taskKey 1 0, rel := none }
def buffer (op : SbOp) : State := (on (thr [])).modPcore 0 (fun p => { p with sb := [{ id := 9, slot := 0, task := taskKey 1 0, op := op }] })
def written9 (a : Nat) : State := (on (thr [])).modPquad 0 (fun q => { q with path := [{ id := 9, core := 0, done := true, acked := false, cells := [(a, 1)] }] })
def at5 : Nat := programBase + 0x40000

/-- MemoryWriteResult: a buffer with an entry and none, a path that is acknowledged, a home with a mark, a reservation, a monitor and a binding. -/
theorem witness_homes : ((buffer (.data (cell at5 7) false false)).pcore 0).sb ≠ [] ∧ ((on (thr [])).pcore 0).sb = [] ∧ regionOf at5 = 1 ∧ (at5 % 64 = 0) ∧
    (buffer (.data (cell at5 7) false false)).unreachable 0 ((buffer (.data (cell at5 7) false false)).homeNode at5) = false ∧
    (on (thr [])).uncommitted 0 at5 8 = false ∧ (∀ e ∈ (on (thr [])).lcores, e.2.recs = []) := by decide +kernel
theorem test_sb_leaves : ((after (.storeBufferLeave 0) (buffer (.data (cell at5 7) false false))).map (fun s => ((s.pcore 0).sb, (s.pquad 0).path.map (fun e => (e.id, e.acked)), s.agenda.length))) =
    some ([], [(9, false)], 1) := by decide +kernel
theorem test_sb_barrier : ((after (.storeBufferLeave 0) (buffer (.barArrive bar2 64))).map (fun s => s.agenda)) = some [.barrierArrivalApply ⟨bar2, some (0, taskKey 1 0)⟩ 64 0] := by decide +kernel
theorem test_sb_release_waits : ((after (.storeBufferLeave 0) ((buffer (.release 3 false false)).modPquad 0 (fun q => { q with path := ((written9 at5).pquad 0).path }))).map
    (fun s => ((s.pcore 0).sb.length, s.agenda))) = some (1, [.storeBufferLeave 0]) := by decide +kernel
theorem test_write_ack : ((after (.writeAck 0 9) (written9 at5)).map (fun s => (s.pquad 0).path)) = some [] := by decide +kernel
theorem test_home_write : byteAfter (.homeWrite (cell at5 7)) (on (thr [])) at5 = some 7 := by decide +kernel
theorem test_home_write_parks : ((after (.homeWrite (cell at5 7)) { on (thr []) with marks := [(at5, .repair)] }).map (fun s => s.parked.map (·.1))) = some [at5] := by decide +kernel
theorem test_home_write_behind : ((after (.homeWrite (cell at5 7)) { on (thr []) with resvs := [{ pa := at5, holder := taskKey 1 3, queue := [] }] }).map
    (fun s => (s.byteAt at5, s.resvs.map (fun r => r.queue.length)))) = some (0, [1]) := by decide +kernel
theorem test_home_write_releases : ((after (.homeWrite { cell at5 7 with rel := some at5 }) { on (thr []) with resvs := [{ pa := at5, holder := taskKey 1 0, queue := [] }] }).map
    (fun s => (s.byteAt at5, s.resvs))) = some (7, []) := by decide +kernel
/-- No register stands at offset 0x2000 of a node's block. -/
theorem test_unlisted_register : exec (.homeWrite (cell (3 * 2 ^ 48 + 0x2000) 7)) (on (thr [])) = .fault (.unlistedRegister (3 * 2 ^ 48 + 0x2000)) := rfl
theorem test_home_amo : ((after (.homeAmo { op := 0, dbl := false, pa := at5, arg := 3, cmp := 0, reply := some ref5, ack := none, src := 0, va := word at5, task := 0 })
    (on (thr []) [(at5, 0xFE), (at5 + 1, 0xFF), (at5 + 2, 0xFF), (at5 + 3, 0xFF)])).map (fun s => (s.mem.length, s.byteAt at5, s.agenda.map (fun i => match i with
      | .recordReply _ r => (r.val.setWidth 64 : Word) | _ => 0)))) = some (1, 1, [0xFFFFFFFFFFFFFFFE]) := by decide +kernel
theorem test_wc_timeout : ((after (.wcBufferTimeout 0 0) (on { thr [] with wc := some { cells := [(at5, 1)], va := word at5 } })).map (fun s => (s.cur.map (·.wc), (s.pquad 0).path.length))) =
    some (some none, 1) := by decide +kernel

/-- A waiting load of eight bytes at that address, for x10. -/
def wants (op : AccOp) (va : Word) (n : Nat) : Acc :=
  { op := op, pieces := [{ off := 0, va := va, size := n, data := 0 }], arg := 0, cmp := 0, dbl := n == 8, signed := false, scope := none, nt := false, spread := [], aux := 0,
    mask := 0, fwd := [], got := 0 }
def waiting (op : AccOp) (m : Tbl Byte := []) : State :=
  (on (thr []) m).modLcore 4096 (fun l => { l with recs := [{ rec5 .waiting (.access (wants op (word at5) 8)) with reply := 10, mask := 1024, task := taskKey 1 0 }] })

/-- MemoryReadResult: a record that waits, one that is ready, and none. -/
theorem witness_reads : ((waiting .load).recOf ref5).map (·.st) = some .waiting ∧ ((kept (thr []) .ready .nothing).recOf ref5).map (·.st) = some .ready ∧
    (on (thr [])).recOf ref5 = none ∧ (waiting .load).heldBack 0 (taskKey 1 0) false false = false ∧ (waiting .load).coreOf ref5 = 0 ∧
    (waiting .load).readWaits 0 at5 8 5 false = false ∧ (waiting .load).unreachable 0 ((waiting .load).homeNode at5) = false := by decide +kernel
theorem test_reply : ((after (.recordReply ref5 (Reply.word_ 0x1234)) (waiting .load)).map (fun s => ((s.recOf ref5).map (·.st), (s.lcore 4096).ready,
    s.byteAt (programBase + 0x80000000 + 64), s.byteAt (programBase + 0x80000000 + 65)))) = some (some .ready, [5], 0x34, 0x12) := by decide +kernel
theorem test_reply_trap : ((after (.recordReply ref5 (Reply.trap_ 31 4)) (waiting .load)).map (fun s => (s.recOf ref5).map (·.err))) = some (some (some (31, 4))) := by decide +kernel
theorem test_reply_late : ((after (.recordReply ref5 (Reply.word_ 1)) (kept (thr []) .ready .nothing)).map (fun s => (s.lcore 4096).ready)) = some [] := by decide +kernel
theorem test_home_arms : ((after (.homeRequest ref5) (waiting .waitNe)).map (fun s => (s.monitors.map (fun m => (m.pa, m.ne)), s.agenda))) = some ([(at5, true)], []) := by decide +kernel
theorem test_home_join : ((after (.homeRequest ref5) (waiting .join)).map (fun s => (s.monitors, s.agenda.length))) = some ([], 1) := by decide +kernel
theorem test_home_reservation : ((after (.homeReservation ref5) (waiting .resAcq)).map (fun s => s.resvs.map (fun r => (r.pa, r.holder)))) = some [(at5, taskKey 1 0)] := by decide +kernel
theorem test_walk_complete : ((after (.tlbWalkComplete ref5) (waiting .load)).map (fun s => s.agenda)) = some [.homeRequest ref5] := by decide +kernel
theorem test_icache_fill : ((after (.icacheFill ref5) (waiting .fetch [(at5, 0x13)])).map (fun s => ((s.pcore 0).icache, (s.recOf ref5).map (·.st)))) =
    some ([(at5, 0x13)], some .ready) := by decide +kernel

/-- Page 1 of the own window, of which no frame holds a copy, is brought in. -/
theorem witness_page : (on (thr [])).frameOf { page0 with page := 1 } = none ∧ ((on (thr [])).pcore 0).freeFrame.isSome ∧ ((on (thr [])).pnode ((on (thr [])).nodeOfLc 4096)).st ≠ .resetting := by
  decide +kernel
theorem test_page_in : ((after (.pageInComplete { page0 with page := 1 }) (on (thr []))).map (fun s => (s.frameOf { page0 with page := 1 }).isSome)) = some true := by decide +kernel
theorem test_repair_retry : ((after (.repairRetry ((on (thr [])).homeNode at5) at5) { on (thr []) with marks := [(at5, .repair)], parked := [(at5, .homeRequest ref5)] }).map
    (fun s => (s.marks, s.parked, s.agenda))) = some ([], [], [.homeRequest ref5]) := by decide +kernel
theorem test_repair_poison : ((after (.repairPoison ((on (thr [])).homeNode at5) at5) { on (thr []) with marks := [(at5, .repair)], parked := [] }).map (fun s => s.marks)) =
    some [(at5, .poisoned)] := by decide +kernel


/-! ## Scheduling, keys, stealing, the watchdog -/

/-- A queue of function 0, whose ring of 64 records stands at the start of the writable part of BAR 2 and whose home is node 0. -/
def queue0 (tail : BitVec 32) : HQueue :=
  { fn := 0, part := 1, home := 0, prio := 3, log2n := 6, ring := 2 ^ 28, sq := false, tail := tail, head := 0, ovr := false, st := .active, lastService := 0, workSince := 0,
    port := some 0, t1 := 1000, t2 := 2000, t3 := 3000, aboveT1 := false }
def queued (tail : BitVec 32) : State := { on (thr []) with queues := [(7, queue0 tail)], bar2 := [(2 ^ 28, 0x80)] }
/-- A record in the FIFO of the partition's dispatcher, for a task at 0x80 that any core may run; and one with two keys. -/
def recordOf (key core : Nat) : BitVec 1024 := BitVec.ofNat 1024 (0x80 + key * 2 ^ 320 + core * 2 ^ 464)
def inboxOf (b : BitVec 1024) : State := (on (thr [])).modLnode 256 (fun l => { l with inbox := [{ body := b, src := .port 7 false }] })

/-- SchedulingResult: a queue with work and a port, an overrun, a dispatcher with a record. -/
theorem witness_queue : ((queued 1).arbitrate 0).map (·.1) = some 7 ∧ (queued 0).arbitrate 0 = none ∧ (queued 1).queues.risingFrom 0 = true ∧
    ((inboxOf (recordOf 0 2)).lnode 256).waiters = [] ∧ recordRanges (recordOf 9 2) = [] ∧ recordKeys (recordOf 9 2) = [(9, false)] ∧ recordKeys (recordOf 0 2) = [] ∧
    field (recordOf 0 2) 464 16 < (on (thr [])).lcount 1 := by decide +kernel
theorem test_tail_write : ((after (.queueTailWrite 7 2) (queued 0)).map (fun s => ((s.queue 7).tail, (s.queue 7).ovr, s.agenda.contains (.arbiterGrant 0)))) = some (2, false, true) := by
  decide +kernel
theorem test_tail_overrun : ((after (.queueTailWrite 7 65) (queued 0)).map (fun s => ((s.queue 7).ovr, (s.queue 7).st))) = some (true, .stopped) := by decide +kernel
theorem test_grant : ((after (.arbiterGrant 0) (queued 1)).map (fun s => ((s.queue 7).head, (s.lnode 256).inbox.map (fun e => e.body.toNat)))) = some (1, [0x80]) := by decide +kernel
theorem test_dispatch_core : ((after (.dispatcherTake 256) (inboxOf (recordOf 0 2))).map (fun s => ((s.lnode 256).inbox, (s.lcore 4098).deque.map (fun k => (s.task k).entry)))) =
    some ([], [0x80]) := by decide +kernel
theorem test_dispatch_key : ((after (.dispatcherTake 256) (inboxOf (recordOf 9 2))).map (fun s => s.agenda.map (fun i => match i with | .keyRequest m => m.key | _ => 0))) =
    some [9] := by decide +kernel

/-- Core 1 has a task in its deque and its slots 1 to 7 are taken. -/
def seven : Tbl Slot := (List.range 7).map (fun i => (i + 1, { thread := some (Thread.start (taskKey 1 (20 + i)) 0 false []), credit := none }))
def child : Task := { Task.blank with tid := 3, part := 1, lcore := 1, entry := 0x85, args := [1, 2, 3, 4], target := 0xFFFF }
def filling (f : LCore → LCore) : State :=
  { ((on (thr [])).modLcore 4097 f).modPcore 1 (fun p => { p with slots := seven }) with tasks := [(taskKey 1 0, (on (thr [])).task (taskKey 1 0)), (taskKey 1 3, child)] }
theorem witness_fill : (filling id).hosted 1 = [4097] ∧ (filling id).mustPark 1 = false ∧ (filling id).slot 1 0 = Slot.empty ∧
    (∀ j, j < 8 → j ≠ 0 → (filling id).slot 1 j ≠ Slot.empty) ∧ ((filling id).csrs 4097).kxrsv = true := by decide +kernel
/-- Slot 7 is the S-mode slot: a pending S-mode task does not take slot 0. -/
theorem test_fill_reserved : ((after (.slotFill 1) (filling (fun l => { l with pendS := [taskKey 1 3] }))).map (fun s => (s.lcore 4097).pendS)) = some [taskKey 1 3] := by decide +kernel
theorem test_fill_halted : ((after (.slotFill 0) ((on (thr [])).modPcore 0 (fun p => { p with halted := true }))).map (fun s => s.free)) = some (on (thr [])).free := by decide +kernel

def msg (k : Nat) : KeyMsg := { part := 1, task := taskKey 1 3, key := k, shared := false, disp := 256 }
def keyed (h f : List (Nat × Bool)) : State := (filling id).modPart 1 (fun p => { p with keys := [(9, { holders := h, fifo := f })] })
/-- KeyStealWatchdogResult: a key that is free, held, or has waiters; a victim with work; a governor that is on; a queue that has a task. -/
theorem witness_keys : ((keyed [] []).tasks.find (msg 9).task).isSome ∧ (keyed [] []).unreachable ((keyed [] []).dispNode (msg 9)) ((keyed [] []).keyHome 1 9) = false ∧
    ((keyed [(5, false)] []).keyEnt 1 9).holders = [(5, false)] ∧ (on (thr [])).tasks.find (msg 9).task = none := by decide +kernel
theorem test_key_granted : ((after (.keyRequest (msg 9)) (keyed [] [])).map (fun s => ((s.keyEnt 1 9).holders, s.agenda))) = some ([(taskKey 1 3, false)], [.keyGrant (msg 9)]) := by
  decide +kernel
theorem test_key_waits : ((after (.keyRequest (msg 9)) (keyed [(5, false)] [])).map (fun s => ((s.keyEnt 1 9).fifo, s.agenda))) = some ([(taskKey 1 3, false)], []) := by decide +kernel
theorem test_key_release : ((after (.keyRelease (msg 9)) (keyed [(taskKey 1 3, false)] [(5, false), (6, true)])).map (fun s => ((s.keyEnt 1 9).holders, (s.keyEnt 1 9).fifo))) =
    some ([(5, false)], [(6, true)]) := by decide +kernel
theorem test_key_grant : ((after (.keyGrant (msg 9)) ((keyed [] []).modTask (taskKey 1 3) (fun t => { t with want := [(9, false), (12, true)] }))).map
    (fun s => ((s.task (taskKey 1 3)).held, (s.task (taskKey 1 3)).want, s.agenda))) =
    some ([(9, false)], [(12, true)], [.keyRequest { part := 1, task := taskKey 1 3, key := 12, shared := true, disp := ((keyed [] []).task (taskKey 1 3)).disp }]) := by decide +kernel
theorem test_key_grant_late : ((after (.keyGrant (msg 9)) (on (thr []))).map (fun s => s.agenda)) = some [.keyRelease (msg 9)] := by decide +kernel

theorem witness_steal : (filling (fun l => { l with deque := [taskKey 1 3] })).mayTake 4098 (taskKey 1 3) = true ∧
    (filling id).nodeAway ((filling id).physOf 4097 / 16) = false ∧ (filling id).outstanding 1 (scopeOf 4098 4097) = false ∧
    ((filling id).pcore 2).fills = true ∧ (filling id).freeFor 2 = some 0 ∧ (filling id).victims 4098 ≠ [] := by decide +kernel
theorem test_steal : ((after (.stealRequest 4098 4097) (filling (fun l => { l with deque := [taskKey 1 3] }))).map (fun s => ((s.lcore 4097).deque, s.agenda))) =
    some ([], [.stealAnswer 4098 (some (taskKey 1 3))]) := by decide +kernel
theorem test_steal_nothing : ((after (.stealRequest 4098 4097) (filling id)).map (fun s => s.agenda)) = some [.stealAnswer 4098 none] := by decide +kernel
theorem test_steal_next : ((after (.stealAnswer 4098 none) ((filling id).modPcore 2 (fun p => { p with stealTry := some 0 }))).map (fun s => s.agenda.head?)) =
    some (some (.stealRequest 4098 4096)) := by decide +kernel
theorem test_steal_pause : ((after (.stealPauseEnd 4098) ((filling id).modPcore 2 (fun p => { p with stealPause := true }))).map (fun s => (s.pcore 2).stealPause)) = some false := by
  decide +kernel

/-- Ring 1 is above its mark of 0, ring 2 below its mark of 4, and only core 5 serves ring 2. -/
def governed (n : PNode) : PNode :=
  { n with gov := 0xA0001, govRing := [(1, 0x00000001), (2, 0x00040008)], rings := [(1, [7, 8])], masks := (List.range 16).map (fun i => (i, if i = 5 then 0xFE else 0x01)) }
theorem test_governor : ((after (.governorPeriod 0) ((on (thr [])).modPnode 0 governed)).map (fun s => ((s.pnode 0).mask 5, (s.pnode 0).mask 4))) = some (2, 1) := by decide +kernel
theorem test_governor_off : ((after (.governorPeriod 0) (on (thr []))).map (fun s => s.agenda)) = some [] := by decide +kernel

def timed (t : Thread) : State := { (on t).modTask (taskKey 1 0) (fun k => { k with origin := some 7 }) with queues := [(7, queue0 0)] }
theorem witness_watchdog : ((timed (thr [])).task (taskKey 1 0)).origin = some 7 ∧ ((timed (thr [])).queue 7).t2 ≠ 0 ∧ (timed (thr [])).resident (taskKey 1 0) = true := by decide +kernel
theorem test_watchdog_1 : ((after (.watchdogT1 7) (timed (thr []))).map (fun s => (s.cur.map (·.mark), (s.queue 7).aboveT1))) = some (some .yield, true) := by decide +kernel
theorem test_watchdog_2 : ((after (.watchdogT2 7) (timed (thr []))).map (fun s => (s.cur.map (·.mark), (s.queue 7).st))) = some (some .kill, .killed) := by decide +kernel
theorem test_watchdog_3 : ((after (.watchdogT3 7) (timed (thr []))).map (fun s => ((s.pcore 0).fenced, (s.pcore 1).fenced))) = some (true, false) := by decide +kernel

/-! ## Bring-up, the mailbox, debug and registers -/

def link0 : LinkRef := { node := 17, dir := 1, mesh := 0 }
def plain (st : NodeState) : PNode :=
  { st := st, fcode := 0, up := 0xFF, harvest := 0, l2dir := 0, nst := [], egress := [], gov := 0x000A0000, govRing := [], masks := [], rings := [], collpp := 0, trees := [],
    rounds := [], gleans := [], discard := [], links := [], replays := [], vLink := .active, mLink := .active }
/-- No node harvested; node 17 in a state of its own, and every other READY. -/
def inState (st : NodeState) : State := { State.reset with pnodes := (List.range 256).map (fun n => (n, plain (if n = 17 then st else .ready))), agenda := [] }
def linkIs (st : LinkState) (n : PNode) : PNode := { n with links := [(0, st), (1, st)], replays := [(1, 7)] }

/-- MeshBringupResult: links and nodes in each state, a direct entry and one through a relay, clocks beside a node. -/
theorem witness_mesh : ((inState .ready).modPnode 17 (linkIs .active)).linkState 17 0 1 = .active ∧ ((inState .ready).modPnode 17 (linkIs .retrain)).linkState 17 0 1 = .retrain ∧
    neighbour 17 1 = some 18 ∧ ((inState .dark).pnode 17).st = .dark ∧ field ((inState .dark).entry 17 18) 0 2 < 2 ∧ neighbour 17 3 = some 16 := by decide +kernel
theorem test_retrain_active : ((after (.retrainReachesActive link0) ((inState .ready).modPnode 17 (linkIs .retrain))).map (fun s => s.linkState 17 0 1)) = some .active := by decide +kernel
theorem test_retrain_timeout_clocked : ((after (.linkRetrainTimeout link0) ((inState .clocked).modPnode 17 (linkIs .retrain))).map (fun s => ((s.pnode 17).st, (s.pnode 17).fcode))) =
    some (.fenced, 2) := by decide +kernel
theorem test_relay : ((after (.relayPacket 17 18 (cell at5 7)) (inState .ready)).map (fun s => s.agenda.head?)) = some (some (.homeWrite (cell at5 7))) := by decide +kernel
theorem test_clock_lock : ((after (.clockLock 17 16) ((inState .dark).modPnode 16 (fun n => { n with st := .clocked }))).map (fun s => ((s.pnode 17).st, (s.pnode 17).up))) =
    some (.clocked, 16) := by decide +kernel
theorem test_clock_lock_no_clock : ((after (.clockLock 17 16) ((inState .dark).modPnode 16 (fun n => { n with st := .dark }))).map (fun s => (s.pnode 17).st)) = some .dark := by decide +kernel
theorem test_clock_timeout : ((after (.clockLockTimeout 17) (inState .dark)).map (fun s => ((s.pnode 17).st, (s.pnode 17).fcode))) = some (.fenced, 1) := by decide +kernel
theorem test_self_test : ((after (.selfTestDone 17 true) (inState .configured)).map (fun s => (s.pnode 17).st)) = some .tested ∧
    ((after (.selfTestDone 17 true) (inState .tested)).map (fun s => ((s.pnode 17).st, s.fw.service))) = some (.ready, [17]) ∧
    ((after (.selfTestDone 17 false) (inState .configured)).map (fun s => (s.pnode 17).fcode)) = some 3 := by decide +kernel
theorem test_quiesce_timeout : ((after (.quiesceTimeout 17) (inState .quiescing)).map (fun s => ((s.pnode 17).st, (s.pnode 17).fcode))) = some (.fenced, 5) := by decide +kernel
theorem test_link_trained : ((after (.linkTrained 17) (inState .clocked)).map (fun s => (s.pnode 17).st)) = some .linked := by decide +kernel
theorem test_configuration_waits : ((after .configurationPhase (inState .dark)).map (fun s => (s.pnode 17).st)) = some .dark := by decide +kernel
theorem test_cold_reset : ((after .coldReset (on (thr []) [(5, 1), (2 * 2 ^ 48 + 5, 1), (4 * 2 ^ 48, 2)])).map (fun s => (s.mem, s.tasks.length, s.clock))) =
    some ([(2 * 2 ^ 48 + 5, 1), (4 * 2 ^ 48, 2)], 0, 0) := by decide +kernel
theorem test_throttle : ((after (.throttleUp 3) State.reset).map (fun s => s.fw.steps.get 0 3)) = some 1 ∧
    ((after (.throttleDown 3) (State.reset.modFw (fun f => { f with steps := [(3, 2)] }))).map (fun s => s.fw.steps.get 0 3)) = some 1 ∧
    ((after (.throttleUp 3) (State.reset.modFw (fun f => { f with steps := [(3, 8)] }))).map (fun s => s.fw.steps.get 0 3)) = some 8 := by decide +kernel
theorem test_package_power : ((after .packagePowerOver State.reset).map (fun s => (s.fw.steps.get 0 0, s.fw.steps.get 0 31, s.fw.log.length))) = some (1, 1, 32) := by decide +kernel
theorem test_stall_map_off : ((after .stallMapSample State.reset).map (fun s => s.fw.stallNum)) = some 0 := by decide +kernel

/-- A command of function 3 with its arguments, after a negotiation that accepted features 0 to 3. -/
def mailed (a : Tbl Word) (neg : Bool := true) : State :=
  { (queued 0).modDie 3 (fun d => { d with cmd := 0x09, cmdSeq := 77, args := a, stat := 1 }) with
    fw := { Firmware.reset with pending := [3], negotiated := neg, features := if neg then 15 else 0, log := [{ time := 4, kind := 6, node := 9, detail := 0 }] } }
def statAfter (i : Instr) (s : State) : Option Word := (after i s).map (fun s => (s.die 3).stat)
/-- MailboxResult: a command that waits, before and after negotiation, a queue that the function owns and one that it does not. -/
theorem witness_mailbox : Commands (mailed []) 3 := ⟨⟨[], rfl⟩, rfl, rfl⟩
theorem witness_owned : ({ mailed [] with queues := [(7, { queue0 0 with fn := 3 })] } : State).ownsQueue 3 7 = true ∧ (mailed []).ownsQueue 3 7 = false ∧
    HostBuffer 0x1000 3456 ∧ ¬HostBuffer 0x1020 8 ∧ (mailed []).launches.find (launchKey 1 4) = none := by unfold HostBuffer; decide +kernel
theorem witness_quiet : Quiet (mailed []) := ⟨rfl, rfl, rfl, rfl⟩
theorem test_before_negotiation : statAfter .setAgeing (mailed [(0, 10)] false) = some 0x4D00000302 := by decide +kernel
theorem test_set_ageing : ((after .setAgeing (mailed [(0, 10)])).map (fun s => ((s.die 3).ageing, (s.die 3).stat, s.fw.pending))) = some (10, 0x4D00000002, []) := by decide +kernel
theorem test_set_ageing_0 : statAfter .setAgeing (mailed []) = some 0x4D00000202 := by decide +kernel
theorem test_negotiate : ((after .negotiateFeatures { mailed [(0, 0x2F)] false with parts := [] }).map (fun s => (s.fw.negotiated, s.fw.features.toNat))) = some (true, 7) := by decide +kernel
theorem test_unknown : statAfter .unknownCommand (mailed []) = some 0x4D00000102 := by decide +kernel
theorem test_not_owner : statAfter .setQueuePriority (mailed [(0, 7), (1, 2)]) = some 0x4D00000502 ∧ statAfter .destroyQueue (mailed [(0, 7)]) = some 0x4D00000502 := by decide +kernel
theorem test_set_priority : ((after .setQueuePriority { mailed [(0, 7), (1, 2)] with queues := [(7, { queue0 0 with fn := 3 })] }).map (fun s => (s.queue 7).prio)) = some 2 := by decide +kernel
theorem test_destroy_queue : ((after .destroyQueue { mailed [(0, 7)] with queues := [(7, { queue0 0 with fn := 3 })] }).map (fun s => (s.queue 7).st)) = some .destroyed := by decide +kernel
theorem test_set_watchdog : ((after .setWatchdog { mailed [(0, 7), (1, 2), (2, 3), (3, 4)] with queues := [(7, { queue0 0 with fn := 3 })] }).map (fun s => ((s.queue 7).t1, (s.queue 7).t3))) =
    some (2000, 4000) := by decide +kernel
theorem test_kill_launch_none : statAfter .killLaunch (mailed [(0, 1), (1, 4)]) = some 0x4D00000502 := by decide +kernel
theorem test_set_power_cap : ((after .setPowerCap (mailed [(0, 5000), (1, 200)])).map (fun s => (s.fw.pkgCap, s.fw.regCap))) = some (5000, 200) ∧
    statAfter .setPowerCap (mailed [(0, 4999), (1, 200)]) = some 0x4D00000202 := by decide +kernel
theorem test_create_queue_range : statAfter .createQueue (mailed [(0, 5 * 2 ^ 43), (1, 2 ^ 28)]) = some 0x4D00000202 := by decide +kernel
theorem test_create_queue : ((after .createQueue { mailed [(0, 9 + 1 * 2 ^ 16 + 2 * 2 ^ 40 + 6 * 2 ^ 43), (1, 2 ^ 28)] with queues := [] }).map (fun s => ((s.queue 9).fn, (s.queue 9).prio, (s.queue 9).log2n))) =
    some (3, 2, 6) := by decide +kernel
theorem test_write_tree : ((after .writeTree (mailed [(0, 17 + 2 * 2 ^ 8), (1, 3), (2, 8)])).map (fun s => ((s.pnode 17).trees.get 0 4, (s.pnode 17).trees.get 0 5))) = some (3, 8) := by decide +kernel
theorem test_set_stall_map : ((after .setStallMap (mailed [(0, 0x1000000000000), (1, 4), (2, 20)])).map (fun s => (s.fw.stallRing, s.fw.stallEvery, s.agenda))) =
    some (4, 20, [.stallMapSample]) := by decide +kernel

/-- DebugRegisterResult: a thread in a slot, and none; a doorbell that waits behind no other. -/
theorem witness_debug : ((on (thr [])).slot 0 0).thread = some (thr []) ∧ ((on (thr [])).slot 0 1).thread = none ∧ ((on (thr [])).die 3).stat.getLsbD 0 = false ∧
    (mailed []).fw.pending ≠ [] ∧ ((mailed []).die 3).stat.getLsbD 0 = true := by decide +kernel
theorem test_debug_halt : ((after (.debugHaltRequest 0) (on (thr []))).map (fun s => ((s.pcore 0).halted, (s.pcore 0).dcause))) = some (true, 3) := by decide +kernel
theorem test_debug_resume : ((after (.debugResumeRequest 0) ((on (thr [])).modPcore 0 (fun p => { p with halted := true }))).map (fun s => ((s.pcore 0).halted, s.agenda))) =
    some (false, [.slotFill 0]) := by decide +kernel
theorem test_debug_command : ((after (.debugAbstractCommand 0 0 0x100B none) (on (thr [(11, 5)]))).map (fun s => (s.pcore 0).dmData)) = some 5 ∧
    ((after (.debugAbstractCommand 0 0 0x100B (some 6)) (on (thr [(11, 5)]))).map (fun s => s.cur.map (·.getX 11))) = some (some 6) ∧
    ((after (.debugAbstractCommand 0 1 0x100B none) (on (thr []))).map (fun s => (s.pcore 0).dmErr)) = some 4 := by decide +kernel
theorem test_sticky_clear : ((after (.engerrClear 0 1 false (1#64 <<< 63)) ((on (thr [])).modPquad 1 (fun q => { q with engerr := 9, cpyerr := 8 }))).map
    (fun s => ((s.pquad 1).engerr, (s.pquad 1).cpyerr))) = some (0, 8) ∧
    ((after (.cendivClear 0 1 (1#64 <<< 63)) ((on (thr [])).modPquad 1 (fun q => { q with cendiv := 9, censeq := 8 }))).map (fun s => ((s.pquad 1).cendiv, (s.pquad 1).censeq))) =
      some (0, 0) := by decide +kernel
theorem test_doorbell : ((after (.registerWrite (.bar0 3 8) 0) ((on (thr [])).modDie 3 (fun d => { d with opcode := 1, seq := 5 }))).map
    (fun s => ((s.die 3).stat, s.fw.pending, s.agenda))) = some (1, [3], [.identify]) := by decide +kernel
theorem test_bar2_write : ((after (.registerWrite (.bar2 0 (2 ^ 28)) 0x55) (on (thr []))).map (fun s => s.bar2.get 0 (2 ^ 28))) = some 0x55 := by decide +kernel
theorem test_governor_write : ((after (.registerWrite (.node 0 0x200) 0xFFFFFFFFFFFFFFFF) (on (thr []))).map (fun s => (s.pnode 0).gov)) = some 0xFFFF0003 := by decide +kernel

/-! ## Steps -/

/-- StepRunsDecoded: a placed program's first step runs its word, and a clock step stands alone after reset's agenda. -/
def placed : State := State.reset.withFetchWord 32 0x00500093
theorem witness_step : placed.nextPlace = some (0, 0) ∧ placed.agenda = [] ∧ placed.moves = [.issue (0, 0)] ∧ State.reset.nextPlace = none := by decide +kernel
/-- `addi x1, x0, 5`. -/
theorem test_step_addi : (match step placed with | .next s => (s.slot 0 0).thread.map (fun t => (t.pc, t.getX 1)) | _ => none) = some (hbm 4, 5) := by decide +kernel
/-- Reset's own memory holds no word: after the bring-up of 17 nothing runs, and the first step is one of the two clocks. -/
theorem test_reset_moves : State.reset.moves.length = 2 := by decide +kernel
/-- MemoryCanonical: the memory of the machine after reset is canonical. -/
theorem witness_canonical : Memory.wf State.reset.mem = true := by decide
/-- DecodeEncode: a well-formed instruction with a word. -/
theorem witness_decode : Instr.wf (.jal 1 5) = true ∧ encode (.jal 1 5) = some 0x00A000EF := by decide +kernel


/-! ## Further hypotheses that can be met -/

/-- BarrierInstructionResult: a thread that resumes a wait with the token that it holds, which deposits. -/
def resumed : Thread := { thr [] with again := some (word programBase, 0x6003) }
theorem witness_resumed : resumed.again.isSome ∧ (thr []).again = none ∧
    ∃ s1 r, Waits (withCtx (on resumed)) resumed resumed 6 0 0x6003 (.barrier bar3 false false 0x6003) s1 r := by
  obtain ⟨s1, r, h⟩ := can_deposit resumed [] resumed resumed.next _ rfl
  exact ⟨rfl, rfl, s1, r, rfl, h⟩

/-- SlotGivenUp and HandlerActionResult: no task waits for a place in a stage ring. -/
theorem witness_noneWaits : NoneWaits (on (thr [])) 1 := by unfold NoneWaits; decide +kernel

/-- SpawnResult, SchedulingResult and KeyStealWatchdogResult: a task without a context block for which the silo has room wherever a free choice puts it. -/
theorem witness_startsOn : StartsOn (filling id) (taskKey 1 3) 4097 ∧ SiloTakes (filling id) 4097 64 := by
  have hc : ((filling id).task (taskKey 1 3)).ctx = none := by decide +kernel
  have hs : SiloTakes (filling id) 4097 64 := by
    intro pick
    have hl : (filling id).lcore 4097 = { LCore.reset 1 with silob := word (programBase + 0x80200000) } := by decide +kernel
    have hz : ({ LCore.reset 1 with silob := word (programBase + 0x80200000) } : LCore).silol.toNat = 0x100000 := rfl
    obtain ⟨o, ho⟩ := State.place_of_empty _ 64 pick (rfl : ({ LCore.reset 1 with silob := word (programBase + 0x80200000) } : LCore).used = []) (by rw [hz]; omega)
    have hf := State.fits_room _ _ _ (State.place_fits _ _ _ _ ho)
    rw [hz] at hf
    have ha : (word (programBase + 0x80200000) + word o).toNat = programBase + 0x80200000 + o := by
      rw [BitVec.toNat_add]
      simp only [word, BitVec.toNat_ofNat]
      unfold programBase
      omega
    refine ⟨o, by rw [hl]; exact ho, ?_⟩
    rw [hl]
    exact State.siloBad_bare _ 4097 _ 64 (by decide +kernel) (by rw [ha]; unfold programBase; omega) (by rw [ha]; unfold programBase; omega)
  refine ⟨?_, hs⟩
  unfold StartsOn
  rw [hc]
  exact hs

/-- StreamBranchAndGuard: guard writes of an earlier cycle, and of this one with no slot left to issue in it. -/
def guarded (n : Nat) : State :=
  { (on (thr [])).modLquad 1024 (fun q => { q with guardNew := [(3, .resolved true, 4096)], guardAt := n }) with turn := (1, 0) }
theorem witness_guardLook : ((guarded 1).lquad 1024).queue = [] ∧ ((guarded 1).lquad 1024).guardNew ≠ [] ∧ ((guarded 1).lquad 1024).guardAt ≠ (guarded 1).clock ∧
    ((guarded 0).lquad 1024).guardAt = (guarded 0).clock ∧ (guarded 0).issuesNow = false := by decide +kernel

/-- StreamChannel and StreamStatusAndTraffic: an element in a resident ring, and a close behind elements that a store buffer holds or that wait at a line. -/
theorem witness_ring : let s := streaming (thr []) 1 1
    let t := s.task (taskKey 1 0)
    s.ringAbsent t in2 1 = none ∧ s.ringBusy (taskKey 1 0) in2 1 false = false ∧ s.ringPoison t in2 1 = none ∧ s.elemsHeld chan2 = false ∧
    s.elemsQueued chan2 (.channelCloseArrives chan2) = false ∧ (buffer (.send (.channelElementsArrive chan2 [7]))).elemsHeld chan2 = true ∧
    ({ s with resvs := [{ pa := fr 256, holder := 1, queue := [.channelElementsArrive chan2 [7]] }] } : State).elemsQueued chan2 (.channelCloseArrives chan2) = true := by
  decide +kernel

/-- TileCommandResult and TileQueueResult: a command whose engine runs an MMA that it may not run beside, one that goes, and a part that waits for
another. -/
def running (c : Cmd) : State := (engine mmaWord mmaMem).modLquad 1024 (fun q => { q with queue := [{ cmdOf mmaWord with id := 2, st := .started }, c] })
def partOf2 (id : Nat) (gr : Nat) (st : CmdState) : Cmd := { cmdOf (tile 2 0 0 1 2 false + 2 ^ 183) with id := id, part := some (gr, 0, { lq := 1024, id := 9 }), st := st }
def grouped : State := (on (thr [])).modLquad 1024 (fun q => { q with queue := [partOf2 1 0 .started, partOf2 2 1 .started] })
theorem witness_commands : (running (cmdOf mmaWord)).engineBusy 1024 (cmdOf mmaWord) = true ∧ (engine mmaWord mmaMem).engineBusy 1024 (cmdOf mmaWord) = false ∧
    (engine mmaWord mmaMem).unreleased 4096 (taskKey 1 0) 0 ((engine mmaWord mmaMem).cmdScope 1024 (cmdOf mmaWord)) = false ∧
    grouped.cmdOf cmd1 = some (partOf2 1 0 .started) ∧ Tw.tgt (partOf2 1 0 .started).w = 2 ∧ grouped.opKeys 1024 (partOf2 1 0 .started) = [] ∧
    (∃ e ∈ grouped.partsOf { lq := 1024, id := 9 }, e.1 ≠ cmd1 ∧ e.2.st ≠ .voted) := by decide +kernel

/-- CopyResult: a piece that meets the reservation of its line. -/
def reservedAt (pa : Nat) : State := { copier with resvs := [{ pa := pa, holder := taskKey 1 3, queue := [] }] }
theorem witness_copyGate : (reservedAt (fr 64)).gate (fr 64) (.copyStart cmd1) = .wait ∧ (reservedAt (fr 64)).gate (fr 128) (.copyStart cmd1) = .go := by decide +kernel

/-- BarrierObjectResult: a node that the object's messages reach whatever node holds it. -/
theorem witness_reach : ∀ a, a < 256 → (on (thr [])).unreachable a ((on (thr [])).nodeOfLc 4096) = false := by decide +kernel

/-- MemoryWriteResult: writes that are performed but not committed, barrier operations on their way, routes, a scratchpad that is gone, a full fault queue. -/
def gone : State := (on (thr [])).modPnode 1 (fun n => { n with st := .resetting })
theorem witness_writes : (written9 at5).owed 0 1 = true ∧ (on (thr [])).owed 0 1 = false ∧ (on (thr [])).barInFlight 0 = false ∧
    ({ on (thr []) with agenda := [.barrierArrivalApply ⟨bar2, some (0, 0)⟩ 0 0] } : State).barInFlight 0 = true ∧
    (on (thr [])).noRoute 0 at5 = false ∧ (on (thr [])).spadGone 0 at5 = false ∧ gone.spadGone 0 (fr (2 ^ 40)) = true ∧
    (written9 at5).uncommitted 0 at5 8 = true ∧ (on (thr [])).marks.find (lineOf at5) = none ∧
    256 ≤ ((List.replicate 256 (at5, Instr.homeRequest ref5)).filter (fun e => (on (thr [])).homeNode e.1 == (on (thr [])).homeNode at5)).length ∧
    (on (thr [])).inboxRoom 256 = true := by decide +kernel

/-- MemoryReadResult: a request in bare mode, the place of its line, a page that is absent, and no walk that parks. -/
theorem witness_places : let s := waiting .load
    let x := { rec5 .waiting (.access (wants .load (word at5) 8)) with reply := 10, mask := 1024, task := taskKey 1 0 }
    let p : Piece := { off := 0, va := word at5, size := 8, data := 0 }
    let q : Piece := { off := 0, va := va 0x4000, size := 8, data := 0 }
    s.recOf ref5 = some x ∧ (s.walkPieces 0 4096 x .load [p]).2 = ([(p, .out at5 0)], none) ∧ s.walkParks 0 x .load [p.va] = none ∧
    (s.walkPieces 0 4096 x .waitNe [q]).2 = ([(q, .absent { page0 with page := 1 })], none) ∧
    (s.walkPieces 0 4096 x .load [{ p with va := 2 ^ 52 }]).2.2 = some ({ p with va := 2 ^ 52 }, 5) ∧ kx57 (s.csrs 4096).satp = false ∧
    s.uncommitted 0 at5 8 = false ∧ s.noRoute (s.coreOf ref5 / 16) at5 = false ∧ s.parked = [] ∧ (Reply.word_ 5).see = none := by decide +kernel

/-- SchedulingResult: a record that the core can read back. -/
theorem witness_relaunch : (kept (thr []) .ready .nothing).relaunchFault 4096 (rec5 .ready .nothing) = none ∧
    ((kept (thr []) .ready .nothing).siloGet 4096 (rec5 .ready .nothing).addr (rec5 .ready .nothing).size).isSome := by decide +kernel

/-- KeyStealWatchdogResult: a node that the thief's table marks unreachable, a victim with stores to release, a slot reserved for an origin's task. -/
theorem witness_reachable : ((on (thr [])).modPnode 0 (fun n => { n with nst := [(1, 3)] })).unreachable 0 1 = true ∧ (on (thr [])).unreachable 0 1 = false ∧
    (onCore (buffered 1) (thr [])).lags 0 1 = true ∧ (filling id).lags 1 (scopeOf 4098 4097) = false ∧
    (((timed (thr [])).setSlot 0 1 { thread := none, credit := some (taskKey 1 0) }).slot 0 1).credit = some (taskKey 1 0) := by decide +kernel

/-- MeshBringupResult: a packet at a relay, and one that is its own relay. -/
theorem witness_relay : (17 : Nat) ≠ (cell at5 7).src ∧ (0 : Nat) = (cell at5 7).src := by decide +kernel
theorem test_relay_lost : ((after (.relayPacket 0 18 { cell at5 7 with ack := some (0, 9) }) { written9 at5 with parts := [] }).map (fun s => (s.byteAt at5, s.agenda))) =
    some (0, [.writeAck 0 9]) := by decide +kernel

/-- MailboxResult: a launch with a task, and none. -/
theorem witness_launch : (∃ e ∈ ((on (thr [])).modTask (taskKey 1 0) (fun t => { t with launch := 4 })).tasks, e.2.part = 1 ∧ e.2.launch = 4) ∧
    (∀ e ∈ (on (thr [])).tasks, ¬(e.2.part = 1 ∧ e.2.launch = 4)) ∧ ∀ e ∈ (on (thr [])).lcores, e.2.recs = [] := by decide +kernel
theorem test_watchdog_off : ((after .setWatchdog { mailed [(0, 7)] with queues := [(7, { queue0 0 with fn := 3, aboveT1 := true })] }).map (fun s => ((s.queue 7).t1, (s.queue 7).aboveT1))) =
    some (0, false) := by decide +kernel

/-- StepRunsDecoded: a step that names no line, a yield that is due, and an instruction that its thread may not issue. -/
theorem witness_boundary : (on (thr [])).requestAt (.dispatcherTake 256) = none ∧ ((waiting .load).requestAt (.homeRequest ref5)).isSome ∧
    (on { thr [] with mark := .yield }).mustYield = true ∧ (on { thr [] with mark := .yield }).illegalNow (.contKill 11) = true ∧
    (on { thr [] with mark := .yield }).illegalNow (.lui 1 1) = false := by decide +kernel
/-- An S instruction in U mode raises cause 2 though a yield is due. -/
theorem test_illegal_wins : let s := { (on { thr [] with mark := .yield }) with turn := (0, 0) }
    (s.mustYield && !s.illegalNow (.contKill 11)) = false := by decide +kernel

/-! ## Hypotheses of the clauses on ordering, release and completion -/

/-- A store buffer with one operation of the thread, behind nothing. -/
def sbOf (ops : List SbOp) (p : PCore) : PCore :=
  { p with sb := ops.zipIdx.map (fun e => { id := e.2, slot := 0, task := taskKey 1 0, op := e.1 }) }
def posted8 : AmoReq := { op := 0, dbl := true, pa := at5, arg := 1, cmp := 0, reply := none, ack := none, src := 0, va := word at5, task := taskKey 1 0 }

/-- LoadElsewhere and FenceResult: a load behind a `fence.sc` and one behind an acquire; a posted AMO of the thread that is under way, and none. -/
theorem witness_heldBack : (onCore (sbOf [.release 2 true true]) (thr [])).heldBack 0 (taskKey 1 0) false false = true ∧
    (onCore (sbOf [.acquire 2]) (thr [])).heldBack 0 (taskKey 1 0) false false = true ∧
    (onCore (sbOf [.amo posted8]) (thr [])).amoOut 0 (taskKey 1 0) = true ∧ (on (thr [])).amoOut 0 (taskKey 1 0) = false := by decide +kernel
theorem test_fence_acq_waits : ((after (.fenceAcq 2) (onCore (sbOf [.amo posted8]) (thr []))).map (fun s => ((s.pcore 0).sb.map (·.op)).getLast?)) =
    some (some (.acquire 2)) := by decide +kernel

/-- SlotGivenUp, ForkResult and ReservationResult: a trigger on a store, and none; a counter in host memory. -/
def triggered (a : Word) (p : PCore) : PCore :=
  { p with triggers := [(0, { execute := false, load := false, store := true, user := true, super := false, addr := a })] }
theorem witness_trigger : (onCore (triggered (hbm 0x100)) (thr [])).triggerHit 0 .store false (hbm 0x100) = true ∧ ((on (thr [])).pcore 0).triggers = [] ∧
    farPa (2 * 2 ^ 48) = true ∧ farPa programBase = false := by decide +kernel
theorem test_quit_halts : ((after (.quit 11 0) (onCore (triggered (hbm 0x100)) (thr [(11, hbm 0x100)]))).map (fun s => ((s.pcore 0).halted, s.cur.map (·.pc)))) =
    some (true, some (hbm 0)) := by decide +kernel

/-- SubmitResult: the descriptor of a launch outside the own window, in it, in a page that is absent, without a TLB entry and at an address that no region holds. -/
theorem witness_launchPlace : OutAt (on (thr [])) (thr []) .load (hbm 0x40) (programBase + 0x40) 0 ∧ OwnAt (on (thr [])) (thr []) .load (va 64) (fr 64) ∧
    (on (thr [])).locOf 4096 ((on (thr [])).threadTr (thr []) .load (va 0x4000)) = some (.absent { lc := 4096, launch := 0, page := 1 }) ∧
    (onCore paged (thr [])).threadTr (thr []) .load 0x1000 = .miss ∧ (on (thr [])).threadTr (thr []) .load (2 ^ 52) = .bad 5 := by
  unfold OutAt OwnAt; decide +kernel

/-! ## Streams -/

/-- StreamChannel and StreamStatusAndTraffic: a ring that holds all that a vector pop asks for, fewer in an open and in a closed channel; credits for all and for
none; a consumer that has closed; a channel bound again after its consumer closed. -/
def chanWith (c : ChanRef) (f : Chan → Chan) : State :=
  let s := streaming { thr [] with vl := 16 } 2 2
  { s with chans := s.chans.map (fun x => if x.ref = c then f x else x) }
theorem witness_vector_channel : let n := ({ thr [] with vl := 16 } : Thread).vl.toNat / in2.esize
    n = 2 ∧ n ≤ ((chanWith chan2 id).chan chan2).inRing ∧ ((chanWith chan2 (fun c => { c with inRing := 1 })).chan chan2).inRing < n ∧
    ((chanWith chan2 (fun c => { c with inRing := 1, closed := true })).chan chan2).closed = true ∧ n ≤ ((chanWith chan3 id).chan chan3).credits ∧
    ((chanWith chan3 (fun c => { c with credits := 1 })).chan chan3).credits < n ∧
    ((chanWith chan3 (fun c => { c with inClosed := true })).chan chan3).inClosed = true ∧ ((chanWith chan3 id).chan chan3).inClosed = false ∧
    (chanWith chan2 id).ringAbsent ((chanWith chan2 id).task (taskKey 1 0)) in2 2 = none ∧ (chanWith chan2 id).ringBusy (taskKey 1 0) in2 2 false = false ∧
    (chanWith chan2 id).ringPoison ((chanWith chan2 id).task (taskKey 1 0)) in2 2 = none ∧
    (chanWith chan3 id).nodeAway ((chanWith chan3 id).nodeOfLc 4097) = false := by decide +kernel
theorem test_vq_pop_channel : ((after (.vqPop 3 2) (chanWith chan2 id)).map (fun s => ((s.chan chan2).inRing, (s.chan chan2).head, s.agenda))) =
    some (0, 2, [.channelCreditReturn chan2 2]) := by decide +kernel
theorem test_vq_pop_closed : ((after (.vqPop 3 2) (chanWith chan2 (fun c => { c with inRing := 0, closed := true }))).map
    (fun s => (s.cur.map (fun t => (t.getV 3).toNat), (s.task (taskKey 1 0)).eod.getLsbD 8))) = some (some 0, true) := by decide +kernel
theorem test_vq_push_channel : ((after (.vqPush 3 4) (chanWith chan3 id)).map (fun s => ((s.chan chan3).credits, s.agenda))) =
    some (0, [.channelElementsArrive chan3 [0, 0]]) := by decide +kernel
theorem test_close_lingers : let s := chanWith chan2 (fun c => { c with inEnd := none, inClosed := true })
    ((after (.channelCloseArrives chan2) s).map (fun s => (s.chan chan2).closed)) = some false := by decide +kernel

/-! ## Engines, copies, barriers -/

/-- TileQueueResult, CopyResult and BarrierObjectResult: an object that takes no control mesh, the package object reached and not, a node that a table marks unreachable. -/
def cutOff : State := (barred (thr [])).modPnode 0 (fun n => { n with nst := (List.range 256).map (fun m => (m, 3)) })
theorem witness_reaches : Claims.Reaches (on (thr [])) 0 bar2 ∧ (∀ m, m < 256 → (on (thr [])).unreachable 0 m = false) ∧
    cutOff.unreachable 0 1 = true ∧ ({ on (thr []) with agenda := [.barrierByteCount bar2 64 0 1024 0 false] } : State).countsDue = true ∧
    (on (thr [])).countsDue = false := by unfold Claims.Reaches; decide +kernel

/-- CopyResult: a copy of a row of bytes, one piece on its way, a piece whose source has no place. -/
theorem witness_copyRow : 0 < Cd.rowBytes copy1.d ∧ copy1.pos < Cd.rowBytes copy1.d ∧ (sentAll.copyOfRef cmd1).map (fun c => (c.flying, c.row)) = some (1, 1) ∧
    Cd.rows copy1.d < 1 ∧ regionOf (fr 128) ≠ 3 ∧ sentAll.spadGone 0 (fr 128) = false ∧ pieceOf.copy = some cmd1 ∧ pieceOf.cells ≠ [] ∧
    (copier.copyPas 1024 copy1 .load (2 ^ 52) 16).2 = none := by decide +kernel

/-! ## Collectives and reductions -/

def bare0 : CollPost := post collBarrier
theorem witness_eventFires : EventFires (on (thr [])) bare0 1 0 (on (thr [])) := by
  have h : field (Pb.event bare0.blk 1) 62 2 = 0 := by decide +kernel
  unfold EventFires
  simp only [h]
/-- CollectiveResult: a post of COUNT 0, the last post of a pair, a collective that has all its posts and one that has not, a port address that translates to nothing, an output
that is written. -/
def pairOf (out : Tbl (List Byte)) : Coll :=
  { id := 3, group := [0, 1], tag := 0, posts := [(1, { post collSum with lc := 4097 })], released := [], readied := [], done := [], err := 0, data := [], out := out }
theorem witness_collJoin : Pb.count (BitVec.ofNat 1024 (collSum - 4 * 2 ^ 128)) = 0 ∧ Pb.op (BitVec.ofNat 1024 (collSum - 4 * 2 ^ 128)) ≠ 6 ∧ Pb.op bare0.blk = 6 ∧
    (pairOf []).posts.find 0 = none ∧ (pairOf []).posts.length + 1 = (pairOf []).group.length ∧ (pairOf []).full = false ∧
    ({ pairOf [] with posts := [(0, post collSum), (1, post collSum)] } : Coll).full = true ∧ (pairOf [(0, [])]).out.find 0 = some [] ∧
    (∀ e ∈ (pairOf []).posts, partOfLc e.2.lc = partOfLc 4096) ∧
    ((on (thr [])).portPa (post collSum) .load (2 ^ 52)).2 = none := by decide +kernel
theorem test_coll_ready_waits : ((after (.collReady 3 0) { on (thr []) with colls := [{ pairOf [] with posts := [(0, post collSum)] }] }).map (fun s => s.agenda)) =
    some [.collReady 3 0] := by decide +kernel

/-- ReductionRoundResult: 16 open rounds and fewer, a round of a node that has a parent whose partial is unsent, one whose result has come down. -/
def many (n k : Nat) (p : PNode) : PNode :=
  { open0 p with rounds := (List.range n).map (fun i => { tree := 0, tag := 100 + i, dtype := 4, redop := 0, got := [], bad := false, buffered := false, sent := false, timed := decide (i < k) }) }
def below (p : PNode) : PNode := { open0 p with trees := [(0, 3 + 1 * 2 ^ 24)] }
theorem witness_rounds : ((on (thr [])).modPnode 0 (many 16 0)).roundsFull 0 = true ∧ ((on (thr [])).modPnode 0 (many 16 1)).roundsFull 0 = false ∧
    ((on (thr [])).modPnode 0 below).treeParent 0 0 ≠ 0 ∧ (((on (thr [])).modPnode 0 below).round 0 0 5).map (·.sent) = some false ∧
    (on (thr [])).roundsFull 0 = false ∧ (∀ e ∈ (on (thr [])).lcores, e.2.recs = []) := by decide +kernel
theorem test_reduction_full : ((after (.reductionInput (input 1)) ((on (thr [])).modPnode 0 (many 16 0))).map (fun s => ((s.pnode 0).rounds.length, s.agenda))) =
    some (16, [.reductionInput (input 1)]) := by decide +kernel

/-! ## Weighbridges, caches, handlers -/

/-- WeighbridgeCensusResult: an arrival of the own core that is still in its store buffer, and none. -/
theorem witness_opsFrom : (onCore (sbOf [.barArrive bar3 0]) (thr [])).opsFrom 0 bar3 = true ∧ (on (thr [])).opsFrom 0 bar3 = false := by decide +kernel
theorem test_cen_mode_started : ((after (.cenMode 11) ((on (thr [(11, 2)])).modLquad 1024 (fun q => { q with queue := [{ cmdOf 0 with st := .started }, cmdOf 0] }))).map
    (fun s => (s.lquad 1024).queue.map (·.counts))) = some [false, true] := by decide +kernel

/-- CacheAndPageResult, HandlerActionResult: a walk that meets a table entry under repair, and one that meets none; stores to release before an invalidation. -/
def repairing : State := { onCore paged (thr []) with marks := [(0, .repair)] }
theorem witness_walkHeld : repairing.walkHeld (thr []) .fetch [0x1000] = true ∧ (on (thr [])).walkHeld (thr []) .load [hbm 64] = false ∧
    (on (thr [])).walkHeld (thr []) .fetch [hbm 64] = false ∧ (onCore (buffered 1) (thr [])).lags 0 1 = true ∧ (on (thr [])).lags 0 1 = false ∧
    (on (thr [])).fw.tracing = false := by decide +kernel
theorem test_tlb_inv_follows : ((after (.tlbInv 11 2) (onCore (buffered 1) { thr [] with smode := true })).map (fun s => ((s.pcore 0).sb.map (·.op)).getLast?)) =
    some (some (.tlbInv 0 0 4096 2)) := by decide +kernel
/-- A record that waits to store, and one that waits for a load. -/
theorem witness_unsent : (waiting .store).unsent ref5 { rec5 .waiting (.access (wants .store (word at5) 8)) with task := taskKey 1 0 } = true ∧
    (waiting .load).unsent ref5 { rec5 .waiting (.access (wants .load (word at5) 8)) with task := taskKey 1 0 } = false ∧
    kx57 ((kept (super []) .faulted .nothing).csrs 4096).satp = false := by decide +kernel
theorem test_cont_kill_unsent : ((after (.contKill 11) ((kept (super [(11, hbm 0x80000000)]) .waiting (.access (wants .store (word at5) 8))))).map (fun s => (s.recOf ref5).map (·.st))) =
    some (some .killed) := by decide +kernel

/-! ## Homes -/

/-- MemoryWriteResult: a bound word behind writes of the core that are not acknowledged; an AMO behind a release of its task at `quad`; a release behind such an AMO. -/
def bound8 : State := { written9 at5 with binds := [{ pa := at5 + 64, va := hbm 0x40040, body := 0, part := 1, smode := false }] }
theorem witness_leaving : bound8.fireWaits 0 [(at5 + 64, 1)] = true ∧ (written9 at5).fireWaits 0 [(at5 + 64, 1)] = false ∧
    ((on (thr [])).modPquad 0 (fun q => { q with path := [{ id := 1, core := 0, done := false, acked := false, cells := [], mark := some (taskKey 1 0, true, true) }] })).quadHeld 0 (taskKey 1 0) = true ∧
    (on (thr [])).quadHeld 0 (taskKey 1 0) = false ∧ (on (thr [])).spadGone 0 at5 = false ∧ (on (thr [])).owed 0 1 = false ∧
    (written9 at5).owed 0 1 = true := by decide +kernel
theorem test_fire_waits : ((after (.storeBufferLeave 0) ({ (buffer (.data (cell (at5 + 64) 7) false false)) with
      pquads := bound8.pquads, binds := bound8.binds })).map (fun s => ((s.pcore 0).sb.length, s.agenda))) = some (1, [.storeBufferLeave 0]) := by decide +kernel
theorem test_acquire_leaves : ((after (.storeBufferLeave 0) ((buffer (.acquire 2)).modPquad 0 (fun q => { q with l1 := [(0, 5)] }))).map (fun s => ((s.pcore 0).sb, (s.pquad 0).l1))) =
    some ([], []) := by decide +kernel
/-- A line that is poisoned and wholly written is cured. -/
theorem test_poison_cured : ((after (.homeWrite { cell at5 7 with cells := cellsOf at5 64 7 }) { on (thr []) with marks := [(at5, .poisoned)] }).map (fun s => s.marks)) = some [] := by
  decide +kernel

/-- MemoryReadResult: nothing older at the core from which a record was moved; a poisoned line. -/
theorem witness_older : let x := { rec5 .waiting (.access (wants .load (word at5) 8)) with task := taskKey 1 0 }
    (waiting .load).olderThere x at5 8 = false ∧ (waiting .load).olderOwn 0 at5 8 5 = false ∧ (onCore (buffered 1) (thr [])).olderOwn 0 (programBase + 0x100) 8 5 = true ∧
    ({ waiting .load with marks := [(at5, LineMark.poisoned)] } : State).marks.find (lineOf at5) = some .poisoned := by decide +kernel

/-! ## Scheduling, the watchdog -/

/-- SchedulingResult: a launch of one task on core 0 of the partition, which waits for no node, whose backing is in place. -/
def launchBody : BitVec 1024 := BitVec.ofNat 1024 (0x80 + 1 * 2 ^ 64 + 1 * 2 ^ 144 + 7 * 2 ^ 384 + programBase * 2 ^ 448)
def launching (b : BitVec 1024) : State :=
  (waiting .readLaunch).modLnode 256 (fun l => { l with inbox := [{ body := b, src := .launch 4096 false 0 none ref5 }] })
theorem witness_launchBody : (launching launchBody).launchWaits 1 launchBody = false ∧ field launchBody 64 32 = 1 ∧ field launchBody 144 16 = 1 ∧
    ((launching launchBody).backPage false 0 (bits launchBody 448 64)).isSome ∧ (bits launchBody 448 64).toNat % windowSize = 0 ∧
    (launching launchBody).freeLaunch 1 65535 ((launching launchBody).partOf 1).nextLaunch ≠ 0 ∧ ((launching launchBody).lnode 256).phys < 256 ∧
    ((launching launchBody).usedSeqs 1 (((launching launchBody).lnode 256).phys * 16)).length + 1 < 2 ^ 20 := by decide +kernel
theorem test_launch_rejected : ((after (.dispatcherTake 256) (launching (launchBody - 2 ^ 64))).map (fun s => s.agenda.map (fun (i : Instr) => match i with
    | .recordReply r x => (r, x.val.toNat) | _ => (ref5, 99)))) = some [(ref5, 0)] := by decide +kernel
/-- SchedulingResult: a ready record of a task with a context block, none of whose lines is under repair. -/
theorem witness_relaunchable : let s := withCtx (kept (thr []) .ready .nothing)
    (s.task (taskKey 1 0)).ctx.isSome ∧ s.siloParked 4096 (rec5 .ready .nothing).addr (rec5 .ready .nothing).size = false := by decide +kernel
/-- KeyStealWatchdogResult: a slot that a killed child's credit reserves is fenced, a kill mark stays. -/
theorem witness_reserved : ((timed (thr [])).setSlot 0 1 { thread := none, credit := some 99 }).slot 0 1 = { thread := none, credit := some 99 } ∧
    (0, 1, 99) ∈ ({ queue0 0 with reserved := [(0, 1, 99)] } : HQueue).reserved := by decide +kernel
theorem test_watchdog_1_keeps_kill : ((after (.watchdogT1 7) (timed { thr [] with mark := .kill })).map (fun s => s.cur.map (·.mark))) = some (some .kill) := by decide +kernel
theorem test_watchdog_3_reserved : ((after (.watchdogT3 7) { ((on (thr [])).modPcore 1 (fun p => { p with slots := [(1, { thread := none, credit := some 99 })] })) with
    queues := [(7, { queue0 0 with reserved := [(1, 1, 99)] })] }).map (fun s => ((s.pcore 0).fenced, (s.pcore 1).fenced))) = some (false, true) := by decide +kernel

/-! ## Bring-up, mailbox, debug -/

/-- MeshBringupResult: a clock to the west that a node tries first; a harvested edge node whose router is dead, beside nodes that are up. -/
def deadEdge : State := (inState .ready).modPnode 64 (fun n => { n with st := .harvested })
theorem witness_deadEdge : (∀ m, m < 256 → (deadEdge.pnode m).st ≠ .dark ∧ (deadEdge.pnode m).st ≠ .clocked) ∧ deadEdge.deadRouter 64 = true ∧ 64 ∈ edgeNodes ∧
    ({ (inState .dark).modPnode 16 (fun n => { n with st := .clocked }) with agenda := [.clockLock 17 16] } : State).triesFirst 17 1 = true ∧ (inState .dark).triesFirst 17 16 = false := by decide +kernel
def sampling : State := (mailed []).modFw (fun f => { f with stallBase := 2 ^ 48, stallRing := 4, stallEvery := 20, stallSatp := 0 })
theorem witness_stallMap : kx57 sampling.fw.stallSatp = false ∧ sampling.fw.stallRing ≠ 0 ∧ sampling.fw.features.getLsbD 2 = true ∧
    (sampling.fw.stallBase + word (sampling.fw.stallNum % sampling.fw.stallRing * 65600)).toNat = 2 ^ 48 := by decide +kernel

/-- MailboxResult: nodes that READY counts and PREEMPT keeps, features without feature 0. -/
theorem witness_readyLeft : ({ inState .ready with pnodes := (List.range 256).map (fun n => (n, plain .admitted)) } : State).readyLeft = 0 ∧ (inState .ready).readyLeft = 256 ∧
    bits (word (0xF * 2 ^ 8 + 1)) 8 4 = 15 ∧ bits (word (1 * 2 ^ 8 + 1)) 8 4 = 1 := by decide +kernel
theorem test_feature_0_refused : statAfter .identify { mailed [] with fw := { (mailed []).fw with features := 14 } } = some 0x4D00000302 := by decide +kernel
theorem test_create_queue_partition_0 : statAfter .createQueue (mailed [(0, 9 + 6 * 2 ^ 43), (1, 2 ^ 28)]) = some 0x4D00000202 := by decide +kernel

/-- DebugRegisterResult and StepRunsDecoded: a write of the aperture, one beyond HBM, an abstract command of an unsupported kind, a single step. -/
theorem test_bar4 : ((after (.registerWrite (.bar4 0 (2 ^ 30)) 0x55) (on (thr []))).map (fun s => s.agenda.map (fun (i : Instr) => match i with
    | .homeWrite w => w.cells.head? | .relayPacket _ _ w => w.cells.head? | _ => (none : Option (Nat × Byte))))) = some [some (2 ^ 48 + 2 ^ 30, 0x55)] := by decide +kernel
theorem test_bar4_beyond : ((after (.registerWrite (.bar4 0 (2304 * 2 ^ 30 - 4)) 0x55) (on (thr []))).map (fun s => s.agenda)) = some [] := by decide +kernel
theorem test_unsupported_command : ((after (.registerWrite (.node 0 0x405C) (1 <<< 24)) (on (thr []))).map (fun s => (s.pcore 0).dmErr)) = some 2 := by decide +kernel
def stepped : State := onCore (fun p => { p with stepping := true }) (thr [])
theorem witness_stepping : (stepped.pcore stepped.turn.1).stepping = true ∧ (stepped.pcore stepped.turn.1).halted = false ∧ ((on (thr [])).pcore 0).stepping = false := by decide +kernel
theorem test_single_step : let p := stepped.endTurn.pcore 0
    (p.halted, p.stepping, p.dcause) = (true, false, 4) := by decide +kernel


end Sys2Proof.Tests
end

section
/-!
SUPPORT. The hardware loops: what a loop instruction leaves, and what the loop-back rule does at the ends of the loops (05 R107, R108).
-/
namespace Sys2Proof.Machine

/-! ## Issuing a loop instruction -/

theorem exec_hl0 (r : Reg) (len : BitVec 12) (s : State) :
    exec (.hl0 r len) s = .next (s.loop 0 (fun t => (t.getX r).setWidth 32) len) := rfl

theorem exec_hl0i (r : Reg) (len : BitVec 12) (s : State) :
    exec (.hl0i r len) s = .next (s.loop 0 (fun _ => r.setWidth 32) len) := rfl

theorem exec_hl1 (r : Reg) (len : BitVec 12) (s : State) :
    exec (.hl1 r len) s = .next (s.loop 1 (fun t => (t.getX r).setWidth 32) len) := rfl

theorem exec_hl1i (r : Reg) (len : BitVec 12) (s : State) :
    exec (.hl1i r len) s = .next (s.loop 1 (fun _ => r.setWidth 32) len) := rfl

namespace Thread

/-- The end of the body that a loop instruction at the thread's pc names: the last of its `len` instructions (05 R107). -/
abbrev loopEnd (t : Thread) (len : BitVec 12) : Word := t.pc + word (4 * len.toNat)

/-- The loop that a loop instruction at the thread's pc starts (05 R107, R108). -/
abbrev loopBody (t : Thread) (len : BitVec 12) (n : BitVec 32) : HLoop := { remaining := n, start := t.pc + 4, stop := t.loopEnd len }

/-- R108 lets loop 0 start: no loop is active. -/
def Loop0Free (t : Thread) : Prop := t.hl0.remaining = 0 ∧ t.hl1.remaining = 0

/-- R108 lets loop 1 start: loop 0 alone is active, and the new body lies inside the body of loop 0. -/
def Loop1Free (t : Thread) (len : BitVec 12) : Prop :=
  t.hl0.remaining ≠ 0 ∧ t.hl1.remaining = 0 ∧ t.hl0.start.toNat ≤ t.pc.toNat ∧ (t.loopEnd len).toNat ≤ t.hl0.stop.toNat

end Thread

section
variable {t : Thread} {n : BitVec 32} {len : BitVec 12}

theorem loopStart_loop0 (h : t.Loop0Free) :
    loopStart t 0 n len = some (if n = 0 then { t with pc := t.loopEnd len + 4 } else { t with pc := t.pc + 4, hl0 := t.loopBody len n }) := by
  have hoff : ¬(t.hl0.remaining ≠ 0 ∨ t.hl1.remaining ≠ 0) := not_or.mpr ⟨not_not_intro h.1, not_not_intro h.2⟩
  simp only [loopStart, if_neg hoff, if_true, ← apply_ite some]

theorem loopStart_loop0_none (h : ¬t.Loop0Free) : loopStart t 0 n len = none := by
  have hon : t.hl0.remaining ≠ 0 ∨ t.hl1.remaining ≠ 0 := Classical.not_and_iff_not_or_not.mp h
  simp only [loopStart, if_pos hon, if_true]

/-- The nesting test of `loopStart` lets loop 1 pass exactly where R108 allows it. -/
theorem loop1Free_iff : t.Loop1Free len ↔ ¬(¬t.hl0.remaining ≠ 0 ∨ t.hl1.remaining ≠ 0 ∨ t.pc.toNat < t.hl0.start.toNat ∨
    t.hl0.stop.toNat < (t.loopEnd len).toNat) := by
  simp only [Thread.Loop1Free, Thread.loopEnd, ne_eq, not_or, Classical.not_not, Nat.not_lt]

theorem loopStart_loop1 (h : t.Loop1Free len) (hn : n ≠ 0) :
    loopStart t 1 n len = some { t with pc := t.pc + 4, hl1 := t.loopBody len n } := by
  simp only [loopStart, if_neg (loop1Free_iff.mp h), if_neg hn, if_neg Nat.one_ne_zero]

theorem loopStart_loop1_skip (h : t.Loop1Free len) (hend : t.loopEnd len ≠ t.hl0.stop) (hn : n = 0) :
    loopStart t 1 n len = some { t with pc := t.loopEnd len + 4 } := by
  simp only [loopStart, if_neg (loop1Free_iff.mp h), if_pos hn, if_neg hend, if_neg Nat.one_ne_zero]

/-- A skipped body of loop 1 whose end is that of loop 0 stands in for a completed instruction at that end (05 R108). -/
theorem loopStart_loop1_skip_to_end (h : t.Loop1Free len) (hend : t.loopEnd len = t.hl0.stop) (hn : n = 0) :
    loopStart t 1 n len = some ({ t with pc := t.loopEnd len } : Thread).next := by
  simp only [loopStart, if_neg (loop1Free_iff.mp h), if_pos hn, if_pos hend, if_neg Nat.one_ne_zero, Thread.next]

theorem loopStart_loop1_none (h : ¬t.Loop1Free len) : loopStart t 1 n len = none := by
  simp only [loopStart, if_pos (Classical.not_not.mp (mt loop1Free_iff.mpr h)), if_neg Nat.one_ne_zero]

end

namespace State
variable {s : State} {t t1 : Thread} {i : Nat} {count : Thread → BitVec 32} {len : BitVec 12}

theorem loop_of_some (hi : Claims.Issues s t) (h : loopStart t i (count t) len = some t1) : s.loop i count len = s.putCur t1 := by
  rw [loop, issue_of_cur s t _ hi.1 hi.2, h]

theorem loop_of_none (hi : Claims.Issues s t) (h : loopStart t i (count t) len = none) : s.loop i count len = s.trap t 26 0 := by
  rw [loop, issue_of_cur s t _ hi.1 hi.2, h]

theorem csrRead_hl0_remaining : s.csrRead t 0x808 = some (t.hl0.remaining.setWidth 64) := rfl

theorem csrRead_hl1_remaining : s.csrRead t 0x80B = some (t.hl1.remaining.setWidth 64) := rfl

end State

/-! ## The loop-back rule -/

namespace HLoop

/-- An instruction at `pc` is the last one of the body of the active loop `h`. -/
def EndsAt (h : HLoop) (pc : Word) : Prop := h.remaining ≠ 0 ∧ pc = h.stop

/-- Loop `h` lets the pc go on past `pc`: it does not end there, or this is its last pass. -/
def FallsThrough (h : HLoop) (pc : Word) : Prop := h.EndsAt pc → h.remaining = 1

/-- Loop `h` once the instruction at `pc`, where it falls through, has completed: over if it ends there, else as before. -/
def past (h : HLoop) (pc : Word) : HLoop := if h.remaining ≠ 0 ∧ pc = h.stop then off else h

theorem past_of_endsAt {h : HLoop} {pc : Word} (he : h.EndsAt pc) : h.past pc = off := if_pos he

theorem past_of_not_endsAt {h : HLoop} {pc : Word} (he : ¬h.EndsAt pc) : h.past pc = h := if_neg he

/-- `advance` sends the pc back to the start of a loop where more than one pass remains, so not where the loop falls through. -/
theorem FallsThrough.not_back {h : HLoop} {pc : Word} (hf : h.FallsThrough pc) :
    ¬(h.remaining ≠ 0 ∧ pc = h.stop ∧ h.remaining.toNat > 1) := by
  rintro ⟨hon, hpc, hmore⟩
  simp [hf ⟨hon, hpc⟩] at hmore

end HLoop

namespace Thread
variable {t : Thread}

theorem next_at_loop1_end (h1 : t.hl1.EndsAt t.pc) (hmore : 1 < t.hl1.remaining.toNat) :
    t.next = { t with pc := t.hl1.start, hl1 := { t.hl1 with remaining := t.hl1.remaining - 1 } } := by
  simp only [next, advance, if_pos (And.intro h1.1 (And.intro h1.2 hmore))]

theorem next_at_loop0_end (hf : t.hl1.FallsThrough t.pc) (h0 : t.hl0.EndsAt t.pc) (hmore : 1 < t.hl0.remaining.toNat) :
    t.next = { t with pc := t.hl0.start, hl0 := { t.hl0 with remaining := t.hl0.remaining - 1 }, hl1 := t.hl1.past t.pc } := by
  simp only [next, advance, if_neg hf.not_back, if_pos (And.intro h0.1 h0.2), if_pos hmore, HLoop.past]

theorem next_at_loop0_last_end (hf : t.hl1.FallsThrough t.pc) (h0 : t.hl0.EndsAt t.pc) (hlast : t.hl0.remaining = 1) :
    t.next = { t with pc := t.pc + 4, hl0 := HLoop.off, hl1 := t.hl1.past t.pc } := by
  have hmore : ¬t.hl0.remaining.toNat > 1 := by simp [hlast]
  simp only [next, advance, if_neg hf.not_back, if_pos (And.intro h0.1 h0.2), if_neg hmore, HLoop.past]

theorem next_past_loops (hf : t.hl1.FallsThrough t.pc) (h0 : ¬t.hl0.EndsAt t.pc) :
    t.next = { t with pc := t.pc + 4, hl1 := t.hl1.past t.pc } := by
  have hoff : ¬(t.hl0.remaining ≠ 0 ∧ t.pc = t.hl0.stop) := h0
  simp only [next, advance, if_neg hf.not_back, if_neg hoff, HLoop.past]

/-- What the rule leaves of loop 1 where it falls through does not turn on loop 0. -/
theorem next_hl1_of_fallsThrough (hf : t.hl1.FallsThrough t.pc) : t.next.hl1 = t.hl1.past t.pc := by
  simp only [next, advance, if_neg hf.not_back, HLoop.past]
  split
  · split <;> rfl
  · rfl

end Thread

end Sys2Proof.Machine

namespace Sys2Proof.Claims

open Sys2Proof.Machine

/-! ## HL0, HL1, HL0I, HL1I and the loop-back rule -/

/-- Settles O3: each loop instruction is `State.loop`, whose thread `loopStart` gives case by case; the loop-back rule is split by
whether loop 1 sends the pc back or falls through, and then by the end of loop 0. -/
theorem hardwareLoopResult : Obligations.HardwareLoopResult := by
  unfold Obligations.HardwareLoopResult
  refine ⟨fun s t r len hi => ?_, fun t => ?_⟩
  · refine ⟨fun h => ?_, fun h => ?_, fun h hn => ?_, fun h hn => ?_, fun h hend hn => ?_, fun h hend hn => ?_, fun h hend hn => ?_,
      fun h hend hn => ?_, s.csrRead_hl0_remaining, s.csrRead_hl1_remaining, fun h => ⟨?_, ?_⟩, fun h => ⟨?_, ?_⟩⟩
    · rw [exec_hl0, State.loop_of_some hi (loopStart_loop0 h)]
    · rw [exec_hl0i, State.loop_of_some hi (loopStart_loop0 h)]
    · rw [exec_hl1, State.loop_of_some hi (loopStart_loop1 h hn)]
    · rw [exec_hl1i, State.loop_of_some hi (loopStart_loop1 h hn)]
    · rw [exec_hl1, State.loop_of_some hi (loopStart_loop1_skip h hend hn)]
    · rw [exec_hl1i, State.loop_of_some hi (loopStart_loop1_skip h hend hn)]
    · rw [exec_hl1, State.loop_of_some hi (loopStart_loop1_skip_to_end h hend hn)]
    · rw [exec_hl1i, State.loop_of_some hi (loopStart_loop1_skip_to_end h hend hn)]
    · rw [exec_hl0, State.loop_of_none hi (loopStart_loop0_none h)]
    · rw [exec_hl0i, State.loop_of_none hi (loopStart_loop0_none h)]
    · rw [exec_hl1, State.loop_of_none hi (loopStart_loop1_none h)]
    · rw [exec_hl1i, State.loop_of_none hi (loopStart_loop1_none h)]
  · refine ⟨fun h1 hmore => ?_, fun h1 hlast => ?_, fun h1 => ?_, fun hf h0 hmore => ?_, fun hf h0 hlast => ?_, fun hf h0 => ?_⟩
    · simp [Thread.next_at_loop1_end h1 hmore]
    · exact (Thread.next_hl1_of_fallsThrough fun _ => hlast).trans (HLoop.past_of_endsAt h1)
    · exact (Thread.next_hl1_of_fallsThrough fun he => absurd he h1).trans (HLoop.past_of_not_endsAt h1)
    · simp [Thread.next_at_loop0_end hf h0 hmore]
    · simp [Thread.next_at_loop0_last_end hf h0 hlast]
    · simp [Thread.next_past_loops hf h0]

end Sys2Proof.Claims
end

section
/-!
SUPPORT. Streams and channels: what a change of a channel leaves, records that wait on a stream, the end of a binding, the status word, and a write at a home
that nothing watches (06 R142 to R149).
-/
namespace Sys2Proof.Machine

/-- A channel at whose producer's end a close has arrived; `bound` says that a producer has bound it again. -/
def Chan.producerClosed (x : Chan) (bound : Bool) : Chan :=
  { x with closed := x.inEnd.isSome || !x.inClosed, inClosed := false, outBound := bound, credits := if bound then x.credits else 0 }

/-- A task whose stream `q` is bound no more, its flags clear (06 R149). -/
def Task.unbound (x : Task) (q : Nat) : Task := { x with streams := x.streams.erase q, eod := x.eod &&& ~~~(0xF#32 <<< (4 * q)) }

theorem Task.find_unbound (x : Task) (q : Nat) : (x.unbound q).streams.find q = none := (Tbl.find_erase ..).trans (if_pos rfl)

/-- The mask of a close clears the four flags of its stream. -/
theorem Task.eod_unbound (x : Task) (q : Nat) {k : Nat} (hk : k < 4) : (x.unbound q).eod.getLsbD (4 * q + k) = false := by
  have hbits : ∀ i < 4, (0xF#32).getLsbD i = true := by decide
  simp [unbound, BitVec.getLsbD_and, BitVec.getLsbD_not, BitVec.getLsbD_shiftLeft, hbits k hk]

namespace State

/-! ## A changed channel -/

section
variable (s : State) (r : ChanRef) (f : Chan → Chan)

@[simp] theorem modChan_mem : (s.modChan r f).mem = s.mem := by unfold modChan; split <;> rfl
@[simp] theorem modChan_tasks : (s.modChan r f).tasks = s.tasks := by unfold modChan; split <;> rfl
@[simp] theorem modChan_lcores : (s.modChan r f).lcores = s.lcores := by unfold modChan; split <;> rfl
@[simp] theorem modChan_resvs : (s.modChan r f).resvs = s.resvs := by unfold modChan; split <;> rfl

end

/-- A change that keeps the channel's name is read back there, whether the channel was listed or is new. -/
theorem chan_modChan (s : State) (r : ChanRef) (f : Chan → Chan) (hf : ∀ c, (f c).ref = c.ref) : (s.modChan r f).chan r = f (s.chan r) := by
  by_cases h : s.chans.any (fun c => c.ref == r) = true
  · have hsame : ((fun c : Chan => c.ref == r) ∘ fun c => if c.ref == r then f c else c) = fun c => c.ref == r := by
      funext c
      by_cases hc : c.ref = r <;> simp [hc, hf]
    obtain ⟨c, hc⟩ := Option.isSome_iff_exists.mp (List.find?_isSome.mpr (List.any_eq_true.mp h))
    have href : c.ref = r := by simpa using List.find?_some hc
    simp only [modChan, if_pos h, chan, List.find?_map, hsame, hc, Option.map_some, Option.getD_some, href, beq_self_eq_true, if_true]
  · have hnone : s.chans.find? (fun c => c.ref == r) = none :=
      List.find?_eq_none.mpr fun c hc href => h (List.any_eq_true.mpr ⟨c, hc, href⟩)
    have href : (f (Chan.new r)).ref = r := hf _
    simp only [modChan, if_neg h, chan, List.find?_append, hnone, List.find?_singleton, href, beq_self_eq_true, if_true, Option.none_or,
      Option.getD_some, Option.getD_none]

theorem chan_eq_of_chans {s s' : State} (h : s'.chans = s.chans) (r : ChanRef) : s'.chan r = s.chan r := by rw [chan, chan, h]

/-! ## Records that wait on a stream -/

theorem streamWaiter_eq_of_recs {s s' : State} (ht : s'.tasks = s.tasks) (hl : s'.lcores = s.lcores) (key q : Nat) (push : Bool) :
    s'.streamWaiter key q push = s.streamWaiter key q push := by
  simp only [streamWaiter, task, lcore, ht, hl]

theorem servePop_of_no_waiter {s : State} {key q : Nat} (h : s.streamWaiter key q false = none) : s.servePop key q = s := by
  simp only [servePop, h]

theorem servePush_of_no_waiter {s : State} {key q : Nat} (h : s.streamWaiter key q true = none) : s.servePush key q = s := by
  simp only [servePush, h]

theorem servePushes_of_no_waiters {s : State} (h : ∀ k q, s.streamWaiter k q true = none) (r : ChanRef) : s.servePushes r = s := by
  refine List.foldlRecOn (motive := (· = s)) _ _ rfl fun st hst e _ => ?_
  subst hst
  exact servePush_of_no_waiter (h _ _)

/-! ## The end of a binding (06 R149) -/

theorem task_modTask {s : State} {k : Nat} {x : Task} (h : s.tasks.find k = some x) (f : Task → Task) : (s.modTask k f).task k = f x := by
  simp only [modTask, h, setTask, task, Tbl.get_set_same]

/-- The part of a close that is the same for every kind of stream: the binding and its flags are gone. -/
def unbindStream (s : State) (key q : Nat) : State := s.modTask key (·.unbound q)

/-- The channels once the consumer's end of `r` has closed. -/
def endConsumer (s : State) (r : ChanRef) : State :=
  { s with chans := s.chans.map (fun c => if c.ref == r then
      { c with inClosed := c.outBound && !c.closed, closed := false, inRing := 0, inEnd := none } else c) }

section
variable {s : State} {key q : Nat} {st : Stream}

theorem closeStream_of_unbound (h : (s.task key).streams.find q = none) : s.closeStream key q = s := by
  simp only [closeStream, h]

theorem closeStream_of_walk (h : (s.task key).streams.find q = some st) (h1 : st.kind ≠ 1) (h2 : st.kind ≠ 2) :
    s.closeStream key q = s.unbindStream key q := by
  simp only [closeStream, h, if_neg h1, if_neg h2, unbindStream, Task.unbound]

theorem closeStream_of_out (h : (s.task key).streams.find q = some st) (h2 : st.kind = 2) :
    s.closeStream key q = (s.unbindStream key q).push (.channelCloseArrives (chanOf (s.task key) st)) := by
  have h1 : st.kind ≠ 1 := by omega
  simp only [closeStream, h, if_pos h2, unbindStream, Task.unbound, chanOf, if_neg h1]

theorem closeStream_of_in (h : (s.task key).streams.find q = some st) (h1 : st.kind = 1) :
    s.closeStream key q =
      ((s.unbindStream key q).endConsumer (chanOf (s.task key) st)).push (.channelCreditReturn (chanOf (s.task key) st) 0) := by
  have h2 : st.kind ≠ 2 := by omega
  simp only [closeStream, h, if_neg h2, if_pos h1, unbindStream, Task.unbound, endConsumer, chanOf]

/-- A close of a bound stream differs from the end of the binding in channels and the agenda alone. -/
theorem closeStream_frame (h : (s.task key).streams.find q = some st) :
    (s.closeStream key q).mem = s.mem ∧ (s.closeStream key q).tasks = (s.unbindStream key q).tasks := by
  have hmem : (s.unbindStream key q).mem = s.mem := modTask_mem ..
  by_cases h1 : st.kind = 1
  · rw [closeStream_of_in h h1]
    exact ⟨hmem, rfl⟩
  by_cases h2 : st.kind = 2
  · rw [closeStream_of_out h h2]
    exact ⟨hmem, rfl⟩
  rw [closeStream_of_walk h h1 h2]
  exact ⟨hmem, rfl⟩

theorem task_closeStream (h : (s.task key).streams.find q = some st) (hlive : s.tasks.find key = some (s.task key)) :
    (s.closeStream key q).task key = (s.task key).unbound q := by
  rw [task, (closeStream_frame h).2]
  exact task_modTask hlive _

theorem channelCloseArrives_mem_closeStream (h : (s.task key).streams.find q = some st) (h2 : st.kind = 2) :
    .channelCloseArrives (chanOf (s.task key) st) ∈ (s.closeStream key q).agenda := by
  rw [closeStream_of_out h h2]
  exact List.mem_append_right _ List.mem_cons_self

theorem channelCreditReturn_mem_closeStream (h : (s.task key).streams.find q = some st) (h1 : st.kind = 1) :
    .channelCreditReturn (chanOf (s.task key) st) 0 ∈ (s.closeStream key q).agenda := by
  rw [closeStream_of_in h h1]
  exact List.mem_append_right _ List.mem_cons_self

/-- The close of the consumer's end leaves each channel of that name without a consumer, with the mark that its producer is still bound. -/
theorem chan_of_closed_consumer (h : (s.task key).streams.find q = some st) (h1 : st.kind = 1) {c : Chan} (hc : c ∈ (s.closeStream key q).chans)
    (href : c.ref = chanOf (s.task key) st) :
    c.inEnd = none ∧ c.inRing = 0 ∧ c.closed = false ∧ ∃ e ∈ s.chans, e.ref = chanOf (s.task key) st ∧ c.inClosed = (e.outBound && !e.closed) := by
  rw [closeStream_of_in h h1] at hc
  obtain ⟨e, he, rfl⟩ := List.mem_map.mp hc
  have hlisted : e ∈ s.chans := modTask_chans s key _ ▸ he
  by_cases hr : (e.ref == chanOf (s.task key) st) = true
  · rw [if_pos hr]
    exact ⟨rfl, rfl, rfl, e, hlisted, beq_iff_eq.mp hr, rfl⟩
  · rw [if_neg hr] at href
    exact absurd (beq_iff_eq.mpr href) hr

end

/-! ## The status word (06 R148) -/

/-- The fields of Q_STAT: `n` elements or credits, the closed and done marks, the kind. -/
abbrev statWord (st : Stream) (marks n : Nat) : Word := word (n % 2 ^ 32 * 256 + marks + st.kind * 2 + 1)

section
variable {s : State} {tk : Task} {st : Stream}

theorem streamStat_of_walk_left (h : st.kind = 0) (hl : st.pos < st.total) : s.streamStat tk st = statWord st 0 (st.total - st.pos) := by
  simp [streamStat, statWord, h, Nat.not_le.mpr hl]

theorem streamStat_of_walk_done (h : st.kind = 0) (hd : st.total ≤ st.pos) : s.streamStat tk st = statWord st 16 0 := by
  simp [streamStat, statWord, h, hd, Nat.sub_eq_zero_of_le hd]

theorem streamStat_of_in_open (h : st.kind = 1) (hc : (s.chan (chanOf tk st)).closed = false) :
    s.streamStat tk st = statWord st 0 (s.chan (chanOf tk st)).inRing := by
  simp [streamStat, statWord, h, hc]

theorem streamStat_of_in_closed (h : st.kind = 1) (hc : (s.chan (chanOf tk st)).closed = true) :
    s.streamStat tk st = statWord st (if (s.chan (chanOf tk st)).inRing = 0 then 24 else 8) (s.chan (chanOf tk st)).inRing := by
  by_cases h0 : (s.chan (chanOf tk st)).inRing = 0 <;> simp [streamStat, statWord, h, hc, h0]

theorem streamStat_of_out (h : st.kind = 2) :
    s.streamStat tk st = statWord st (if (s.chan (chanOf tk st)).inClosed then 8 else 0) (s.chan (chanOf tk st)).credits := by
  simp [streamStat, statWord, h]

end

/-! ## Q_STAT, Q_CLOSE, VQ_POP and VQ_PUSH as their thread issues them -/

section
variable {s : State} {t : Thread} {rd q : Reg}

theorem exec_qStat_of_unbound (hi : Claims.Issues s t) (h : (s.task t.task).streams.find q.toNat = none) :
    exec (.qStat rd q) s = .next (s.putCur (t.setX rd 0).next) := by
  show execQStat rd q s = _
  simp only [execQStat, issue_of_cur s t _ hi.1 hi.2, h]
  rfl

theorem exec_qStat_of_bound (hi : Claims.Issues s t) {st : Stream} (h : (s.task t.task).streams.find q.toNat = some st) :
    exec (.qStat rd q) s = .next (s.putCur (t.setX rd (s.streamStat (s.task t.task) st)).next) := by
  show execQStat rd q s = _
  simp only [execQStat, issue_of_cur s t _ hi.1 hi.2, h]
  rfl

theorem exec_qClose (hi : Claims.Issues s t) : exec (.qClose q) s = .next ((s.closeStream t.task q.toNat).retire t) := by
  show execQClose q s = _
  rw [execQClose, issue_of_cur s t _ hi.1 hi.2]

theorem exec_vqPop_of_vl_zero (hi : Claims.Issues s t) (h : t.vl = 0) :
    exec (.vqPop rd q) s = .next (s.putCur ({ t with vstart := 0 } : Thread).next) := by
  show execVqPop rd q s = _
  rw [execVqPop, issue_of_cur s t _ hi.1 hi.2, if_pos h]
  rfl

theorem exec_vqPush_of_vl_zero (hi : Claims.Issues s t) (h : t.vl = 0) :
    exec (.vqPush q rd) s = .next (s.putCur ({ t with vstart := 0 } : Thread).next) := by
  show execVqPush q rd s = _
  rw [execVqPush, issue_of_cur s t _ hi.1 hi.2, if_pos h]
  rfl

end

/-! ## A write that nothing watches -/

/-- What a write at a home leaves as it was: tasks, records, channels, reservations, monitors and mailboxes. -/
structure WriteFrame (s s' : State) : Prop where
  tasks : s'.tasks = s.tasks
  lcores : s'.lcores = s.lcores
  chans : s'.chans = s.chans
  resvs : s'.resvs = s.resvs
  monitors : s'.monitors = s.monitors
  binds : s'.binds = s.binds

namespace WriteFrame

theorem refl (s : State) : WriteFrame s s := ⟨rfl, rfl, rfl, rfl, rfl, rfl⟩

theorem trans {s s1 s2 : State} (h : WriteFrame s s1) (h' : WriteFrame s1 s2) : WriteFrame s s2 :=
  ⟨h'.tasks.trans h.tasks, h'.lcores.trans h.lcores, h'.chans.trans h.chans, h'.resvs.trans h.resvs, h'.monitors.trans h.monitors,
    h'.binds.trans h.binds⟩

end WriteFrame

theorem markDirty_writeFrame (s : State) (cells : List (Nat × Byte)) : WriteFrame s (s.markDirty cells) := by
  refine List.foldlRecOn cells _ (WriteFrame.refl s) (fun st h c _ => ?_)
  dsimp only
  split
  · split
    · exact h
    · exact h.trans ⟨rfl, rfl, rfl, rfl, rfl, rfl⟩
  · exact h

theorem fireMonitors_of_none {s : State} (h : s.monitors = []) (cells : List (Nat × Byte)) : s.fireMonitors cells = s := by
  simp [fireMonitors, h]

theorem fireMailboxes_of_none {s : State} (h : s.binds = []) (cells : List (Nat × Byte)) (origin : Option Nat) :
    s.fireMailboxes cells origin = s := by
  simp [fireMailboxes, h]

/-- With no monitor and no bound mailbox a write changes bytes, dirty lines and poison alone. -/
theorem applyWrite_writeFrame {s : State} (hm : s.monitors = []) (hb : s.binds = []) (cells : List (Nat × Byte)) (origin : Option Nat) :
    WriteFrame s (s.applyWrite cells origin true) := by
  have hwritten : WriteFrame s (((s.putCells cells).markDirty cells).clearPoison cells) := by
    have hput : WriteFrame s (s.putCells cells) := ⟨rfl, rfl, rfl, rfl, rfl, rfl⟩
    exact (hput.trans (markDirty_writeFrame _ _)).trans ⟨rfl, rfl, rfl, rfl, rfl, rfl⟩
  unfold applyWrite
  simp only [if_true, fireMonitors_of_none (hwritten.monitors.trans hm), fireMailboxes_of_none (hwritten.binds.trans hb)]
  exact hwritten

theorem foldl_applyWrite_writeFrame {α : Type} {s : State} (hm : s.monitors = []) (hb : s.binds = []) (l : List α)
    (cells : State → α → List (Nat × Byte)) (origin : Option Nat) :
    WriteFrame s (l.foldl (fun x e => x.applyWrite (cells x e) origin true) s) :=
  List.foldlRecOn l _ (WriteFrame.refl s) fun _ h _ _ =>
    h.trans (applyWrite_writeFrame (h.monitors.trans hm) (h.binds.trans hb) _ _)

/-! ## Steps that no reservation or repair holds back -/

theorem skipHead_of_no_resvs {s : State} (h : s.resvs = []) (ev : Instr) : s.skipHead ev = s := by
  simp [skipHead, h]

theorem atLines_of_quiet {s : State} (hr : s.resvs = []) (hm : s.marks = []) (pas : List Nat) (ev : Instr) (f : State → State) :
    s.atLines pas ev f = (f s).skipHead ev := by
  have hfree : pas.find? (fun a => s.isParked a || s.gate a ev == .wait) = none := by
    simp [List.find?_eq_none, isParked, gate, hr, hm, Tbl.find]
  simp only [atLines, hfree]

theorem elemsQueued_of_quiet {s : State} (hr : s.resvs = []) (hp : s.parked = []) (r : ChanRef) (ev : Instr) : s.elemsQueued r ev = false := by
  simp [elemsQueued, hr, hp]

/-! ## The steps of a channel -/

section
variable {s : State} {c : ChanRef} {elems : List Word}

theorem exec_channelElementsArrive_of_no_consumer (h : (s.chan c).inEnd = none) (hr : s.resvs = []) :
    exec (.channelElementsArrive c elems) s = .next s := by
  show execChannelElementsArrive c elems s = _
  simp only [execChannelElementsArrive, h, skipHead_of_no_resvs hr]

/-- Where nothing holds the step back and no pop waits, the step is its writes and the new count of the ring. -/
theorem exec_channelElementsArrive_of_quiet {key q cap : Nat} {st : Stream} (hin : (s.chan c).inEnd = some (key, q, cap))
    (hst : (s.task key).streams.find q = some st) (hw : s.streamWaiter key q false = none)
    (hm : s.monitors = []) (hb : s.binds = []) (hk : s.marks = []) (hr : s.resvs = []) (hp : s.parked = []) :
    ∃ s1, WriteFrame s s1 ∧
      exec (.channelElementsArrive c elems) s = .next (s1.modChan c (fun x => { x with inRing := x.inRing + elems.length })) := by
  have hwrites := foldl_applyWrite_writeFrame hm hb elems.zipIdx
    (fun x e => (x.ringPas (x.task key) st ((s.chan c).head + (s.chan c).inRing + e.2)).zip (toBytes st.esize e.1.toNat)) (s.chan c).origin
  refine ⟨_, hwrites, ?_⟩
  show execChannelElementsArrive c elems s = _
  simp only [execChannelElementsArrive, hin, hst, elemsQueued_of_quiet hr hp, atLines_of_quiet hr hk, Bool.false_eq_true, if_false]
  rw [servePop_of_no_waiter, skipHead_of_no_resvs]
  · rw [modChan_resvs, hwrites.resvs, hr]
  · rw [streamWaiter_eq_of_recs (modChan_tasks ..) (modChan_lcores ..), streamWaiter_eq_of_recs hwrites.tasks hwrites.lcores, hw]

theorem exec_channelCreditReturn_of_no_waiters (h : ∀ k q, s.streamWaiter k q true = none) (n : Nat) :
    exec (.channelCreditReturn c n) s = .next (s.modChan c (fun x => { x with credits := x.credits + n })) := by
  show execChannelCreditReturn c n s = _
  rw [execChannelCreditReturn, servePushes_of_no_waiters]
  intro k q
  rw [streamWaiter_eq_of_recs (modChan_tasks ..) (modChan_lcores ..), h]

theorem exec_channelCloseArrives_of_no_waiters (hw : ∀ k q, s.streamWaiter k q false = none) (hh : s.elemsHeld c = false)
    (hq : s.elemsQueued c (.channelCloseArrives c) = false) :
    exec (.channelCloseArrives c) s = .next (s.modChan c (·.producerClosed (s.producer c).isSome)) := by
  show execChannelCloseArrives c s = _
  simp only [execChannelCloseArrives, hh, hq, Bool.false_eq_true, or_self, if_false]
  split
  · rfl
  · rw [servePop_of_no_waiter]
    · rfl
    · rw [streamWaiter_eq_of_recs (modChan_tasks ..) (modChan_lcores ..), hw]

theorem exec_channelCloseArrives_of_held (h : s.elemsHeld c = true ∨ s.elemsQueued c (.channelCloseArrives c) = true) :
    exec (.channelCloseArrives c) s = .next (s.putBack (.channelCloseArrives c)) := by
  show execChannelCloseArrives c s = _
  rw [execChannelCloseArrives, if_pos h]

end

end State

end Sys2Proof.Machine

namespace Sys2Proof.Claims

open Sys2Proof.Machine

/-! ## Q_STAT, Q_CLOSE and the steps of a channel -/

theorem sameMemory_of_mem {s s' : State} (h : s'.mem = s.mem) : SameMemory s s' := fun _ => by rw [State.byteAt, State.byteAt, h]

/-- Settles O36: an instruction of a stream is the one operation that its binding and kind name; a step of a channel, with no thread
waiting, is one change of the channel, behind its writes for elements that arrive. -/
theorem streamStatusAndTraffic : Obligations.StreamStatusAndTraffic := by
  unfold Obligations.StreamStatusAndTraffic
  refine ⟨fun s t rd q hi => ⟨fun hst => ⟨State.exec_qStat_of_unbound hi hst, ?_⟩,
      fun hvl => ⟨State.exec_vqPop_of_vl_zero hi hvl, State.exec_vqPush_of_vl_zero hi hvl⟩, fun st hst => ?_, fun st hst hlive => ?_⟩,
    fun s c elems n => ⟨fun key q cap st hin hst hw hm hb hk hr hp => ?_, State.exec_channelElementsArrive_of_no_consumer, fun hw => ?_, fun hw hh hq => ?_,
      State.exec_channelCloseArrives_of_held⟩⟩
  · rw [State.exec_qClose hi, State.closeStream_of_unbound hst]
    rfl
  · refine ⟨fun h hl => ?_, fun h hd => ?_, fun h hc => ?_, fun h hc => ?_, fun h => ?_⟩ <;> rw [State.exec_qStat_of_bound hi hst]
    · rw [State.streamStat_of_walk_left h hl]
    · rw [State.streamStat_of_walk_done h hd]
    · rw [State.streamStat_of_in_open h hc]
    · rw [State.streamStat_of_in_closed h hc]
    · rw [State.streamStat_of_out h]
  · have htask := State.task_closeStream hst hlive
    refine ⟨_, State.exec_qClose hi, State.cur_putCur .., sameMemory_of_mem (State.closeStream_frame hst).1,
      (congrArg (·.streams.find q.toNat) htask).trans (Task.find_unbound ..),
      fun k hk => (congrArg (·.eod.getLsbD (4 * q.toNat + k)) htask).trans (Task.eod_unbound _ _ hk),
      State.channelCloseArrives_mem_closeStream hst,
      fun h1 => ⟨State.channelCreditReturn_mem_closeStream hst h1, fun c hc href => ?_⟩⟩
    obtain ⟨hin, hring, hopen, e, he, heref, hnoted⟩ := State.chan_of_closed_consumer hst h1 hc href
    exact ⟨hin, hring, hopen, fun b _ _ honly => honly e he heref ▸ hnoted⟩
  · obtain ⟨s1, hframe, hexec⟩ := State.exec_channelElementsArrive_of_quiet (elems := elems) hin hst hw hm hb hk hr hp
    have hchan := State.chan_modChan s1 c (fun x => { x with inRing := x.inRing + elems.length }) fun _ => rfl
    refine ⟨_, hexec, ?_, (State.modChan_tasks ..).trans hframe.tasks⟩
    rw [hchan, State.chan_eq_of_chans hframe.chans]
  · have hchan := State.chan_modChan s c (fun x => { x with credits := x.credits + n }) fun _ => rfl
    exact ⟨_, State.exec_channelCreditReturn_of_no_waiters hw n, congrArg Chan.credits hchan, sameMemory_of_mem (State.modChan_mem ..),
      State.modChan_tasks ..⟩
  · have hchan := State.chan_modChan s c (·.producerClosed (s.producer c).isSome) fun _ => rfl
    exact ⟨_, State.exec_channelCloseArrives_of_no_waiters hw hh hq, congrArg Chan.closed hchan, congrArg Chan.outBound hchan,
      congrArg Chan.credits hchan, (congrArg Chan.inRing hchan :), sameMemory_of_mem (State.modChan_mem ..), State.modChan_tasks ..⟩

end Sys2Proof.Claims
end

section
/-!
SUPPORT. Vector registers: an element after a write to one element or to those that an instruction acts on, signed elements, activity, and how an
instruction on vectors completes (07 R152, R153, R156, R161 to R164).
-/
namespace Sys2Proof.Machine

/-! ## The elements of a register (01 R21) -/

theorem ewBits_mul_elems (ew : BitVec 2) : ewBits ew * elems ew = 1024 := by
  revert ew
  decide

section
variable {ew : BitVec 2} {v : VReg} {i j k x : Nat}

theorem elem_lt : elem v ew i < 2 ^ ewBits ew := BitVec.isLt _

theorem elem_mod : elem v ew i % 2 ^ ewBits ew = elem v ew i := Nat.mod_eq_of_lt elem_lt

/-- The bits of an element of the register lie in the register. -/
theorem elem_bit_lt (hi : i < elems ew) (hk : k < ewBits ew) : ewBits ew * i + k < 1024 :=
  calc ewBits ew * i + k < ewBits ew * (i + 1) := Nat.add_lt_add_left hk _
    _ ≤ ewBits ew * elems ew := Nat.mul_le_mul_left _ hi
    _ = 1024 := ewBits_mul_elems ew

theorem testBit_elem (hk : k < ewBits ew) : (elem v ew i).testBit k = v.getLsbD (ewBits ew * i + k) := by
  show (v.extractLsb' _ _).getLsbD k = _
  simp [hk]

theorem testBit_elem_of_le (hk : ewBits ew ≤ k) : (elem v ew i).testBit k = false := BitVec.getLsbD_of_ge _ _ hk

/-- `setElem` clears the places of element `i` by its mask and puts the low bits of `x` there. -/
theorem getLsbD_setElem (hk : k < 1024) : (setElem v ew i x).getLsbD k =
    if ewBits ew * i ≤ k ∧ k - ewBits ew * i < ewBits ew then x.testBit (k - ewBits ew * i) else v.getLsbD k := by
  have hoff : k - ewBits ew * i < 1024 := Nat.lt_of_le_of_lt (Nat.sub_le ..) hk
  simp only [setElem, BitVec.getLsbD_or, BitVec.getLsbD_and, BitVec.getLsbD_not, BitVec.getLsbD_shiftLeft, BitVec.getLsbD_ofNat,
    Nat.testBit_two_pow_sub_one, Nat.testBit_mod_two_pow, hk, hoff]
  by_cases hlo : ewBits ew * i ≤ k
  · by_cases hhi : k - ewBits ew * i < ewBits ew <;> simp [hlo, Nat.not_lt.mpr hlo, hhi]
  · simp [hlo, Nat.lt_of_not_le hlo]

theorem elem_setElem_same (hi : i < elems ew) : elem (setElem v ew i x) ew i = x % 2 ^ ewBits ew := by
  refine Nat.eq_of_testBit_eq fun k => ?_
  rw [Nat.testBit_mod_two_pow]
  by_cases hk : k < ewBits ew
  · simp [testBit_elem hk, getLsbD_setElem (elem_bit_lt hi hk), hk]
  · simp [testBit_elem_of_le (Nat.not_lt.mp hk), hk]

theorem elem_setElem_ne (hj : j < elems ew) (hne : j ≠ i) : elem (setElem v ew i x) ew j = elem v ew j := by
  refine Nat.eq_of_testBit_eq fun k => ?_
  by_cases hk : k < ewBits ew
  · have hout : ¬(ewBits ew * i ≤ ewBits ew * j + k ∧ ewBits ew * j + k - ewBits ew * i < ewBits ew) := by
      rintro ⟨hle, hlt⟩
      have hji : j < i + 1 := Nat.lt_of_mul_lt_mul_left (a := ewBits ew) (by rw [Nat.mul_succ]; omega)
      have hij : i < j + 1 := Nat.lt_of_mul_lt_mul_left (a := ewBits ew) (by rw [Nat.mul_succ]; omega)
      omega
    rw [testBit_elem hk, testBit_elem hk, getLsbD_setElem (elem_bit_lt hj hk), if_neg hout]
  · rw [testBit_elem_of_le (Nat.not_lt.mp hk), testBit_elem_of_le (Nat.not_lt.mp hk)]

end

/-- Each element of the register is written at most once, by its own turn of the loop, since a write leaves the other elements (07 R153). -/
theorem elem_mapElems {ew : BitVec 2} {old : VReg} {act : Nat → Bool} {g : Nat → Nat} {i : Nat} (hi : i < elems ew) :
    elem (mapElems old ew act g) ew i = if act i then g i % 2 ^ ewBits ew else elem old ew i := by
  have hturns : ∀ n, n ≤ elems ew →
      elem ((List.range n).foldl (fun v i => if act i then setElem v ew i (g i) else v) old) ew i =
        if i < n ∧ act i then g i % 2 ^ ewBits ew else elem old ew i := by
    intro n hn
    induction n with
    | zero => simp
    | succ n ih =>
      rw [List.range_succ, List.foldl_append, List.foldl_cons, List.foldl_nil]
      by_cases hin : i = n
      · subst hin
        cases ha : act i
        · simpa [ha] using ih (Nat.le_of_succ_le hn)
        · simp [elem_setElem_same hi]
      · simp only [Nat.lt_succ_iff_lt_or_eq, hin, or_false]
        rw [← ih (Nat.le_of_succ_le hn)]
        split
        · exact elem_setElem_ne hi hin
        · rfl
  rw [mapElems, hturns _ (Nat.le_refl _)]
  simp [hi]

/-! ## Signed elements (03 R54, 07 R162) -/

section
variable {w : Nat} (x : BitVec w)

theorem signedOf_toNat (hw : 0 < w) : signedOf w x.toNat = x.toInt := by
  obtain ⟨m, rfl⟩ := Nat.exists_eq_succ_of_ne_zero (Nat.ne_of_gt hw)
  have hhalf : x.toNat < 2 ^ m ↔ 2 * x.toNat < 2 ^ (m + 1) := by omega
  simp [signedOf, BitVec.toInt_eq_toNat_cond, hhalf]

theorem intOf_toNat : Claims.intOf w x.toNat = x.toInt := (BitVec.toInt_eq_toNat_bmod x).symm

/-- The word that holds the number of a signed element modulo 2^64 is the element sign-extended. -/
theorem word_signedOf (hw : 0 < w) : word (signedOf w x.toNat % 2 ^ 64).toNat = x.signExtend 64 := by
  rw [signedOf_toNat x hw]
  exact (BitVec.ofNatLT_eq_ofNat _).symm

end

theorem toInt_word_signedOf_elem (v : VReg) (ew : BitVec 2) (i : Nat) :
    (word (signedOf (ewBits ew) (elem v ew i) % 2 ^ 64).toNat).toInt = Claims.intOf (ewBits ew) (elem v ew i) := by
  have hwidth : 0 < ewBits ew ∧ ewBits ew ≤ 64 := by
    revert ew
    decide
  rw [elem, word_signedOf _ hwidth.1, BitVec.toInt_signExtend_of_le hwidth.2, intOf_toNat]

/-! ## Activity (07 R152) -/

theorem Thread.active_of_lt {t : Thread} {ew pg : BitVec 2} {i : Nat} (hi : i < elems ew) :
    t.active ew pg i = (decide (i * 2 ^ ew.toNat < t.vl.toNat) && (t.getP pg.toNat).getLsbD (2 ^ ew.toNat * i)) := by
  simp [active, hi]

theorem Thread.active_iff {t : Thread} {ew pg : BitVec 2} {i : Nat} (hi : i < elems ew) :
    t.active ew pg i = true ↔ i * 2 ^ ew.toNat < t.vl.toNat ∧ (t.getP pg.toNat).getLsbD (2 ^ ew.toNat * i) = true := by
  rw [active_of_lt hi, Bool.and_eq_true, decide_eq_true_iff]

/-- Among the first elements of the register, the test for activity need not ask whether the element exists. -/
theorem Thread.filter_active {t : Thread} {ew pg : BitVec 2} {n : Nat} (hn : n ≤ elems ew) :
    (List.range n).filter (t.active ew pg) =
      (List.range n).filter (fun i => decide (i * 2 ^ ew.toNat < t.vl.toNat) && (t.getP pg.toNat).getLsbD (2 ^ ew.toNat * i)) :=
  List.filter_congr fun _ hi => active_of_lt (Nat.lt_of_lt_of_le (List.mem_range.mp hi) hn)

theorem Thread.length_filter_active_lt (t : Thread) (ew pg : BitVec 2) : ((List.range (elems ew)).filter (t.active ew pg)).length < 2 ^ 64 :=
  calc ((List.range (elems ew)).filter (t.active ew pg)).length ≤ (List.range (elems ew)).length := List.length_filter_le ..
    _ = elems ew := List.length_range
    _ ≤ 128 := Nat.div_le_self ..
    _ < 2 ^ 64 := by decide

/-! ## Instructions on elements as their thread issues them -/

namespace State
variable {s : State} {t : Thread}

/-- An instruction that changes its thread alone completes with `kxvstart` 0 (07 R153). -/
theorem issue_retire_vdone (hi : Claims.Issues s t) (g : Thread → Thread) :
    s.issue (fun t => s.retire (g t).vdone) = s.putCur ({ g t with vstart := 0 } : Thread).next :=
  issue_of_cur s t _ hi.1 hi.2

theorem vecInt_of_issues (hi : Claims.Issues s t) (f : KV) (g : Thread → Nat → Nat) :
    s.vecInt f g = s.putCur ({ t.setV f.vd (mapElems (t.getV f.vd) f.ew (t.active f.ew f.pg) (g t)) with vstart := 0 } : Thread).next :=
  issue_retire_vdone hi _

theorem exec_vsel (hi : Claims.Issues s t) (f : KV) :
    exec (.vsel f) s = .next (s.putCur ({ t.setV f.vd (mapElems (t.getV f.vd) f.ew (fun i => i * ewBytes f.ew < t.vl.toNat)
      (fun i => if (t.getP f.pg.toNat).getLsbD (ewBytes f.ew * i) then t.vb f i else t.va f i)) with vstart := 0 } : Thread).next) :=
  congrArg _ (issue_retire_vdone hi _)

theorem exec_vmvXv (hi : Claims.Issues s t) (f : KV) :
    exec (.vmvXv f) s = .next (s.putCur ({ t.setX f.vd (word (signedOf (ewBits f.ew) (t.vb f f.vs2.toNat) % 2 ^ 64).toNat) with
      vstart := 0 } : Thread).next) :=
  congrArg _ (issue_retire_vdone hi _)

theorem exec_vpcnt (hi : Claims.Issues s t) (f : KV) :
    exec (.vpcnt f) s = .next (s.putCur ({ t.setX f.vd (word ((List.range (elems f.ew)).filter (t.active f.ew f.pg)).length) with
      vstart := 0 } : Thread).next) :=
  congrArg _ (issue_retire_vdone hi _)

theorem exec_vpred (hi : Claims.Issues s t) (f : KV) :
    exec (.vpred f) s = .next (s.putCur ({ t.setP f.vd.toNat (predOp f.vs2.toNat (t.getP f.vs1.toNat) (t.getP f.pg.toNat)) with
      vstart := 0 } : Thread).next) :=
  congrArg _ (issue_retire_vdone hi _)

end State

end Sys2Proof.Machine

namespace Sys2Proof.Claims

open Sys2Proof.Machine

/-! ## VSEL, VPERM, VSLIDE, VIOTA, VMV_XV, VPRED and VPCNT -/

theorem activeElems_mapElems {t : Thread} {f : KV} {g : Nat → Nat} {R : Nat → Nat → Prop}
    (h : ∀ i, i < elems f.ew → R i (g i % 2 ^ ewBits f.ew)) :
    ActiveElems t f (mapElems (t.getV f.vd) f.ew (t.active f.ew f.pg) g) R := by
  intro i hi
  rw [elem_mapElems hi, ← Thread.active_iff hi]
  refine ⟨fun hact => ?_, fun hact => ?_⟩
  · rw [if_pos hact]
    exact h i hi
  · rw [if_neg hact]

/-- An instruction that `State.vecInt` carries out completes, with each active element in the relation that its result keeps (07 R153). -/
theorem vecInt_completes {s : State} {t : Thread} (hi : Issues s t) {f : KV} {g : Thread → Nat → Nat} {R : Nat → Nat → Prop}
    (h : ∀ i, i < elems f.ew → R i (g t i % 2 ^ ewBits f.ew)) :
    ∃ v, ActiveElems t f v R ∧
      (.next (s.vecInt f g) : Outcome) = .next (s.putCur ({ t.setV f.vd v with vstart := 0 } : Thread).next) :=
  ⟨_, activeElems_mapElems h, congrArg _ (State.vecInt_of_issues hi f g)⟩

/-- Settles O19: VSEL, VPERM, VSLIDE and VIOTA write elements of vd one by one, by `elem_mapElems`; an element that they move is its own remainder
modulo its width. VMV_XV sign-extends by `word_signedOf`, VPCNT's count fits in a word, and VPRED goes by its operation. -/
theorem vectorPermuteResult : Obligations.VectorPermuteResult := by
  unfold Obligations.VectorPermuteResult
  intro s t f hi
  refine ⟨⟨_, fun i hlt => ?_, State.exec_vsel hi f⟩, vecInt_completes hi fun i _ => ?_, vecInt_completes hi fun i _ => ?_,
    vecInt_completes hi fun i hlt => ?_, fun _ => ⟨_, ?_, State.exec_vmvXv hi f⟩, ⟨_, ?_, State.exec_vpcnt hi f⟩,
    fun hop => ⟨_, fun j hj => ?_, State.exec_vpred hi f⟩⟩
  · rw [elem_mapElems hlt]
    by_cases hvl : i * ewBytes f.ew < t.vl.toNat
    · rw [if_pos (decide_eq_true hvl), if_pos hvl, apply_ite (· % 2 ^ ewBits f.ew), Thread.va, Thread.vb, elem_mod, elem_mod]
    · rw [if_neg (mt of_decide_eq_true hvl), if_neg hvl]
  · rw [apply_ite (· % 2 ^ ewBits f.ew), Thread.va, elem_mod, Nat.zero_mod]
    rfl
  · rintro j rfl
    rw [apply_ite (· % 2 ^ ewBits f.ew), Thread.va, elem_mod, Nat.zero_mod]
  · rw [Thread.filter_active (Nat.le_of_lt hlt)]
  · exact toInt_word_signedOf_elem ..
  · rw [← Thread.filter_active (Nat.le_refl _)]
    exact Nat.mod_eq_of_lt (Thread.length_filter_active_lt ..)
  · generalize f.vs2.toNat = op at hop ⊢
    match op, hop with
    | 0, _ => exact BitVec.getLsbD_and
    | 1, _ => exact BitVec.getLsbD_or
    | 2, _ => exact BitVec.getLsbD_xor
    | 3, _ => simp only [predOp, BitVec.getLsbD_and, BitVec.getLsbD_not, hj, decide_true, Bool.true_and]
    | 4, _ => simp only [predOp, BitVec.getLsbD_not, hj, decide_true, Bool.true_and]
    | 5, _ => simp only [predOp, BitVec.getLsbD_allOnes, hj, decide_true]
    | 6, _ => exact BitVec.getLsbD_zero

end Sys2Proof.Claims
end
